-- ==== Sys2Proof/Word.lean ====
section
/-!
DEFINITION. Word.lean: the word types of the MG412 model. A bit vector stands only where the manual treats a value as
bits or as a number that wraps: frame numbers, stamps, content numbers, fields of messages, packets and the image.
-/
namespace Sys2Proof

/-- One byte of a message, a packet, the image or a view. -/
abbrev Byte := BitVec 8

/-- A 16-bit lane word of the pixel link (R118). -/
abbrev LaneWord := BitVec 16

/-- An output frame number, which wraps modulo 2^32 (R81). -/
abbrev FrameNo := BitVec 32

/-- A value of the stamp counter, which wraps modulo 2^32 (R79). -/
abbrev Stamp := BitVec 32

/-- A content number, which wraps modulo 2^16 (R137). -/
abbrev ContentNo := BitVec 16

/-- A set of stations, one bit for each of the stations 0 to 11 (roster of R177, live view of R190). -/
abbrev StationSet := BitVec 12

end Sys2Proof
end

