-- ==== Sys2Proof/Syntax.lean ====
section
/-!
DEFINITION. Syntax.lean: the commands of the MG412, one constructor for each row of spec/opcode_table.json. The table
gives no row any bits; the operands are what the row's event brings from outside the part, in the manual's fields.
-/
namespace Sys2Proof

/-- The reasons of a state change, in the order of their codes (R104). -/
inductive Reason where
  | join | input | light | silence | silent
  deriving DecidableEq, Repr

/-- The conditions a PULSE reports, in the order of their codes (R104). -/
inductive PulseCondition where
  | joining | live | dark
  deriving DecidableEq, Repr

/-- A frame as it becomes valid on the peer bus (R100). `extended` is the format bit read recessive and `remote` the
request bit read recessive; `identifier` is the first 11 identifier bits. -/
structure BusFrame where
  extended : Bool
  remote : Bool
  identifier : BitVec 11
  lengthCode : BitVec 4
  data : List Byte
  deriving DecidableEq, Repr

/-- A contributor entry of a grid record as read from the image (R180). -/
structure ContributorBytes where
  station : BitVec 8
  share : BitVec 16
  black : BitVec 24
  deriving DecidableEq, Repr

/-- A write transaction of the I2C target port after its START condition (R189): the seven address bits, the data bytes
after the first one, and whether a reset broke it off before its STOP or repeated START. The first data byte, the selector,
is what the row names. -/
structure I2cWrite where
  address : BitVec 7
  data : List Byte
  brokenOff : Bool
  deriving DecidableEq, Repr

/-- A write of the part's address that ends with its selector (R189). -/
def loneSelector : I2cWrite := { address := 0x46, data := [], brokenOff := false }

/-- The commands: what happens to the part from outside or by the passage of time. -/
inductive Instr where
  /-- POWER_ON_RESET (R183), with the level of the four strap pins (R173). -/
  | powerOnReset (straps : BitVec 4)
  /-- WARM_RESET (R183): the RESET pin asserted and released, with the strap pins' level at the release. -/
  | warmReset (straps : BitVec 4)
  /-- IMAGE_HEADER_CHECK (R175), with the fields of the 16 header bytes. -/
  | imageHeaderCheck (pattern : BitVec 32) (version : BitVec 16) (bodyLength : BitVec 32) (crc : BitVec 32)
      (imageId : BitVec 16)
  /-- SECTION_HEAD_CHECK (R176), with the section code and the length of the contents. -/
  | sectionHeadCheck (code : BitVec 8) (length : BitVec 24)
  /-- SETTINGS_SECTION_END (R177), with the entries (code, value) of the settings section. -/
  | settingsSectionEnd (entries : List (BitVec 8 × BitVec 32))
  /-- TABLE_ENTRY_CHECK (R179), with the entry read. -/
  | tableEntryCheck (entry : BitVec 16)
  /-- GRID_RECORD_CHECK (R180), with the fields of the record; a count above 3 has no entries read. -/
  | gridRecordCheck (share : BitVec 16) (white black : BitVec 24) (count : BitVec 8)
      (contributors : List ContributorBytes)
  /-- LOAD_COMPLETE (R181). -/
  | loadComplete
  /-- FRAME_START (R80): the raster timer reaches pixel 0 of line 0. `first` is the stamp counter's value at the first frame
  start after START, which the time of the load gives (log 1); R82 and R94 give the moment of every later one. -/
  | frameStart (first : Stamp)
  /-- FRAME_LINE_RELEASE (R84). -/
  | frameLineRelease
  /-- FRAME_LINE_EDGE (R85): a falling or a rising edge on the frame line, with its stamp. -/
  | frameLineEdge (falling : Bool) (stamp : Stamp)
  /-- BOUNDS_PASS_COMPLETE (R69). -/
  | boundsPassComplete
  /-- COEFF_PASS_COMPLETE (R72). -/
  | coeffPassComplete
  /-- SEND_EVENT (R83). -/
  | sendEvent
  /-- WINDOW_COMPLETION (R86). -/
  | windowCompletion
  /-- BUS_IDLE_JOIN (R106). -/
  | busIdleJoin
  /-- BEGIN_ATTEMPT (R115). -/
  | beginAttempt
  /-- LOST_ARBITRATION (R102). -/
  | lostArbitration
  /-- ATTEMPT_FAILED (R107). -/
  | attemptFailed
  /-- MESSAGE_COMPLETE (R116). -/
  | messageComplete
  /-- STATION_CLASH (R31), with the frame that became valid. -/
  | stationClash (frame : BusFrame)
  /-- FOREIGN_MESSAGE (R111), with the frame that became valid. -/
  | foreignMessage (frame : BusFrame)
  /-- RECEIVE_CHANGE (R39), with the sender and the fields of R104 and R105. -/
  | receiveChange (sender : BitVec 4) (live : Bool) (reason : Reason) (subject : BitVec 8) (epoch : FrameNo)
      (lam : BitVec 16)
  /-- RECEIVE_LIGHT (R50). -/
  | receiveLight (sender : BitVec 4) (epoch : FrameNo) (lam : BitVec 16)
  /-- RECEIVE_PULSE (R34). -/
  | receivePulse (sender : BitVec 4) (condition : PulseCondition) (driving heldValid : Bool) (frame : FrameNo)
      (held : ContentNo)
  /-- RECEIVE_BOUNDS (R54). -/
  | receiveBounds (sender : BitVec 4) (epochLow : BitVec 16) (floor ceiling : BitVec 24)
  /-- RECEIVE_LEVELS (R60). -/
  | receiveLevels (sender : BitVec 4) (lam mNow target remaining : BitVec 16)
  /-- SHOW_FADE (R57). -/
  | showFade (sender : BitVec 4) (start : FrameNo) (target duration : BitVec 16)
  /-- SHOW_IDENTIFY (R62). -/
  | showIdentify (sender : BitVec 4) (start : FrameNo) (mask : BitVec 16) (period on : BitVec 8)
  /-- SHOW_IDENTIFY_OFF (R64). -/
  | showIdentifyOff (sender : BitVec 4) (endFrame : FrameNo)
  /-- LANES_ACTIVE (R120). -/
  | lanesActive
  /-- LANE_ACTIVITY_LOST (R120), with the lane, and the bits that each lane in use received before it since the last bits
  brought. -/
  | laneActivityLost (lane : Nat) (received : List (List Bool) := [])
  /-- SETTLE_EXPIRY (R121). -/
  | settleExpiry
  /-- TRAINING_DECISION (R123). -/
  | trainingDecision
  /-- INPUT_TIMEOUT (R124). -/
  | inputTimeout
  /-- PACKET_LOST (R125), with the words that each lane in use read. -/
  | packetLost (words : List (List LaneWord))
  /-- LANE_SKEW (R126), with the words that each lane in use read. -/
  | laneSkew (words : List (List LaneWord))
  /-- FRAME_START_PACKET (R128), with the words that each lane in use read up to and including its start word, none for a lane
  that held its start word when the link came UP (R123), and the payload bytes. -/
  | frameStartPacket (heads : List (List LaneWord)) (payload : List Byte)
  /-- LINE_PACKET (R129). -/
  | linePacket (heads : List (List LaneWord)) (payload : List Byte)
  /-- FRAME_END_PACKET (R132). -/
  | frameEndPacket (heads : List (List LaneWord)) (payload : List Byte)
  /-- OTHER_PACKET (R127), with its kind code. -/
  | otherPacket (heads : List (List LaneWord)) (kind : Byte) (payload : List Byte)
  /-- STRAY_LINE_PACKET (R133): a LINE (false) or a FRAME_END (true) read with no frame open. -/
  | strayLinePacket (heads : List (List LaneWord)) (frameEnd : Bool) (payload : List Byte)
  /-- MEMORY_ECC (R149), with the source pixel of the SHOWING slot whose read could not be corrected. -/
  | memoryEcc (line column : Nat)
  /-- LIGHT_SAMPLE (R164), with the conversion; `ahead` says that a sample of patch line 0 is taken before the frame
  start it falls with (R165). -/
  | lightSample (value : BitVec 12) (ahead : Bool)
  /-- SELECT_CONDITION to SELECT_IMAGE (R189): the view selectors 1 to 10. -/
  | selectCondition (write : I2cWrite := loneSelector)
  | selectInput (write : I2cWrite := loneSelector)
  | selectStore (write : I2cWrite := loneSelector)
  | selectLock (write : I2cWrite := loneSelector)
  | selectPeers (write : I2cWrite := loneSelector)
  | selectEpochs (write : I2cWrite := loneSelector)
  | selectLevels (write : I2cWrite := loneSelector)
  | selectFaults (write : I2cWrite := loneSelector)
  | selectCounters (write : I2cWrite := loneSelector)
  | selectImage (write : I2cWrite := loneSelector)
  /-- CLEAR_FAULTS (R191). -/
  | clearFaults (write : I2cWrite)
  /-- RESTART (R192), with the strap pins' level. -/
  | restart (write : I2cWrite) (straps : BitVec 4)
  /-- ATTN_MASK (R192). -/
  | attnMask (write : I2cWrite)
  /-- SELECTOR_REFUSED (R189), with the first data byte. -/
  | selectorRefused (selector : Byte) (write : I2cWrite := loneSelector)
  /-- SYNC_RECOGNISED (R123), with the lane, and the bits that each of the four lanes received since the last bits brought, in
  order. -/
  | syncRecognised (lane : Nat) (bits0 bits1 bits2 bits3 : List Bool)
  /-- WARP_MESH_ENTRY_READ (R180), with the source column and line of the entry. -/
  | warpMeshEntryRead (sx sy : BitVec 16)
  deriving DecidableEq, Repr

end Sys2Proof
end

