-- ==== Sys2Proof/WellFormed.lean ====
section
/-!
DEFINITION. WellFormed.lean: which command terms name an event their row can stand for. The machine runs every term;
a term that is refused here names no event of its row.
-/
namespace Sys2Proof

/-- How many bits of two lane words differ. -/
def laneDistance (a b : LaneWord) : Nat :=
  ((List.range 16).filter (fun i => (a ^^^ b).getLsbD i)).length

/-- A bus frame holds as many data bytes as its length code gives, at most 8, and none when it is remote (R100). -/
def BusFrame.wellFormed (f : BusFrame) : Bool :=
  f.data.length == (if f.remote then 0 else min f.lengthCode.toNat 8)

/-- One list for each lane in use, 1, 2 or 4 lanes (R118). -/
def lanesWellFormed (n : Nat) : Bool := n == 1 || n == 2 || n == 4

/-- A word equal to idle or one bit off it (R125). -/
def idleLike (w : LaneWord) : Bool := decide (laneDistance w 0x1A5C ≤ 1)

/-- A word that is neither idle, nor sync, nor one bit off either: a bad start (R125). -/
def badStartWord (w : LaneWord) : Bool := !(idleLike w) && decide (2 ≤ laneDistance w 0xE5A3)

/-- The words of each lane end in a word that marks a packet start, or there are none, where the lane held its start word when
the link came UP; the lane that synced last held nothing then (R123, R125). -/
def headsWellFormed (heads : List (List LaneWord)) : Bool :=
  lanesWellFormed heads.length && heads.any (fun l => !l.isEmpty) && heads.all (fun l => match l.getLast? with
    | some w => !(idleLike w)
    | none => true)

/-- With several lanes, some of which bring words: a start among them may stand in the data that its lane held when the link came
UP (R123, R125, R126). -/
def severalBring (words : List (List LaneWord)) : Bool := decide (2 ≤ words.length) && words.any (fun l => !l.isEmpty)

/-- A write that the port takes part in: it bears the port's address (R189). -/
def I2cWrite.wellFormed (w : I2cWrite) : Bool := w.address == 0x46

/-- A payload's length fits the header's two bytes (R127). -/
def payloadWellFormed (p : List Byte) : Bool := decide (p.length ≤ 65535)

/-- The well-formed commands. -/
def Instr.wellFormed : Instr → Bool
  | .settingsSectionEnd entries => !entries.isEmpty && decide (5 * entries.length < 2 ^ 24)
  | .gridRecordCheck _ _ _ count contributors =>
      contributors.length == (if count.toNat ≤ 3 then count.toNat else 0)
  | .stationClash frame => frame.wellFormed && !frame.extended && !frame.remote
  | .foreignMessage frame => frame.wellFormed
  | .receiveChange sender _ _ _ _ _ => decide (sender.toNat < 12)
  | .receiveLight sender _ _ => decide (sender.toNat < 12)
  | .receivePulse sender _ _ _ _ _ => decide (sender.toNat < 12)
  | .receiveBounds sender _ _ _ => decide (sender.toNat < 12)
  | .receiveLevels sender _ _ _ _ => decide (sender.toNat < 12)
  | .showFade sender _ _ _ => decide (12 ≤ sender.toNat)
  | .showIdentify sender _ _ _ _ => decide (12 ≤ sender.toNat)
  | .showIdentifyOff sender _ => decide (12 ≤ sender.toNat)
  | .laneActivityLost lane received =>
      if received.isEmpty then decide (lane < 4) else lanesWellFormed received.length && decide (lane < received.length)
  | .packetLost words => lanesWellFormed words.length && (words.any (fun l => l.any badStartWord) || severalBring words)
  | .laneSkew words => lanesWellFormed words.length && severalBring words
  | .frameStartPacket heads payload => headsWellFormed heads && payloadWellFormed payload
  | .linePacket heads payload => headsWellFormed heads && payloadWellFormed payload
  | .frameEndPacket heads payload => headsWellFormed heads && payloadWellFormed payload
  | .otherPacket heads kind payload =>
      headsWellFormed heads && payloadWellFormed payload && (kind == 0 || decide (4 ≤ kind.toNat))
  | .strayLinePacket heads _ payload => headsWellFormed heads && payloadWellFormed payload
  | .memoryEcc line column => decide (line < 1600 ∧ column < 2560)
  | .selectorRefused selector write => write.wellFormed &&
      !(decide (1 ≤ selector.toNat ∧ selector.toNat ≤ 10) || decide (64 ≤ selector.toNat ∧ selector.toNat ≤ 66))
  | .syncRecognised lane _ _ _ _ => decide (lane < 4)
  | .selectCondition write | .selectInput write | .selectStore write | .selectLock write | .selectPeers write
  | .selectEpochs write | .selectLevels write | .selectFaults write | .selectCounters write | .selectImage write
  | .clearFaults write | .restart write _ | .attnMask write => write.wellFormed
  | .powerOnReset _ | .warmReset _ | .imageHeaderCheck _ _ _ _ _ | .sectionHeadCheck _ _ | .tableEntryCheck _
  | .loadComplete | .frameStart _ | .frameLineRelease | .frameLineEdge _ _ | .boundsPassComplete
  | .coeffPassComplete | .sendEvent | .windowCompletion | .busIdleJoin | .beginAttempt | .lostArbitration
  | .attemptFailed | .messageComplete | .lanesActive | .settleExpiry | .trainingDecision | .inputTimeout
  | .lightSample _ _ | .warpMeshEntryRead _ _ => true

end Sys2Proof
end

