-- ==== Sys2Proof/Decode.lean ====
section
/-!
DEFINITION. Decode.lean: the command that a word spells by the opcode table's bits. No row of spec/opcode_table.json
gives bits (every "fields" is empty), so no word spells a command (log 1).
-/
namespace Sys2Proof

/-- The command spelled by `nbits` bits `w` of the opcode table: none, for the table gives no row any bits. -/
def decodeTableWord (_nbits _w : Nat) : Option Instr := none

end Sys2Proof
end

