-- ==== Sys2Proof/Config.lean ====
section
/-!
DEFINITION. Config.lean: the values the manual leaves open. They have no body, so nothing can be proved of the value.
-/
namespace Sys2Proof

/-- The free choice among the blocks whose reports stand at one moment: R184 and R186 let the fault unit take them in
either order (log 3). The argument is the model's count of choices taken, so each choice is free of the others. -/
opaque Config.reportChoice : Nat → Nat

end Sys2Proof
end

