-- ==== Sys2Proof/Machine/State.lean ====
section
/-!
DEFINITION. Machine/State.lean: the state of one MG412 as plain data, block by block as the manual owns it, the machine's
reasons to stop, and the state right after power-on reset.
-/
namespace Sys2Proof.Machine

/-- The own condition (R23), in the order of its list. -/
inductive Condition where
  | start | joining | live | dark | halted
  deriving DecidableEq, Repr

/-- The lock state (R88), in the order of its list. -/
inductive LockState where
  | listen | alone | pulling | locked | free
  deriving DecidableEq, Repr

/-- The link state (R119, section 7.2). -/
inductive LinkState where
  | down | settle | training | up
  deriving DecidableEq, Repr

/-- The port state (R106). -/
inductive PortState where
  | disabled | active | off
  deriving DecidableEq, Repr

/-- The light state (R169). -/
inductive LightState where
  | unknown | lit | out
  deriving DecidableEq, Repr

/-- The loader state (R174). -/
inductive LoaderState where
  | readingHeader | readingBody | done | failed
  deriving DecidableEq, Repr

/-- The phase of an epoch record (R38). -/
inductive Phase where
  | opened | bounded | cut | banked
  deriving DecidableEq, Repr

/-- The status of a coefficient bank (R73). -/
inductive BankStatus where
  | active | spareEmpty | spareFilling | spareReady
  deriving DecidableEq, Repr

/-- The state of a slot of the frame store (R136). -/
inductive SlotState where
  | free | filling | ready | showing
  deriving DecidableEq, Repr

/-- Input health (R135). -/
inductive Health where
  | good | failed
  deriving DecidableEq, Repr

/-- The source of a light factor table entry (R47). -/
inductive FactorSource where
  | epoch | levels
  deriving DecidableEq, Repr

/-- The class of a capture window (R86). -/
inductive WindowClass where
  | measured | noEdges | lineFault
  deriving DecidableEq, Repr

/-- The kind of a solver job (R65). -/
inductive JobKind where
  | bounds | coeff
  deriving DecidableEq, Repr

/-- The fault kinds, in the order of their kind numbers (section 12.1). -/
inductive FaultKind where
  | nodeDegenerate | staleBound | levelCollapse | stationClash | peerSilent | selfSilent | strayStation | lateChange
  | epochMerge | viewRepair | strayBound | showRange | lateShow | lateBank | lineStuck | lockLost | farPhase | frameJump
  | countAdopt | portOff | foreignMessage | txOverflow | pulseSkipped | trainingFail | inputTimeout | laneCorrected
  | laneUncorrectable | laneSkew | formatMismatch | lineLength | lineCheck | framePoisoned | inputFailed | storeOverrun
  | storeRefused | contentRestart | frameRepeat | contentBehind | memoryEcc | sensorSat | lightOut | strapInvalid
  | imageInvalid | imageClamp
  deriving DecidableEq, Repr

/-- The blocks that make fault reports (block overview of 00_scope.md). -/
inductive Block where
  | controller | agreement | solver | frameLine | port | link | store | light | loader
  deriving DecidableEq, Repr

/-- What a message of the peer bus says, in the named fields of R104 and R105. -/
inductive Body where
  | change (live : Bool) (reason : Reason) (subject : BitVec 8) (epoch : FrameNo) (lam : BitVec 16)
  | fade (start : FrameNo) (target duration : BitVec 16)
  | identify (start : FrameNo) (mask : BitVec 16) (period on : BitVec 8)
  | identifyOff (endFrame : FrameNo)
  | pulse (condition : PulseCondition) (driving heldValid : Bool) (frame : FrameNo) (held : ContentNo)
  | light (epoch : FrameNo) (lam : BitVec 16)
  | bounds (epochLow : BitVec 16) (floor ceiling : BitVec 24)
  | levels (lam mNow target remaining : BitVec 16)
  deriving DecidableEq, Repr

/-- A message of the peer bus: its sender number and what it says (R103). -/
structure Message where
  sender : BitVec 4
  body : Body
  deriving DecidableEq, Repr

/-- The station controller (R23). -/
structure Controller where
  condition : Condition
  listen : Nat
  dwell : Nat
  aligned : Nat
  selfSilence : Nat
  deriving DecidableEq, Repr

/-- The last PULSE of a peer record, with the own frame number in which it was taken (R33, R34). -/
structure PulseInfo where
  frame : FrameNo
  held : ContentNo
  heldValid : Bool
  condition : PulseCondition
  driving : Bool
  takenIn : FrameNo
  deriving DecidableEq, Repr

/-- The last LEVELS of a peer record (R60). -/
structure LevelsInfo where
  lam : Nat
  mNow : Nat
  target : Nat
  remaining : Nat
  deriving DecidableEq, Repr

/-- An entry of the light factor table (R47). -/
structure Factor where
  lam : Nat
  source : FactorSource
  deriving DecidableEq, Repr

/-- The last bounds of a peer record (R54). -/
structure LastBounds where
  epochLow : BitVec 16
  floor : Nat
  ceiling : Nat
  deriving DecidableEq, Repr

/-- One record of the peer table (R33). -/
structure PeerRecord where
  heard : Bool
  pulse : Option PulseInfo
  silence : Nat
  repair : Nat
  levels : Option LevelsInfo
  factor : Option Factor
  bounds : Option LastBounds
  deriving DecidableEq, Repr

/-- A state change of an epoch record (R38). -/
structure StateChange where
  subject : Nat
  live : Bool
  reason : Reason
  lam : Option Nat
  deriving DecidableEq, Repr

/-- A light change of an epoch record (R38). -/
structure LightChange where
  station : Nat
  lam : Nat
  deriving DecidableEq, Repr

/-- An entry of a record's bounds table (R38). -/
structure BoundsEntry where
  station : Nat
  floor : Nat
  ceiling : Nat
  received : Bool
  deriving DecidableEq, Repr

/-- A pair of agreed levels F and C, in DLU (R13). -/
structure LevelPair where
  floor : Nat
  ceiling : Nat
  deriving DecidableEq, Repr

/-- One record of the pending epoch list (R38); `jobQueued` says that its bounds job has been queued (R52). -/
structure EpochRecord where
  frame : FrameNo
  states : List StateChange
  lights : List LightChange
  bounds : List BoundsEntry
  levels : Option LevelPair
  phase : Phase
  jobQueued : Bool
  deriving DecidableEq, Repr

/-- The fade state (R56). -/
structure Fade where
  m : Nat
  target : Nat
  remaining : Nat
  deriving DecidableEq, Repr

/-- The pending fade (R57). -/
structure PendingFade where
  start : FrameNo
  target : Nat
  duration : Nat
  deriving DecidableEq, Repr

/-- The identify state (R62). -/
structure Identify where
  start : FrameNo
  period : Nat
  on : Nat
  endFrame : Option FrameNo
  deriving DecidableEq, Repr

/-- The agreement unit: peer table, live view, pending epoch list, levels in effect, fade and identify states. -/
structure Agreement where
  peers : List PeerRecord
  live : StationSet
  epochs : List EpochRecord
  levels : LevelPair
  fade : Fade
  pendingFade : Option PendingFade
  adopted : Option Fade
  identify : Option Identify
  onFrame : Bool
  deriving DecidableEq, Repr

/-- A job of the solver's queue (R65); a coefficient job carries the levels its record was cut with (R67). -/
structure Job where
  kind : JobKind
  epoch : FrameNo
  levels : LevelPair
  deriving DecidableEq, Repr

/-- A running pass with its own copy of its inputs (R67): the projected live view and light factors (R49, R5). -/
structure Pass where
  job : Job
  live : StationSet
  factors : List Nat
  deriving DecidableEq, Repr

/-- The lift and gain coefficients of one node (R15, R16). -/
structure Coeff where
  k : Nat
  a : Nat
  deriving DecidableEq, Repr

/-- A coefficient bank (R73). `coeffs` lists the nodes in storage order; a node past the list holds K = 0 and A = 0. -/
structure Bank where
  coeffs : List Coeff
  tag : Option FrameNo
  status : BankStatus
  deriving DecidableEq, Repr

/-- The node solver (R65, R73, R75). -/
structure Solver where
  queue : List Job
  running : Option Pass
  bank0 : Bank
  bank1 : Bank
  lateSwap : Option FrameNo
  deriving DecidableEq, Repr

/-- An edge seen on the frame line (R85). -/
structure Edge where
  falling : Bool
  stamp : Stamp
  deriving DecidableEq, Repr

/-- The last measurement of the frame line unit (R86). -/
structure Measurement where
  cls : WindowClass
  tFall : Option Stamp
  span : Option Int
  e : Option Int
  deriving DecidableEq, Repr

/-- The output raster: active size, totals and nominal pixel rate (R80, R182). -/
structure Raster where
  width : Nat
  height : Nat
  hTotal : Nat
  vTotal : Nat
  f0 : Nat
  deriving DecidableEq, Repr

/-- A number of stamps, `num` ÷ `den` (R82). -/
structure Fraction where
  num : Nat
  den : Nat
  deriving DecidableEq, Repr

/-- The frame line unit with its raster timer and synthesizer (R79 to R99). The frame in progress began `startFrac` of a
stamp after `startStamp` (R79, R82). `sendPending` and `windowPending` say that its send event and its window completion
are still to come (R83, R85). `haltPlace` is the place of its walk at which a halt cut it, as the number of raster positions
begun before the halt, when one did (R158). -/
structure FrameLine where
  stamp : Stamp
  running : Bool
  raster : Raster
  firstDue : Bool
  startStamp : Stamp
  startFrac : Fraction
  frameNo : FrameNo
  target : Option FrameNo
  trim : Int
  staged : Int
  integral : Int
  lock : LockState
  near : Nat
  quiet : Nat
  inside : Nat
  outside : Nat
  good : Nat
  jumpWait : Nat
  driving : Bool
  pulling : Bool
  low : Bool
  edges : List Edge
  baseLow : Bool
  windowOpen : Stamp
  windowPending : Bool
  last : Measurement
  nextStart : Option Stamp
  sendPending : Bool
  haltPlace : Option Nat
  deriving DecidableEq, Repr

/-- The peer bus port (R106 to R117). A single-place queue lists a second message while its first is on the bus. -/
structure Port where
  state : PortState
  joined : Bool
  failures : Nat
  offCount : Nat
  change : List Message
  pulse : List Message
  light : List Message
  bounds : List Message
  levels : List Message
  attempt : Option Message
  deriving DecidableEq, Repr

/-- One lane in training (R122, R123): its counts, the checker's last seven bits and the bits not judged yet, each newest
first, how many bits it has received since training began, how many it had when it recognised its sync, and the bits that it
has received since then and holds, in the order received. -/
structure Lane where
  checked : Nat
  mismatched : Nat
  checker : List Bool
  unjudged : List Bool
  received : Nat
  syncAt : Option Nat
  held : List Bool
  deriving DecidableEq, Repr

/-- The class of a word read while hunting (R125). -/
inductive StartClass where
  | idle | sync | corrected | bad
  deriving DecidableEq, Repr

/-- One lane while the link is UP (R123, R125, R126): the words it holds, the first bits of the next word that it held when the
link came UP, how many words it has used since its sync, the class of the start word it has marked, and whether it discards
words up to an idle word. -/
structure LaneReader where
  words : List LaneWord
  part : List Bool
  used : Nat
  mark : Option StartClass
  seeking : Bool
  deriving DecidableEq, Repr

/-- The open frame (section 7.4); it is poisoned when it has a poison cause (R131). -/
structure OpenFrame where
  content : ContentNo
  slot : Option Nat
  nextLine : Nat
  poison : Option Nat
  deriving DecidableEq, Repr

/-- The link receiver (R119). A timer that runs holds the stamp at which it last started. -/
structure Link where
  state : LinkState
  lanes : List Lane
  readers : List LaneReader
  openFrame : Option OpenFrame
  health : Health
  miss : Nat
  cleanRun : Nat
  cleanFlag : Bool
  settleTimer : Option Stamp
  inputTimer : Option Stamp
  deriving DecidableEq, Repr

/-- One slot of the frame store (R136). -/
structure Slot where
  state : SlotState
  content : Option ContentNo
  completed : Option FrameNo
  deriving DecidableEq, Repr

/-- Three codes of one pixel, red, green and blue. -/
structure Rgb where
  red : Nat
  green : Nat
  blue : Nat
  deriving DecidableEq, Repr

/-- The frame store (R136), with the frame memory (log 7), the addresses whose word has an error that a read cannot correct,
and whether the frame in progress has made its MEMORY_ECC report (R149). -/
structure Store where
  slots : List Slot
  behind : Nat
  restartMark : Bool
  lastKept : Option ContentNo
  selection : Option ContentNo
  memory : List (Nat × Rgb)
  errors : List Nat
  eccReported : Bool
  deriving DecidableEq, Repr

/-- An entry of a contributor list (R2). -/
structure Contributor where
  station : Nat
  share : Nat
  black : Nat
  deriving DecidableEq, Repr

/-- A node record of the coverage grid (R2). -/
structure NodeRecord where
  share : Nat
  white : Nat
  black : Nat
  contributors : List Contributor
  deriving DecidableEq, Repr

/-- An entry of the warp mesh, in eighths of a source pixel (R3). -/
structure MeshEntry where
  sx : Int
  sy : Int
  deriving DecidableEq, Repr

/-- The frame setup (R151); `source` is a slot number or none, `bank` is 0 or 1. -/
structure Setup where
  frame : FrameNo
  patchOn : Bool
  identify : Bool
  condition : Condition
  bank : Nat
  m : Nat
  source : Option Nat
  deriving DecidableEq, Repr

/-- The pixel path: what the loader filled, and the frame setup (section 9.1). -/
structure PixelPath where
  mesh : List MeshEntry
  grid : List NodeRecord
  inputRed : List Nat
  inputGreen : List Nat
  inputBlue : List Nat
  output : List Nat
  setup : Option Setup
  aside : Option Setup
  deriving DecidableEq, Repr

/-- An on-sample held with the frame in which it was taken (R165). -/
structure OnSample where
  value : Nat
  frame : FrameNo
  deriving DecidableEq, Repr

/-- The last cycle formed (R172). -/
structure Cycle where
  on : Nat
  off : Nat
  frame : FrameNo
  deriving DecidableEq, Repr

/-- The light monitor (R164 to R172). -/
structure LightMonitor where
  held : Option OnSample
  cycle : Option Cycle
  filtered : Nat
  measured : Nat
  hadValid : Bool
  announced : Nat
  state : LightState
  outCount : Nat
  spacing : Nat
  deriving DecidableEq, Repr

/-- The settings of the calibration image (R177). -/
structure Settings where
  roster : StationSet
  inWidth : Nat
  inHeight : Nat
  inFormat : Nat
  laneCount : Nat
  settleTime : Nat
  trainingThreshold : Nat
  inputTimeout : Nat
  width : Nat
  height : Nat
  hTotal : Nat
  vTotal : Nat
  f0 : Nat
  lockWindow : Nat
  pullRange : Nat
  slew : Nat
  busRate : Nat
  silenceTimeout : Nat
  lead : Nat
  holdLimit : Nat
  rejoin : Nat
  overrun : Nat
  patchLeft : Nat
  patchTop : Nat
  patchWidth : Nat
  patchHeight : Nat
  patchLine : Nat
  sCal : Nat
  lamOut : Nat
  drift : Nat
  maskLow : Option (BitVec 32)
  maskHigh : Option (BitVec 32)
  deriving DecidableEq, Repr

/-- The header fields of the image (R175). -/
structure Header where
  pattern : BitVec 32
  version : BitVec 16
  bodyLength : BitVec 32
  crc : BitVec 32
  imageId : BitVec 16
  deriving DecidableEq, Repr

/-- The image loader (R174), with the strapped number (R173). -/
structure Loader where
  strapped : BitVec 4
  state : LoaderState
  bytes : Nat
  sectionNo : Nat
  inSection : Bool
  left : Nat
  code : Option Nat
  clamps : List Nat
  header : Option Header
  crc : BitVec 32
  settings : Option Settings
  deriving DecidableEq, Repr

/-- A record of the fault unit (R186); its class is that of its kind. -/
structure FaultRecord where
  kind : FaultKind
  frame : FrameNo
  detail : BitVec 16
  deriving DecidableEq, Repr

/-- The fault unit (R184 to R188). `moment` lists the reports of the moment in progress and `freeCount` counts the free
choices of their order (log 3): both are the model's own. -/
structure FaultUnit where
  counters : List Nat
  first : Option FaultRecord
  last : Option FaultRecord
  pending : BitVec 64
  mask : BitVec 64
  moment : List (Block × FaultRecord)
  freeCount : Nat
  deriving DecidableEq, Repr

/-- The maintenance port (R189): the selected view, and the acknowledge bits it gave to the last write that bore its
address, the address byte's first. -/
structure Maintenance where
  view : Nat
  acks : List Bool
  deriving DecidableEq, Repr

/-- The state of one MG412, with the queue of commands that wait (the model's own). -/
structure State where
  pending : List Instr
  ctl : Controller
  agr : Agreement
  sol : Solver
  line : FrameLine
  port : Port
  link : Link
  store : Store
  pix : PixelPath
  light : LightMonitor
  loader : Loader
  settings : Settings
  faults : FaultUnit
  maint : Maintenance
  deriving DecidableEq, Repr

/-- The reasons a step can fault: none. Every fault of the manual is a report to the fault unit, which is an effect on
the state (R184). -/
inductive Fault where
  deriving DecidableEq, Repr

/-- The reasons a step can be refused. -/
inductive Refusal where
  /-- Raised by exec for a command that has no meaning yet (no command of this model); safe, for the run stops. -/
  | notModelled (mnemonic : String)
  deriving DecidableEq, Repr

/-- An empty record of the peer table (R33). -/
def emptyPeer : PeerRecord :=
  { heard := false, pulse := none, silence := 0, repair := 0, levels := none, factor := none, bounds := none }

/-- The empty peer table of station `own`: every record empty, the own light factor 1.0 from EPOCH (R33, R47). -/
def emptyPeers (own : Nat) : List PeerRecord :=
  (List.range 12).map (fun i =>
    if i = own then { emptyPeer with factor := some { lam := 16384, source := .epoch } } else emptyPeer)

/-- The station controller after a reset (R23). -/
def resetController : Controller :=
  { condition := .start, listen := 0, dwell := 0, aligned := 0, selfSilence := 0 }

/-- The agreement unit of station `own` after a reset and on entry to JOINING (R33, R38, R47, R51, R56, R57, R61,
R62). An `own` of 12 to 15 has no record, so that none holds the own light factor (DESIGN CHOICE, log 32). -/
def resetAgreement (own : Nat) : Agreement :=
  { peers := emptyPeers own, live := 0, epochs := [], levels := { floor := 0, ceiling := 16777215 }
    fade := { m := 4096, target := 4096, remaining := 0 }, pendingFade := none, adopted := none, identify := none
    onFrame := false }

/-- The node solver after a reset (R65, R73, R78). -/
def resetSolver : Solver :=
  { queue := [], running := none, bank0 := { coeffs := [], tag := none, status := .active }
    bank1 := { coeffs := [], tag := none, status := .spareEmpty }, lateSwap := none }

/-- The fixed raster of R182. -/
def fixedRaster : Raster := { width := 1920, height := 1080, hTotal := 2200, vTotal := 1125, f0 := 148500000 }

/-- The frame line unit after a reset that leaves the stamp counter at `stamp` and the line at level `low` (R79, R81,
R82, R84, R86, R88, R97, R98). -/
def resetFrameLine (stamp : Stamp) (low : Bool) : FrameLine :=
  { stamp := stamp, running := false, raster := fixedRaster, firstDue := false, startStamp := 0
    startFrac := { num := 0, den := 1 }, frameNo := 0
    target := none, trim := 0, staged := 0, integral := 0, lock := .listen, near := 0, quiet := 0, inside := 0
    outside := 0, good := 0, jumpWait := 0, driving := false, pulling := false, low := low, edges := []
    baseLow := false, windowOpen := 0, windowPending := false
    last := { cls := .noEdges, tFall := none, span := none, e := none }, nextStart := none, sendPending := false, haltPlace := none }

/-- The peer bus port after a reset (R106). -/
def resetPort : Port :=
  { state := .disabled, joined := false, failures := 0, offCount := 0, change := [], pulse := [], light := []
    bounds := [], levels := [], attempt := none }

/-- A lane with nothing received (R119, R122). -/
def freshLane : Lane :=
  { checked := 0, mismatched := 0, checker := [], unjudged := [], received := 0, syncAt := none, held := [] }

/-- A lane that hunts with no word read (R123, R125). -/
def freshReader : LaneReader := { words := [], part := [], used := 0, mark := none, seeking := false }

/-- The link receiver after a reset (R119). -/
def resetLink : Link :=
  { state := .down, lanes := List.replicate 4 freshLane, readers := List.replicate 4 freshReader, openFrame := none
    health := .failed, miss := 0, cleanRun := 0, cleanFlag := false, settleTimer := none, inputTimer := none }

/-- A FREE slot (R136). -/
def freeSlot : Slot := { state := .free, content := none, completed := none }

/-- The frame store after a reset that leaves the frame memory as `memory`, with errors at `errors` (R136, R150, R183). -/
def resetStore (memory : List (Nat × Rgb)) (errors : List Nat) : Store :=
  { slots := List.replicate 4 freeSlot, behind := 0, restartMark := false, lastKept := none, selection := none
    memory := memory, errors := errors, eccReported := false }

/-- The pixel path after a reset: no frame setup (R151), the tables to be read afresh (R183, log 5). -/
def resetPixelPath : PixelPath :=
  { mesh := [], grid := [], inputRed := [], inputGreen := [], inputBlue := [], output := [], setup := none
    aside := none }

/-- The light monitor after a reset (R172). -/
def resetLight : LightMonitor :=
  { held := none, cycle := none, filtered := 0, measured := 0, hadValid := false, announced := 16384
    state := .unknown, outCount := 0, spacing := 0 }

/-- The loader at the entry to START with the strap pins at `straps` (R173, R174). -/
def resetLoader (straps : BitVec 4) : Loader :=
  { strapped := straps, state := .readingHeader, bytes := 0, sectionNo := 0, inSection := false, left := 0, code := none
    clamps := [], header := none, crc := 0xFFFFFFFF, settings := none }

/-- The settings before a load takes effect: the defaults of R177, the fixed raster of R182, and the lowest values for
the other required settings (DESIGN CHOICE, log 5); no block reads them. -/
def resetSettings : Settings :=
  { roster := 0, inWidth := 1, inHeight := 1, inFormat := 1, laneCount := 1, settleTime := 20, trainingThreshold := 8
    inputTimeout := 40, width := 1920, height := 1080, hTotal := 2200, vTotal := 1125, f0 := 148500000
    lockWindow := 500, pullRange := 300, slew := 256, busRate := 2, silenceTimeout := 12, lead := 6, holdLimit := 3
    rejoin := 30, overrun := 1, patchLeft := 0, patchTop := 0, patchWidth := 0, patchHeight := 0, patchLine := 0
    sCal := 1, lamOut := 4096, drift := 164, maskLow := none, maskHigh := none }

/-- The default ATTN mask: the kinds of class SEAM and HALT (R188, section 12.1). -/
def defaultMask : BitVec 64 := 0x00000761000972BF

/-- The fault unit after power-on (R183, R185 to R188). -/
def resetFaults : FaultUnit :=
  { counters := List.replicate 44 0, first := none, last := none, pending := 0, mask := defaultMask, moment := []
    freeCount := 0 }

/-- The maintenance port after a reset (R189). -/
def resetMaintenance : Maintenance := { view := 1, acks := [] }

/-- The machine right after power-on reset, in START with nothing read of the image and the strap pins at 0 (R183;
logs 4 to 7). -/
def State.reset : State :=
  { pending := [], ctl := resetController, agr := resetAgreement 0, sol := resetSolver, line := resetFrameLine 0 false
    port := resetPort, link := resetLink, store := resetStore [] [], pix := resetPixelPath, light := resetLight
    loader := resetLoader 0, settings := resetSettings, faults := resetFaults, maint := resetMaintenance }

end Sys2Proof.Machine
end

