-- ==== Sys2Proof/Machine/Ops.lean ====
section
/-!
DEFINITION. Machine/Ops.lean: the named operations every block uses: the orders of wrapping numbers, rounding, writing one
block of the state, peer records, bytes, and the report of a fault to the fault unit.
-/
namespace Sys2Proof.Machine

/-! ## Wrapping numbers -/

/-- Frame `a` is after frame `b` (00, frame and content numbers): a − b modulo 2^32 lies in 1 to 2^31 − 1. -/
def after (a b : FrameNo) : Bool := decide (1 ≤ (a - b).toNat ∧ (a - b).toNat ≤ 2 ^ 31 - 1)

/-- Frame `a` is not after frame `b`: they are equal, or `b` is after `a` (00). -/
def notAfter (a b : FrameNo) : Bool := a == b || after b a

/-- Content number `a` is after `b`, with half-range 32768 (00, R137). -/
def contentAfter (a b : ContentNo) : Bool := decide (1 ≤ (a - b).toNat ∧ (a - b).toNat ≤ 2 ^ 15 - 1)

/-- Content number `a` is not after `b` (R137). -/
def contentNotAfter (a b : ContentNo) : Bool := a == b || contentAfter b a

/-- The key of content number `a` against the reference `r` (R137). -/
def contentKey (a r : ContentNo) : Int := (a - r).toInt

/-- The signed difference of two stamps (R79). -/
def stampDiff (a b : Stamp) : Int := (a - b).toInt

/-! ## Rounding -/

/-- An unsigned quotient rounded to nearest, halves up (00, rounding). -/
def roundDiv (n d : Nat) : Nat := (2 * n + d) / (2 * d)

/-- A signed quotient rounded to nearest, halves away from zero (00, rounding). -/
def roundDivInt (n : Int) (d : Nat) : Int :=
  if 0 ≤ n then (roundDiv n.toNat d : Int) else -(roundDiv (-n).toNat d : Int)

/-- A signed quotient truncated toward zero (00, rounding). -/
def truncDiv (n : Int) (d : Nat) : Int := n.tdiv d

/-- A luminance saturates at 16,777,215 (R4). -/
def satLum (x : Nat) : Nat := min x 16777215

/-- A count that saturates at `top` increases by one. -/
def satInc (top n : Nat) : Nat := if top ≤ n then top else n + 1

/-- A signed value clamped to −`limit` to +`limit`. -/
def clampInt (limit : Int) (x : Int) : Int := if x < -limit then -limit else if limit < x then limit else x

/-! ## Bytes -/

/-- The `width` bytes of `n`, most significant first (00, byte order). -/
def beBytes : Nat → Nat → List Byte
  | 0, _ => []
  | width + 1, n => BitVec.ofNat 8 (n / 256 ^ width) :: beBytes width n

/-- The number whose bytes, most significant first, are `bs`. -/
def beValue (bs : List Byte) : Nat := bs.foldl (fun n b => n * 256 + b.toNat) 0

/-- The bits of a byte, most significant first. -/
def byteBits (b : Byte) : List Bool := (List.range 8).map (fun i => b.getLsbD (7 - i))

/-- One bit into the register of a remainder with generator `poly`, most significant bit first. -/
def crcBit (w : Nat) (poly : BitVec w) (reg : BitVec w) (bit : Bool) : BitVec w :=
  if reg.msb != bit then (reg <<< 1) ^^^ poly else reg <<< 1

/-- The register after the bits of `bits`. -/
def crcBits (w : Nat) (poly : BitVec w) (reg : BitVec w) (bits : List Bool) : BitVec w := bits.foldl (crcBit w poly) reg

/-- The register after the bytes of `bs`, each most significant bit first. -/
def crcBytes (w : Nat) (poly : BitVec w) (reg : BitVec w) (bs : List Byte) : BitVec w :=
  bs.foldl (fun r b => crcBits w poly r (byteBits b)) reg

/-- How many bits of two lane words differ (R123, R125). -/
def wordDistance (a b : LaneWord) : Nat := ((List.range 16).filter (fun i => (a ^^^ b).getLsbD i)).length

/-! ## Writing one block of the state -/

/-- The state with its station controller replaced. -/
def State.withCtl (s : State) (x : Controller) : State := { s with ctl := x }
/-- The state with its agreement unit replaced. -/
def State.withAgr (s : State) (x : Agreement) : State := { s with agr := x }
/-- The state with its node solver replaced. -/
def State.withSol (s : State) (x : Solver) : State := { s with sol := x }
/-- The state with its frame line unit replaced. -/
def State.withLine (s : State) (x : FrameLine) : State := { s with line := x }
/-- The state with its peer bus port replaced. -/
def State.withPort (s : State) (x : Port) : State := { s with port := x }
/-- The state with its link receiver replaced. -/
def State.withLink (s : State) (x : Link) : State := { s with link := x }
/-- The state with its frame store replaced. -/
def State.withStore (s : State) (x : Store) : State := { s with store := x }
/-- The state with its pixel path replaced. -/
def State.withPix (s : State) (x : PixelPath) : State := { s with pix := x }
/-- The state with its light monitor replaced. -/
def State.withLight (s : State) (x : LightMonitor) : State := { s with light := x }
/-- The state with its image loader replaced. -/
def State.withLoader (s : State) (x : Loader) : State := { s with loader := x }
/-- The state with its settings in effect replaced. -/
def State.withSettings (s : State) (x : Settings) : State := { s with settings := x }
/-- The state with its fault unit replaced. -/
def State.withFaults (s : State) (x : FaultUnit) : State := { s with faults := x }
/-- The state with its maintenance port replaced. -/
def State.withMaint (s : State) (x : Maintenance) : State := { s with maint := x }

/-- The own station number; with the pins at 12 to 15, which give none, the strapped number stands in its place (R173; DESIGN
CHOICE, log 32). -/
def State.own (s : State) : Nat := s.loader.strapped.toNat

/-- The station works: its condition is JOINING, LIVE or DARK. -/
def State.working (s : State) : Bool :=
  s.ctl.condition == .joining || s.ctl.condition == .live || s.ctl.condition == .dark

/-- The station is in START. -/
def State.inStart (s : State) : Bool := s.ctl.condition == .start

/-! ## Sets of stations and peer records -/

/-- Station `i` is a member of `v`. -/
def isMember (v : StationSet) (i : Nat) : Bool := v.getLsbD i

/-- The set `v` with the membership of station `i` made `b`; a number above 11 names no station. -/
def setMember (v : StationSet) (i : Nat) (b : Bool) : StationSet :=
  if b then v ||| (1#12 <<< i) else v &&& ~~~(1#12 <<< i)

/-- The record of station `i`. -/
def Agreement.peer (a : Agreement) (i : Nat) : PeerRecord := a.peers.getD i emptyPeer

/-- The agreement unit with the record of station `i` changed by `f`. -/
def Agreement.onPeer (a : Agreement) (i : Nat) (f : PeerRecord → PeerRecord) : Agreement :=
  { a with peers := a.peers.modify i f }

/-- The agreement unit with the record of every station but `own` changed by `f`. -/
def Agreement.onPeers (a : Agreement) (own : Nat) (f : Nat → PeerRecord → PeerRecord) : Agreement :=
  { a with peers := a.peers.mapIdx (fun i r => if i = own then r else f i r) }

/-- The pending state change about station `i`, if any; R42 leaves at most one. -/
def Agreement.pendingState (a : Agreement) (i : Nat) : Option StateChange :=
  (a.epochs.flatMap (fun r => r.states)).find? (fun c => c.subject == i)

/-- A state change about station `i` is pending. -/
def Agreement.statePending (a : Agreement) (i : Nat) : Bool := (a.pendingState i).isSome

/-- A state change about station `i` with new state `live` is pending. -/
def Agreement.statePendingAs (a : Agreement) (i : Nat) (live : Bool) : Bool :=
  match a.pendingState i with
  | some c => c.live == live
  | none => false

/-! ## Fault reports (R184 to R187) -/

/-- The kinds in the order of their numbers (section 12.1). -/
def faultKinds : List FaultKind :=
  [.nodeDegenerate, .staleBound, .levelCollapse, .stationClash, .peerSilent, .selfSilent, .strayStation, .lateChange,
   .epochMerge, .viewRepair, .strayBound, .showRange, .lateShow, .lateBank, .lineStuck, .lockLost, .farPhase, .frameJump,
   .countAdopt, .portOff, .foreignMessage, .txOverflow, .pulseSkipped, .trainingFail, .inputTimeout, .laneCorrected,
   .laneUncorrectable, .laneSkew, .formatMismatch, .lineLength, .lineCheck, .framePoisoned, .inputFailed, .storeOverrun,
   .storeRefused, .contentRestart, .frameRepeat, .contentBehind, .memoryEcc, .sensorSat, .lightOut, .strapInvalid,
   .imageInvalid, .imageClamp]

/-- The number of a kind (section 12.1). -/
def faultNumber (k : FaultKind) : Nat := faultKinds.idxOf k

/-- The class code of a kind: 0 NOTE, 1 SEAM, 2 HALT (sections 12.1 and 12.4). -/
def faultClass (k : FaultKind) : Nat :=
  match k with
  | .stationClash | .strapInvalid | .imageInvalid => 2
  | .strayStation | .epochMerge | .strayBound | .showRange | .lockLost | .frameJump | .countAdopt | .foreignMessage
  | .txOverflow | .pulseSkipped | .trainingFail | .inputTimeout | .laneCorrected | .laneUncorrectable | .laneSkew
  | .formatMismatch | .lineLength | .lineCheck | .framePoisoned | .storeOverrun | .storeRefused | .contentRestart
  | .frameRepeat | .sensorSat | .imageClamp => 0
  | .nodeDegenerate | .staleBound | .levelCollapse | .peerSilent | .selfSilent | .lateChange | .viewRepair | .lateShow
  | .lateBank | .lineStuck | .farPhase | .portOff | .inputFailed | .contentBehind | .memoryEcc | .lightOut => 1

/-- Block `b` reports kind `k` with `detail` in output frame `n`: the counter and the pending set follow at once (R185, R187); the report
joins those of the moment, from which FIRST and LAST follow (R186, `takeReports`). -/
def reportIn (n : FrameNo) (b : Block) (k : FaultKind) (detail : Nat) (s : State) : State :=
  s.withFaults { s.faults with
    counters := s.faults.counters.modify (faultNumber k) (satInc 65535)
    pending := s.faults.pending ||| (1#64 <<< faultNumber k)
    moment := s.faults.moment ++ [(b, ⟨k, n, BitVec.ofNat 16 detail⟩)] }

/-- A report made in the output frame in progress (R184). -/
def report (b : Block) (k : FaultKind) (detail : Nat) (s : State) : State := reportIn s.line.frameNo b k detail s

/-- A report made only when `c` holds. -/
def reportIf (c : Bool) (b : Block) (k : FaultKind) (detail : Nat) (s : State) : State :=
  if c then report b k detail s else s

/-- An order in which the fault unit may take the reports of one moment: each block's reports stay in their order, and
among blocks the choice is free (R184). No choice is made where one block alone has reports left. -/
def takenOrder : Nat → Nat → List (Block × FaultRecord) → List FaultRecord
  | 0, _, _ => []
  | fuel + 1, choice, l =>
    match (l.map Prod.fst).dedup with
    | [] => []
    | [_] => l.map Prod.snd
    | blocks =>
      match blocks[Config.reportChoice choice % blocks.length]? with
      | none => l.map Prod.snd
      | some b =>
        match l.find? (fun x => x.1 == b) with
        | none => l.map Prod.snd
        | some x => x.2 :: takenOrder fuel (choice + 1) (l.erase x)

/-- The fault unit takes the reports of the moment: FIRST is the first taken when it was absent, and LAST the last taken
(R186). -/
def takeReports (s : State) : State :=
  match s.faults.moment with
  | [] => s
  | l =>
    let order := takenOrder l.length s.faults.freeCount l
    s.withFaults { s.faults with
      first := s.faults.first.or order.head?
      last := order.getLast?
      moment := []
      freeCount := s.faults.freeCount + l.length }

/-- A command's outcome: the next state, once the fault unit has taken the step's reports. -/
def finish (s : State) : Host.Outcome State Fault Refusal := .next (takeReports s)

/-- One tick of the stamp counter, which runs in every condition (R79); it is what an idle step does (log 1). -/
def tick (s : State) : State := s.withLine { s.line with stamp := s.line.stamp + 1 }

end Sys2Proof.Machine
end

