-- ==== Sys2Proof/Machine/Operands.lean ====
section
/-!
DEFINITION. Machine/Operands.lean: the forms of what comes in: the identifier and payload layouts of the peer bus messages
(R103 to R105) in both directions, the checks of R111 on a raw frame, the bits of a bus frame (R100), and the packets of
the pixel link (R118, R125, R127).
-/
namespace Sys2Proof.Machine

/-! ## Message layouts of the peer bus -/

/-- The code of a reason (R104). -/
def reasonCode : Reason → BitVec 3
  | .join => 0
  | .input => 1
  | .light => 2
  | .silence => 3
  | .silent => 4

/-- The reason a code names; 5 to 7 are reserved (R104). -/
def reasonOf (c : BitVec 3) : Option Reason :=
  match c.toNat with
  | 0 => some .join
  | 1 => some .input
  | 2 => some .light
  | 3 => some .silence
  | 4 => some .silent
  | _ => none

/-- The code of a PULSE condition (R104). -/
def pulseConditionCode : PulseCondition → BitVec 2
  | .joining => 0
  | .live => 1
  | .dark => 2

/-- The PULSE condition a code names; 3 is reserved (R104). -/
def pulseConditionOf (c : BitVec 2) : Option PulseCondition :=
  match c.toNat with
  | 0 => some .joining
  | 1 => some .live
  | 2 => some .dark
  | _ => none

/-- The kind code of a message (R103). -/
def kindCode : Body → BitVec 3
  | .change .. => 1
  | .fade .. | .identify .. | .identifyOff .. => 2
  | .pulse .. => 3
  | .light .. => 4
  | .bounds .. => 5
  | .levels .. => 6

/-- The subcode of a message (R104). -/
def subcode : Body → BitVec 4
  | .change live reason .. => BitVec.ofBool live ++ reasonCode reason
  | .fade .. => 1
  | .identify .. => 2
  | .identifyOff .. => 3
  | .pulse condition driving heldValid .. =>
      pulseConditionCode condition ++ (BitVec.ofBool driving ++ BitVec.ofBool heldValid)
  | .light .. | .bounds .. | .levels .. => 0

/-- The 11-bit identifier: kind × 256 + sender × 16 + subcode (R103). -/
def identifier (m : Message) : BitVec 11 := kindCode m.body ++ (m.sender ++ subcode m.body)

/-- The two bytes of a 16-bit field. -/
def bytes16 (x : BitVec 16) : List Byte := [x.extractLsb' 8 8, x.extractLsb' 0 8]

/-- The three bytes of a 24-bit field. -/
def bytes24 (x : BitVec 24) : List Byte := [x.extractLsb' 16 8, x.extractLsb' 8 8, x.extractLsb' 0 8]

/-- The four bytes of a 32-bit field. -/
def bytes32 (x : BitVec 32) : List Byte :=
  [x.extractLsb' 24 8, x.extractLsb' 16 8, x.extractLsb' 8 8, x.extractLsb' 0 8]

/-- The payload of a message (R105). -/
def payload : Body → List Byte
  | .change _ _ subject epoch lam => subject :: bytes32 epoch ++ bytes16 lam
  | .fade start target duration => bytes32 start ++ bytes16 target ++ bytes16 duration
  | .identify start mask period on => bytes32 start ++ bytes16 mask ++ [period, on]
  | .identifyOff endFrame => bytes32 endFrame
  | .pulse _ _ _ frame held => bytes32 frame ++ bytes16 held
  | .light epoch lam => bytes32 epoch ++ bytes16 lam
  | .bounds epochLow floor ceiling => bytes16 epochLow ++ bytes24 floor ++ bytes24 ceiling
  | .levels lam mNow target remaining => bytes16 lam ++ bytes16 mNow ++ bytes16 target ++ bytes16 remaining

/-- The base-format data frame of a message (R100, R103, R105). -/
def messageFrame (m : Message) : BusFrame :=
  { extended := false, remote := false, identifier := identifier m
    lengthCode := BitVec.ofNat 4 (payload m.body).length, data := payload m.body }

/-- The kind code of an identifier (R103). -/
def idKind (i : BitVec 11) : BitVec 3 := i.extractLsb' 8 3

/-- The sender of an identifier (R103). -/
def idSender (i : BitVec 11) : BitVec 4 := i.extractLsb' 4 4

/-- The subcode of an identifier (R103). -/
def idSubcode (i : BitVec 11) : BitVec 4 := i.extractLsb' 0 4

/-- A 16-bit field from its bytes. -/
def join16 (a b : Byte) : BitVec 16 := a ++ b

/-- A 24-bit field from its bytes. -/
def join24 (a b c : Byte) : BitVec 24 := a ++ (b ++ c)

/-- A 32-bit field from its bytes. -/
def join32 (a b c d : Byte) : BitVec 32 := a ++ (b ++ (c ++ d))

/-- What a payload of kind code `kind` says under `sub`, when the subcode is not reserved and the length is that of R105
for the kind, and for SHOW for its command. -/
def bodyOf (kind : BitVec 3) (sub : BitVec 4) (data : List Byte) : Option Body :=
  match kind.toNat, data with
  | 1, [s, e3, e2, e1, e0, l1, l0] =>
      (reasonOf (sub.extractLsb' 0 3)).map (fun r => .change sub.msb r s (join32 e3 e2 e1 e0) (join16 l1 l0))
  | 2, [a, b, c, d, e, f, g, h] =>
      if sub = 1 then some (.fade (join32 a b c d) (join16 e f) (join16 g h))
      else if sub = 2 then some (.identify (join32 a b c d) (join16 e f) g h)
      else none
  | 2, [a, b, c, d] => if sub = 3 then some (.identifyOff (join32 a b c d)) else none
  | 3, [a, b, c, d, e, f] =>
      (pulseConditionOf (sub.extractLsb' 2 2)).map (fun p =>
        .pulse p (sub.getLsbD 1) (sub.getLsbD 0) (join32 a b c d) (join16 e f))
  | 4, [a, b, c, d, e, f] => if sub = 0 then some (.light (join32 a b c d) (join16 e f)) else none
  | 5, [a, b, c, d, e, f, g, h] =>
      if sub = 0 then some (.bounds (join16 a b) (join24 c d e) (join24 f g h)) else none
  | 6, [a, b, c, d, e, f, g, h] =>
      if sub = 0 then some (.levels (join16 a b) (join16 c d) (join16 e f) (join16 g h)) else none
  | _, _ => none

/-- The format check of R111 fails: extended, remote, or a length code above 8. -/
def formatBad (f : BusFrame) : Bool := f.extended || f.remote || decide (8 < f.lengthCode.toNat)

/-- The kind check of R111 fails. -/
def kindBad (f : BusFrame) : Bool := (idKind f.identifier).toNat == 0 || (idKind f.identifier).toNat == 7

/-- The sender range check of R111 fails: a SHOW from a station, or another kind from a control node. -/
def senderBad (f : BusFrame) : Bool :=
  ((idKind f.identifier).toNat == 2) == decide ((idSender f.identifier).toNat < 12)

/-- The message a frame carries when it passes every check of R111 but the roster check. The subcode and length checks
are those of `bodyOf`, and they report alike. -/
def frameMessage (f : BusFrame) : Option Message :=
  if formatBad f || kindBad f || senderBad f then none
  else (bodyOf (idKind f.identifier) (idSubcode f.identifier) f.data).map (fun b => ⟨idSender f.identifier, b⟩)

/-! ## The bits of a bus frame (R100) -/

/-- The bits of a bit vector, most significant first. -/
def bitsMsb {n : Nat} (x : BitVec n) : List Bool := (List.range n).map (fun i => x.getLsbD (n - 1 - i))

/-- The fields from start to data of a base-format data frame, true for recessive. -/
def frameHeadBits (f : BusFrame) : List Bool :=
  [false] ++ bitsMsb f.identifier ++ [false, false, false] ++ bitsMsb f.lengthCode ++ f.data.flatMap byteBits

/-- The check field: the CRC of R100 over the fields from start to data. The rule gives the generator alone; that the
register starts at 0 and is sent as it stands is PRESUMED (log 26). -/
def frameCheck (f : BusFrame) : BitVec 15 := crcBits 15 0x4599 0 (frameHeadBits f)

/-- The bits from the start bit to the last bit of the check field, before stuffing. -/
def stuffedPart (f : BusFrame) : List Bool := frameHeadBits f ++ bitsMsb (frameCheck f)

/-- One bit of the opposite level after every five equal bits (R100); `run` is the length of the present run of `last`,
and a stuffed bit begins a run of its own. -/
def stuffBits : Bool → Nat → List Bool → List Bool
  | _, _, [] => []
  | last, run, b :: rest =>
    let run' := if b = last then run + 1 else 1
    if run' = 5 then b :: (!b) :: stuffBits (!b) 1 rest else b :: stuffBits b run' rest

/-- The bits the port sends for a frame: the stuffed part, the check delimiter, the acknowledge slot sent recessive, the
acknowledge delimiter and seven end bits (R100). -/
def wireBits (f : BusFrame) : List Bool := stuffBits true 0 (stuffedPart f) ++ List.replicate 10 true

/-! ## Packets of the pixel link -/

/-- The sync word (R118). -/
def syncWord : LaneWord := 0xE5A3

/-- The idle word (R118). -/
def idleWord : LaneWord := 0x1A5C

/-- The class of a word read while hunting (R125). -/
def startClass (w : LaneWord) : StartClass :=
  if wordDistance w idleWord ≤ 1 then .idle
  else if w = syncWord then .sync
  else if wordDistance w syncWord = 1 then .corrected
  else .bad

/-- The bytes of a packet: kind, payload length, payload (R127). -/
def packetBytes (kind : Byte) (p : List Byte) : List Byte := kind :: beBytes 2 p.length ++ p

/-- How many bytes each of `n` lanes carries after its sync for a packet of `b` bytes (R118). -/
def laneByteCount (n b : Nat) : Nat := 2 * ((b + 2 * n - 1) / (2 * n))

/-- The bytes lane `i` of `n` carries after its sync: byte `j` of the packet on lane `j` modulo `n`, padded with zeros,
which have no meaning (R118). -/
def laneBytes (n i : Nat) (packet : List Byte) : List Byte :=
  (List.range (laneByteCount n packet.length)).map (fun j => packet.getD (j * n + i) 0)

/-- The CRC-16 of a LINE packet over its payload bytes but the last two (R129). -/
def lineCrc (bs : List Byte) : BitVec 16 := crcBytes 16 0x1021 0xFFFF bs

/-- An 8-bit code spread over 0 to 1023 (R130). -/
def spread8 (c : Nat) : Nat := c * 4 + c / 64

/-- The pixels of an 8-bit line (R127, R130). -/
def pixels8 : List Byte → List Rgb
  | r :: g :: b :: rest => ⟨spread8 r.toNat, spread8 g.toNat, spread8 b.toNat⟩ :: pixels8 rest
  | _ => []

/-- The pixels of a 10-bit line: red bits 31 to 22, green 21 to 12, blue 11 to 2 (R127). -/
def pixels10 : List Byte → List Rgb
  | a :: b :: c :: d :: rest =>
      let w := join32 a b c d
      ⟨(w.extractLsb' 22 10).toNat, (w.extractLsb' 12 10).toNat, (w.extractLsb' 2 10).toNat⟩ :: pixels10 rest
  | _ => []

/-- The length of a LINE payload for an image format and width (R127). -/
def lineLength (format width : Nat) : Nat := if format = 1 then 4 + 3 * width else 4 + 4 * width

end Sys2Proof.Machine
end

