-- ==== Sys2Proof/Machine/BusBits.lean ====
section
/-!
DEFINITION. Machine/BusBits.lean: what the port does on the bus bit by bit, as functions of the bits it reads (true for
recessive): the checks of a frame it receives, the acknowledge slot and the error signal (R101), the course of an attempt of
its own (R101, R102, R107), and what it drives. Bits are counted from the start bit.
-/
namespace Sys2Proof.Machine

/-- The errors of R101. -/
inductive BusError where
  | stuff | form | check | bit | unacknowledged
  deriving DecidableEq, Repr

/-! ## Receiving a frame -/

/-- The number that bits spell, most significant first. -/
def bitsValue (bits : List Bool) : Nat := bits.foldl (fun n b => 2 * n + b.toNat) 0

/-- How many bits the fields from start to length code take: 19, or 39 in an extended-format frame, whose layout past the
eleventh identifier bit is that of CAN (PRESUMED, log 26). -/
def headLength (head : List Bool) : Nat := if head.getD 13 false then 39 else 19

/-- A frame is a remote frame (R100): its request bit is recessive. -/
def headRemote (head : List Bool) : Bool := head.getD (if head.getD 13 false then 32 else 12) false

/-- The length code of a frame (R100). -/
def headCode (head : List Bool) : Nat := bitsValue ((head.drop (headLength head - 4)).take 4)

/-- How many data bytes follow the length code (R100). That a remote frame has none, and that a code above 8 is followed by 8, is
as in CAN (PRESUMED, log 26). -/
def headBytes (head : List Bool) : Nat := if headRemote head then 0 else min (headCode head) 8

/-- The bits that remain, from start to check, are all there (R100). -/
def stuffedWhole (bits : List Bool) : Bool :=
  decide (headLength bits ≤ bits.length) && decide (headLength bits + 8 * headBytes bits + 15 ≤ bits.length)

/-- What a receiver has made of the bits up to the end of the check field. -/
inductive Destuffed where
  | reading (bits : List Bool)
  | error (rest : List Bool)
  | whole (bits rest : List Bool)
  deriving DecidableEq, Repr

/-- The stuffed part of a frame as a receiver reads it (R100, R101): after five equal bits the next one is removed when it
is of the opposite level, and is a stuff error when it is not. `kept` holds the bits kept, newest first. -/
def destuff : Bool → Nat → List Bool → List Bool → Destuffed
  | last, run, kept, b :: rest =>
    if run = 5 then (if b = last then .error rest else
      if stuffedWhole kept.reverse then .whole kept.reverse rest else destuff b 1 kept rest)
    else if stuffedWhole kept.reverse then .whole kept.reverse (b :: rest)
    else destuff b (if b = last then run + 1 else 1) (b :: kept) rest
  | _, run, kept, [] =>
    if run ≠ 5 ∧ stuffedWhole kept.reverse then .whole kept.reverse [] else .reading kept.reverse

/-- The check field matches the fields before it (R100). -/
def checkMatches (bits : List Bool) : Bool :=
  bitsValue (bits.drop (bits.length - 15)) == (crcBits 15 0x4599 0 (bits.take (bits.length - 15))).toNat

/-- The bytes that bits spell, eight by eight. -/
def bitBytes (n : Nat) (bits : List Bool) : List Byte :=
  (List.range n).map (fun i => BitVec.ofNat 8 (bitsValue ((bits.drop (8 * i)).take 8)))

/-- The frame whose bits from start to check are `bits` (R100). -/
def frameOfBits (bits : List Bool) : BusFrame :=
  { extended := bits.getD 13 false
    remote := headRemote bits
    identifier := BitVec.ofNat 11 (bitsValue ((bits.drop 1).take 11))
    lengthCode := BitVec.ofNat 4 (headCode bits)
    data := bitBytes (headBytes bits) (bits.drop (headLength bits)) }

/-- What the port has made of the bits of a frame it receives (R101): not at its end, an error with the bits after it, or the
valid frame. -/
inductive Received where
  | reading
  | error (e : BusError) (rest : List Bool)
  | valid (f : BusFrame)
  deriving DecidableEq, Repr

/-- The six end bits that must be recessive, and the last one, which may be of either level (R101). -/
def readEnd (f : BusFrame) : Nat → List Bool → Received
  | 0, _ :: _ => .valid f
  | n + 1, b :: rest => if b then readEnd f n rest else .error .form rest
  | _, [] => .reading

/-- The tail of a frame: check delimiter, acknowledge slot, acknowledge delimiter, after which a check error is signalled,
and the end field (R100, R101). -/
def readTail (bits : List Bool) : List Bool → Received
  | [] | [true] | [true, _] => .reading
  | false :: rest => .error .form rest
  | true :: _ :: false :: rest => .error .form rest
  | true :: _ :: true :: rest =>
    if checkMatches bits then readEnd (frameOfBits bits) 6 rest else .error .check rest

/-- What the port has made of the bits it has read of a frame that it receives (R101). -/
def receiveBus (bits : List Bool) : Received :=
  match destuff true 0 [] bits with
  | .reading _ => .reading
  | .error rest => .error .stuff rest
  | .whole kept tail => readTail kept tail

/-- The bits read stand at the acknowledge slot of a frame whose check matches (R101). -/
def atAcknowledge (bits : List Bool) : Bool :=
  match destuff true 0 [] bits with
  | .whole kept [true] => checkMatches kept
  | _ => false

/-- The error signal is under way, `rest` being the bits after the error: six dominant bits from the next one (R101). -/
def signalGoes (rest : List Bool) : Bool := decide (rest.length < 6)

/-- A port that receives signals an error (R101). -/
def signalsError (bits : List Bool) : Bool :=
  match receiveBus bits with
  | .error _ rest => signalGoes rest
  | _ => false

/-- A port drives the next bit of a frame it receives dominant: in the acknowledge slot when the check matches, whatever the
checks of R111 say later, and for the error signal (R101). -/
def receiverDrives (bits : List Bool) : Bool := atAcknowledge bits || signalsError bits

/-- How many recessive bits the port reads after an error before the bus counts as free: eight and the intermission (R100,
R101). -/
def recoveryBits : Nat := 8 + 3

/-! ## Sending a frame -/

/-- Where a bit that the port sends stands: in the identifier; elsewhere where stuffing applies, a stuffed bit among them; in
the acknowledge slot; or in the rest of the frame's end (R100). -/
inductive BitPlace where
  | identifier | stuffing | acknowledge | tail
  deriving DecidableEq, Repr

/-- A bit that the port sends. -/
structure SentBit where
  level : Bool
  place : BitPlace
  deriving DecidableEq, Repr

/-- The bits of the stuffed part with the stuffed bits among them (R100), as `stuffBits` places these. -/
def stuffSent : Bool → Nat → List SentBit → List SentBit
  | _, _, [] => []
  | last, run, x :: rest =>
    let run' := if x.level = last then run + 1 else 1
    if run' = 5 then x :: ⟨!x.level, .stuffing⟩ :: stuffSent (!x.level) 1 rest else x :: stuffSent x.level run' rest

/-- The bits the port sends for a frame, with their places; the identifier is the eleven bits after the start bit (R100). -/
def sentBits (f : BusFrame) : List SentBit :=
  stuffSent true 0 ((stuffedPart f).mapIdx (fun i b => ⟨b, if 1 ≤ i ∧ i < 12 then .identifier else .stuffing⟩))
    ++ [⟨true, .tail⟩, ⟨true, .acknowledge⟩] ++ List.replicate 8 ⟨true, .tail⟩

/-- How an attempt stands (R101, R102, R107): going on; lost to another node; failed, with the levels read after the error; or
complete. -/
inductive Attempt where
  | sending
  | lostArbitration
  | failed (e : BusError) (rest : List Bool)
  | complete
  deriving DecidableEq, Repr

/-- The error that the sender finds at the bit `x`, read back as `b`, the last of `run` equal levels (R101): six equal levels
where stuffing applies; in the acknowledge slot a recessive level; and outside the identifier and that slot a level other than
the one sent. -/
def sentError (run : Nat) (x : SentBit) (b : Bool) : Option BusError :=
  match x.place with
  | .identifier => if 6 ≤ run then some .stuff else none
  | .stuffing => if 6 ≤ run then some .stuff else if b = x.level then none else some .bit
  | .acknowledge => if b then some .unacknowledged else none
  | .tail => if b = x.level then none else some .bit

/-- A recessive bit of the identifier read back dominant loses the arbitration (R102). -/
def losesArbitration (x : SentBit) (b : Bool) : Bool := x.place == .identifier && x.level && !b

/-- How an attempt stands after the levels read back of the bits still to be sent, with the level read last and the length of its
run (R101, R102). The last end bit may be read at either level. -/
def attemptFrom : Bool → Nat → List SentBit → List Bool → Attempt
  | _, _, [_], _ :: _ => .complete
  | last, run, x :: more, b :: rest =>
    let run' := if b = last then run + 1 else 1
    match sentError run' x b with
    | some e => .failed e rest
    | none => if losesArbitration x b then .lostArbitration else attemptFrom b run' more rest
  | _, _, _, _ => .sending

/-- How the attempt of message `m` stands after the levels `read` (R101, R102, R107): an attempt fails here by the sender's
own checks, and by another node's error signal, which the sender reads as a bit error. -/
def attemptStands (m : Message) (read : List Bool) : Attempt := attemptFrom true 0 (sentBits (messageFrame m)) read

/-- A port with an attempt drives the next bit dominant: its own bit while it sends; six dominant bits after an error; and,
once it has lost the arbitration, what a receiver drives (R101, R102). -/
def senderDrives (m : Message) (read : List Bool) : Bool :=
  match attemptStands m read with
  | .sending => !(((sentBits (messageFrame m)).map (fun x => x.level)).getD read.length true)
  | .failed _ rest => signalGoes rest
  | .lostArbitration => receiverDrives read
  | .complete => false

/-! ## What the port drives -/

/-- The port takes part in the bus (R101, R106). -/
def State.takesPart (s : State) : Bool := s.port.state == .active && s.port.joined

/-- The port drives the next bit dominant, after the levels read since the start bit of the frame on the bus; one that takes no
part drives nothing (R101, R102). -/
def drivesDominant (s : State) (read : List Bool) : Bool :=
  s.takesPart && (match s.port.attempt with
    | some m => senderDrives m read
    | none => receiverDrives read)

end Sys2Proof.Machine
end

