-- ==== Sys2Proof/Machine/Lanes.lean ====
section
/-!
DEFINITION. Machine/Lanes.lean: the lanes of the pixel link, each by itself: training on the bits received (R122, R123), and,
while the link is UP, hunting for a start word (R125), the spread of the marks (R126) and the bytes of a packet (R118, R127).
-/
namespace Sys2Proof.Machine

/-! ## Training (R122, R123) -/

/-- The bit that the checker predicts: the exclusive-or of the bits 6 and 7 places before it (R122). -/
def predictBit (checker : List Bool) : Bool := (checker.getD 5 false) != (checker.getD 6 false)

/-- A bit is judged: the first seven load the checker, and each later one is compared with the checker's own prediction
(R122). -/
def judgeBit (x : Lane) (b : Bool) : Lane :=
  if x.checker.length < 7 then { x with checker := b :: x.checker }
  else
    let p := predictBit x.checker
    { x with
      checker := p :: x.checker.take 6
      checked := satInc 4294967295 x.checked
      mismatched := if p = b then x.mismatched else satInc 65535 x.mismatched }

/-- The word whose bits, newest first, are `bits`; the oldest is its most significant bit (R118, log 28). -/
def wordOfBits (bits : List Bool) : LaneWord := BitVec.ofNat 16 (bits.foldr (fun b n => 2 * n + b.toNat) 0)

/-- A lane in TRAINING receives a bit: the bit that came 16 bit times before it is judged, and the last 16 bits are the
sync word when they differ from it in at most one bit (R122, R123). A lane that has recognised its sync checks no more, and
holds what it receives. -/
def laneBit (x : Lane) (b : Bool) : Lane :=
  if x.syncAt.isSome then { x with held := x.held ++ [b] }
  else
    let judged := match x.unjudged[15]? with
      | some old => judgeBit x old
      | none => x
    let bits := b :: x.unjudged.take 15
    { judged with
      unjudged := bits
      received := x.received + 1
      syncAt := if bits.length = 16 ∧ wordDistance (wordOfBits bits) syncWord ≤ 1 then some (x.received + 1) else none }

/-- A lane in TRAINING after the bits `bits`, in the order received. -/
def laneBits (x : Lane) (bits : List Bool) : Lane := bits.foldl laneBit x

/-- Each of the first `n` lanes after the bits that came on it. -/
def trainLanes (n : Nat) (received : List (List Bool)) (lanes : List Lane) : List Lane :=
  lanes.mapIdx (fun i x => if i < n then laneBits x (received.getD i []) else x)

/-! ## The data held since the sync (R123) -/

/-- The whole lane words among the bits `bits`, in the order received. -/
def wholeWords (bits : List Bool) : List LaneWord :=
  (List.range (bits.length / 16)).map (fun k => wordOfBits ((bits.drop (16 * k)).take 16).reverse)

/-- The bits behind the last whole lane word. -/
def restBits (bits : List Bool) : List Bool := bits.drop (16 * (bits.length / 16))

/-- The reader of a lane as the link comes UP: it hunts from the end of its sync on, through the data that the lane holds
(R123, R125). -/
def readerOf (x : Lane) : LaneReader :=
  { words := wholeWords x.held, part := restBits x.held, used := 0, mark := none, seeking := false }

/-- The lane once its reader has the data that it held. -/
def Lane.released (x : Lane) : Lane := { x with held := [] }

/-- The word whose first bits were held, `part`, and whose other bits are those of `w` (R123, log 13). -/
def completeWord (part : List Bool) (w : LaneWord) : LaneWord :=
  BitVec.ofNat 16 ((wordOfBits part.reverse).toNat * 2 ^ (16 - part.length) + w.toNat % 2 ^ (16 - part.length))

/-- A lane receives the words `ws`, of which the first completes the word whose first bits it held (R123). -/
def LaneReader.bring (ws : List LaneWord) (x : LaneReader) : LaneReader :=
  match ws with
  | [] => x
  | w :: rest => { x with words := x.words ++ completeWord x.part w :: rest, part := [] }

/-! ## Hunting (R125) -/

/-- The word is read as idle: equal to idle, or one bit off (R125). -/
def isIdle (w : LaneWord) : Bool := startClass w == .idle

/-- A lane reads its next word: while it seeks it discards words up to an idle word, while it hunts it passes over idle
words, and any other word marks a packet start (R125). -/
def LaneReader.readWord (x : LaneReader) : LaneReader :=
  match x.words with
  | [] => x
  | w :: rest =>
    { x with
      words := rest
      used := x.used + 1
      mark := if x.seeking || isIdle w then none else some (startClass w)
      seeking := x.seeking && !(isIdle w) }

/-- A lane that lost its packet discards words until it reads an idle word (R125, R126). The words it has held since its mark
are searched with the rest (DESIGN CHOICE, log 14). -/
def LaneReader.resync (x : LaneReader) : LaneReader := { x with mark := none, seeking := true }

/-- A lane that gave `k` words to a packet resumes hunting after them (R127). -/
def LaneReader.resume (k : Nat) (x : LaneReader) : LaneReader :=
  { x with words := x.words.drop k, used := x.used + k, mark := none, seeking := false }

/-! ## The marks of one packet (R126) -/

/-- The bit times at which each lane's last used word ended, in bit times since training began: its sync, and 16 bit times
for each word used since (R118, R123). -/
def readTimes (lanes : List Lane) (readers : List LaneReader) : List Nat :=
  List.zipWith (fun l x => l.syncAt.getD 0 + 16 * x.used) lanes readers

/-- The earliest of the times that lanes have, with its lane, the lowest of several; the lanes are numbered from `i`. -/
def earliest : Nat → List (Option Nat) → Option (Nat × Nat)
  | _, [] => none
  | i, none :: rest => earliest (i + 1) rest
  | i, some t :: rest =>
    match earliest (i + 1) rest with
    | some (u, j) => if t ≤ u then some (t, i) else some (u, j)
    | none => some (t, i)

/-- The time at which a lane marked its start, when it has marked one. -/
def markTime (time : Nat) (x : LaneReader) : Option Nat := if x.mark.isSome then some time else none

/-- The time at which the next word of a lane that has marked no start ends, when the lane has that word. -/
def wordTime (time : Nat) (x : LaneReader) : Option Nat :=
  if x.mark.isNone && !x.words.isEmpty then some (time + 16) else none

/-- The time of the first mark, and its lane (R126). -/
def firstMark (times : List Nat) (readers : List LaneReader) : Option (Nat × Nat) :=
  earliest 0 (List.zipWith markTime times readers)

/-- The time of the next word to be read, and its lane (R125). -/
def nextWord (times : List Nat) (readers : List LaneReader) : Option (Nat × Nat) :=
  earliest 0 (List.zipWith wordTime times readers)

/-- The lane's mark, if it has one no more than 8 lane bytes after the first mark, which came at `first` (R126). -/
def markInTime (first time : Nat) (x : LaneReader) : Option StartClass :=
  if time < first + 72 then x.mark else none

/-- The marks made in time, lane by lane (R126). -/
def marksInTime (first : Nat) (times : List Nat) (readers : List LaneReader) : List (Option StartClass) :=
  List.zipWith (markInTime first) times readers

/-- The bytes of lane words, most significant byte first (R118). -/
def laneData (words : List LaneWord) : List Byte := words.flatMap bytes16

/-- Byte `j` of a packet: byte j div n of lane j modulo n (R118, R126). -/
def packetByte (data : List (List Byte)) (j : Nat) : Option Byte :=
  (data.getD (j % data.length) [])[j / data.length]?

/-- The first `count` bytes of a packet, when the lanes hold them. -/
def packetPrefix (data : List (List Byte)) (count : Nat) : Option (List Byte) := (List.range count).mapM (packetByte data)

/-- A packet with its kind code and its payload. -/
structure Packet where
  kind : Byte
  payload : List Byte
  deriving DecidableEq, Repr

/-- The packet whose bytes the lanes hold from their marks on, once each lane holds its part to the end of the pad (R118,
R127). -/
def wholePacket (data : List (List Byte)) : Option Packet :=
  match packetPrefix data 3 with
  | some [kind, hi, lo] =>
    let count := 3 + (join16 hi lo).toNat
    if data.all (fun l => decide (laneByteCount data.length count ≤ l.length)) then
      (packetPrefix data count).map (fun bs => ⟨kind, bs.drop 3⟩)
    else none
  | _ => none

/-- What comes next on the lanes in use (R125 to R127): nothing yet; a lane reads a word; a packet is lost to a bad start,
with the lane; one is lost to skew, with the first lane unmarked; or a packet is whole. -/
inductive Gathered where
  | waiting
  | reads (lane : Nat)
  | badStart (lane : Nat)
  | skew (lane : Nat)
  | whole (p : Packet)
  deriving DecidableEq, Repr

/-- The ninth byte after the first mark has passed on the lane that made it, or a lane has marked too late (R126). -/
def spreadOver (firstLane : Nat) (marks : List (Option StartClass)) (readers : List LaneReader) : Bool :=
  decide (9 ≤ 2 * (readers.getD firstLane freshReader).words.length)
    || (List.zipWith (fun m (x : LaneReader) => m.isNone && x.mark.isSome) marks readers).any id

/-- The packet is lost, with these marks: to its lowest bad start, or else to skew, with its first unmarked lane (R125,
R126). -/
def lossOf (marks : List (Option StartClass)) : Gathered :=
  if marks.contains (some .bad) then .badStart (marks.findIdx (fun m => m == some .bad))
  else .skew (marks.findIdx (fun m => m.isNone))

/-- What comes next on the lanes in use (R125 to R127). The lanes read word by word in the order in which the words end. With
a start marked, the other lanes read on up to the end of the ninth byte after the first mark; a word that ends then or later
is read after the loss (DESIGN CHOICE, log 14). -/
def gather (times : List Nat) (readers : List LaneReader) : Gathered :=
  match firstMark times readers, nextWord times readers with
  | none, none => .waiting
  | none, some (_, lane) => .reads lane
  | some (first, lane), next =>
    let marks := marksInTime first times readers
    if marks.contains none then
      match next with
      | some (t, i) => if t < first + 72 then .reads i else lossOf marks
      | none => if spreadOver lane marks readers then lossOf marks else .waiting
    else if marks.contains (some .bad) then lossOf marks
    else match wholePacket (readers.map (fun x => laneData x.words)) with
      | some p => .whole p
      | none => .waiting

/-- The words that each of `n` lanes gives to a packet after its start word (R118). -/
def packetWordCount (n : Nat) (p : Packet) : Nat := laneByteCount n (3 + p.payload.length) / 2

/-! ## The words of a packet -/

/-- The lane words of bytes, two by two. -/
def wordsOfBytes : List Byte → List LaneWord
  | hi :: lo :: rest => join16 hi lo :: wordsOfBytes rest
  | _ => []

/-- How many words of its part of a packet a lane holds already: none when `head` brings its start word, and else the words that
it holds behind the start word that it has marked (R123). -/
def partHeld (head : List LaneWord) (x : LaneReader) : Nat := if head.isEmpty then x.words.length else 0

/-- The words that the lanes with `readers` receive for a packet: the words of `heads`, of which the last is the lane's start
word, and its part of the packet (R118, R127). A lane without a head has marked its start among the data that it held, and
receives the rest of its part (R123). -/
def packetWords (readers : List LaneReader) (heads : List (List LaneWord)) (kind : Byte) (payload : List Byte) :
    List (List LaneWord) :=
  heads.mapIdx (fun i l => l ++
    (wordsOfBytes (laneBytes heads.length i (packetBytes kind payload))).drop (partHeld l (readers.getD i freshReader)))

end Sys2Proof.Machine
end

