-- ==== Sys2Proof/Machine/FrameMemory.lean ====
section
/-!
DEFINITION. Machine/FrameMemory.lean: the frame memory as a list of (address, codes) in one canonical form (R136, log 7).
-/
namespace Sys2Proof.Machine

/-- What an unlisted pixel reads as (DESIGN CHOICE, log 7; no rule reads a pixel that was never written). -/
def blankPixel : Rgb := ⟨0, 0, 0⟩

/-- The address of a pixel: the layout is the model's own (log 7). -/
def pixelAddress (slot line column : Nat) : Nat := (slot * 1600 + line) * 2560 + column

/-- The codes at an address. -/
def memRead : List (Nat × Rgb) → Nat → Rgb
  | [], _ => blankPixel
  | (k, v) :: rest, a => if k = a then v else memRead rest a

/-- The memory with the codes `x` at address `a`, in canonical form. -/
def memWrite : List (Nat × Rgb) → Nat → Rgb → List (Nat × Rgb)
  | [], a, x => if x = blankPixel then [] else [(a, x)]
  | (k, v) :: rest, a, x =>
    if a < k then (if x = blankPixel then (k, v) :: rest else (a, x) :: (k, v) :: rest)
    else if a = k then (if x = blankPixel then rest else (a, x) :: rest)
    else (k, v) :: memWrite rest a x

/-- The memory with the pixels of one line written from `column` on (R130). -/
def memWriteLine (slot line : Nat) : Nat → List Rgb → List (Nat × Rgb) → List (Nat × Rgb)
  | _, [], m => m
  | column, x :: rest, m => memWriteLine slot line (column + 1) rest (memWrite m (pixelAddress slot line column) x)

/-- Every key of the list is above `lo`, the keys rise strictly, and no entry holds the blank codes. -/
def memWfFrom : Option Nat → List (Nat × Rgb) → Bool
  | _, [] => true
  | lo, (k, v) :: rest =>
    (match lo with
     | none => true
     | some l => decide (l < k)) && !(v == blankPixel) && memWfFrom (some k) rest

/-- The canonical form of the frame memory: addresses strictly rising, no entry equal to what an unlisted one reads as. -/
def memWf (m : List (Nat × Rgb)) : Bool := memWfFrom none m

end Sys2Proof.Machine
end

