-- ==== Sys2Proof/Machine/Drive.lean ====
section
/-!
DEFINITION. Machine/Drive.lean: the drive equation: the grid's dimensions (R1), Stages 1, 2 and 4 at a node (R5 to R10,
R15 to R17), Stages 5 and 6 at a pixel (R18, R20, R21), and the figures formed from the settings (R82, R85, R88, R97).
-/
namespace Sys2Proof.Machine

/-! ## Figures formed from the settings -/

/-- Tf_nom: 100,000,000 × h_total × v_total ÷ f0 stamps, rounded half up (00, R82). -/
def tfNom (hTotal vTotal f0 : Nat) : Nat := roundDiv (100000000 * hTotal * vTotal) f0

/-- Tf_nom of the raster in force. -/
def State.tf (s : State) : Nat := tfNom s.line.raster.hTotal s.line.raster.vTotal s.line.raster.f0

/-- The half-width Hw of a capture window (R85). -/
def State.halfWidth (s : State) : Nat := s.tf / 2

/-- The width Wp of a frame line pulse, in stamps (R84). -/
def pulseWidth : Nat := 2000

/-- The jump limit J (R88). -/
def State.jumpLimit (s : State) : Nat := s.tf / 16

/-- τmax (R97). -/
def tauMax (pullRange : Nat) : Nat := roundDiv (pullRange * 2 ^ 24) 1000000

/-- The length of a frame at trim τ in stamps, exact (R82). -/
def frameLength (r : Raster) (trim : Int) : Fraction :=
  { num := 100000000 * r.hTotal * r.vTotal * 2 ^ 24, den := r.f0 * (2 ^ 24 + trim).toNat }

/-- The whole stamps of a number of stamps, and the rest in lowest terms. -/
def Fraction.split (x : Fraction) : Nat × Fraction :=
  let rest := x.num % x.den
  let g := Nat.gcd rest x.den
  (x.num / x.den, { num := rest / g, den := x.den / g })

/-- The sum of two numbers of stamps. -/
def Fraction.add (x y : Fraction) : Fraction := { num := x.num * y.den + y.num * x.den, den := x.den * y.den }

/-- The columns and rows of the coverage grid of a W × H raster (R1). -/
def gridColumns (width : Nat) : Nat := (width + 15) / 16 + 1

/-- The rows of the coverage grid (R1). -/
def gridRows (height : Nat) : Nat := (height + 15) / 16 + 1

/-- The nodes of the coverage grid (R1). -/
def gridNodes (width height : Nat) : Nat := gridColumns width * gridRows height

/-! ## Stage 1 -/

/-- The figures of Stage 1 at one node (R6, R7). -/
structure NodeLight where
  white : Nat
  black : Nat
  blackSum : Nat
  shareSum : Nat
  deriving DecidableEq, Repr

/-- A luminance scaled by a light factor (R6). -/
def scaled (lum lam : Nat) : Nat := satLum (roundDiv (lum * lam) 16384)

/-- The light factor the pass uses for station `i` (R5). -/
def Pass.factor (p : Pass) (i : Nat) : Nat := p.factors.getD i 16384

/-- Stage 1 at a node for station `own` (R6, R7). The black of a contributor that is not live is left out, by R6, R7 and the
case of section 1.11, against the last words of R22 and R161 (DESIGN CHOICE, log 24). -/
def stageOne (p : Pass) (own : Nat) (n : NodeRecord) : NodeLight :=
  let lit := n.contributors.filter (fun c => isMember p.live c.station)
  let black := scaled n.black (p.factor own)
  { white := scaled n.white (p.factor own)
    black := black
    blackSum := satLum (black + (lit.map (fun c => scaled c.black (p.factor c.station))).sum)
    shareSum := n.share + (lit.map (fun c => c.share)).sum }

/-! ## Stage 2 -/

/-- The node is degenerate (R10). -/
def degenerate (n : NodeRecord) (l : NodeLight) : Bool := decide (0 < n.share ∧ l.white ≤ l.black)

/-- The node takes part in the ceiling bound and receives coefficients (R9, R15): σ0 above 0 and Wa above Ba. -/
def serves (n : NodeRecord) (l : NodeLight) : Bool := decide (0 < n.share ∧ l.black < l.white)

/-- The ceiling term of a node (R9). -/
def ceilingTerm (n : NodeRecord) (l : NodeLight) : Nat :=
  satLum (l.blackSum + (l.white - l.black) * l.shareSum / n.share)

/-- The floor bound of the grid (R8). -/
def floorBound (p : Pass) (own : Nat) (grid : List NodeRecord) : Nat :=
  grid.foldl (fun f n => if 0 < n.share then max f (stageOne p own n).blackSum else f) 0

/-- The ceiling bound of the grid (R9). -/
def ceilingBound (p : Pass) (own : Nat) (grid : List NodeRecord) : Nat :=
  grid.foldl (fun c n =>
    if serves n (stageOne p own n) then min c (ceilingTerm n (stageOne p own n)) else c) 16777215

/-- This station is live in the pass's projection (R5, R67). -/
def Pass.ownLive (p : Pass) (own : Nat) : Bool := isMember p.live own

/-- The degenerate nodes of a pass; none when this station is not live at its epoch (R10, R69, R71). -/
def degenerateCount (p : Pass) (own : Nat) (grid : List NodeRecord) : Nat :=
  if p.ownLive own then (grid.filter (fun n => degenerate n (stageOne p own n))).length else 0

/-- The pair of a bounds pass, or none when this station is not live at its epoch (R11, R69). -/
def boundsPair (p : Pass) (own : Nat) (grid : List NodeRecord) : Option LevelPair :=
  if p.ownLive own then some { floor := floorBound p own grid, ceiling := ceilingBound p own grid } else none

/-! ## Stage 4 -/

/-- K and A at one node for the levels of the pass (R15 to R17). -/
def nodeCoeff (p : Pass) (own : Nat) (n : NodeRecord) : Coeff :=
  let l := stageOne p own n
  if p.ownLive own && serves n l then
    let d := l.shareSum * (l.white - l.black)
    let k := min 32768 (roundDiv (32768 * n.share * (p.job.levels.floor - l.blackSum)) d)
    let a := min (32768 - k) (roundDiv (32768 * n.share * (p.job.levels.ceiling - p.job.levels.floor)) d)
    { k := k, a := a }
  else { k := 0, a := 0 }

/-! ## Stages 5 and 6 -/

/-- The value of node (c, r) in a list stored row by row (R1). -/
def nodeAt {α : Type} (width : Nat) (l : List α) (default : α) (c r : Nat) : α :=
  l.getD (r * gridColumns width + c) default

/-- The weighted sum of a node figure around pixel (x, y), over 256 (R18). -/
def blendSum (f : Nat → Nat → Int) (x y : Nat) : Int :=
  let i := x / 16
  let fx := x % 16
  let j := y / 16
  let fy := y % 16
  ((16 - fx) * (16 - fy) : Nat) * f i j + (fx * (16 - fy) : Nat) * f (i + 1) j
    + ((16 - fx) * fy : Nat) * f i (j + 1) + (fx * fy : Nat) * f (i + 1) (j + 1)

/-- The unsigned blend of a node figure at pixel (x, y), rounded half up (R18). -/
def blend (f : Nat → Nat → Nat) (x y : Nat) : Nat := roundDiv (blendSum (fun c r => (f c r : Int)) x y).toNat 256

/-- The signed blend of a mesh figure at pixel (x, y), halves away from zero (R153). -/
def blendSigned (f : Nat → Nat → Int) (x y : Nat) : Int := roundDivInt (blendSum f x y) 256

/-- The drive of one colour (R20). -/
def driveOf (kPix aPix m l : Nat) : Nat := min 32768 (kPix + roundDiv (m * aPix * l) 134217728)

/-- The output code of a drive (R21). -/
def outputCode (table : List Nat) (d : Nat) : Nat :=
  let i := d / 32
  let f := d % 32
  if i < 1024 then table.getD i 0 + roundDiv ((table.getD (i + 1) 0 - table.getD i 0) * f) 32
  else table.getD 1024 0

end Sys2Proof.Machine
end

