-- ==== Sys2Proof/Machine/Port.lean ====
section
/-!
DEFINITION. Machine/Port.lean: the peer bus port's queues, the choice of a head, the end of an attempt, and the off count
(R106 to R109, R113 to R117), with the meanings of BUS_IDLE_JOIN, BEGIN_ATTEMPT, LOST_ARBITRATION and ATTEMPT_FAILED.
-/
namespace Sys2Proof.Machine

/-- The message is a CHANGE about station `i`. -/
def changeAbout (i : Nat) (m : Message) : Bool :=
  match m.body with
  | .change _ _ subject _ _ => subject.toNat == i
  | _ => false

/-- The message is a DARK CHANGE about station `i`. -/
def darkChangeAbout (i : Nat) (m : Message) : Bool :=
  match m.body with
  | .change live _ subject _ _ => !live && subject.toNat == i
  | _ => false

/-- A CHANGE about station `i` stands in the CHANGE queue (R113). -/
def Port.changeStands (p : Port) (i : Nat) : Bool := p.change.any (changeAbout i)

/-- The detail of a displaced message: the low 16 bits of a PULSE's frame number (R114). -/
def pulseDetail (m : Message) : Nat :=
  match m.body with
  | .pulse _ _ _ frame _ => (frame.setWidth 16).toNat
  | _ => 0

/-- One PULSE_SKIPPED for each PULSE displaced, oldest first (R114). -/
def reportSkipped (displaced : List Message) (s : State) : State :=
  displaced.foldl (fun t m => report .port .pulseSkipped (pulseDetail m) t) s

/-- A single-place queue after a message arrives: behind the head when the head is on the bus, in its place otherwise
(R114). -/
def singlePlace (onBus : Bool) (q : List Message) (m : Message) : List Message :=
  if onBus then q.take 1 ++ [m] else [m]

/-- The messages a single-place queue displaces at an arrival (R114). -/
def singleDisplaced (onBus : Bool) (q : List Message) : List Message := if onBus then q.drop 1 else q

/-- The message on the bus belongs to the queue of kind code `k`. -/
def Port.onBus (p : Port) (k : BitVec 3) : Bool :=
  match p.attempt with
  | some m => kindCode m.body == k
  | none => false

/-- The BOUNDS queue after a message arrives: at 8, the oldest message not on the bus is dropped (R114). -/
def boundsPlace (onBus : Bool) (q : List Message) (m : Message) : List Message :=
  if q.length < 8 then q ++ [m]
  else if onBus then q.take 1 ++ q.drop 2 ++ [m]
  else q.drop 1 ++ [m]

/-- The CHANGE queue takes an arrival: the port is not DISABLED and holds fewer than 4 (R106, R114). -/
def Port.takesChange (p : Port) : Bool := !(p.state == .disabled) && decide (p.change.length < 4)

/-- A message of this station arrives at its queue (R106, R113, R114). A SHOW is never queued. -/
def enqueue (b : Body) (s : State) : State :=
  let p := s.port
  let m : Message := ⟨BitVec.ofNat 4 s.own, b⟩
  if p.state = .disabled then s
  else match b with
  | .change _ _ subject _ _ =>
      if p.change.length < 4 then s.withPort { p with change := p.change ++ [m] }
      else report .port .txOverflow subject.toNat s
  | .pulse .. =>
      reportSkipped (singleDisplaced (p.onBus 3) p.pulse)
        (s.withPort { p with pulse := singlePlace (p.onBus 3) p.pulse m })
  | .light .. => s.withPort { p with light := singlePlace (p.onBus 4) p.light m }
  | .bounds .. => s.withPort { p with bounds := boundsPlace (p.onBus 5) p.bounds m }
  | .levels .. => s.withPort { p with levels := singlePlace (p.onBus 6) p.levels m }
  | .fade .. | .identify .. | .identifyOff .. => s

/-- The heads of the five queues (R113). -/
def Port.heads (p : Port) : List Message :=
  p.change.take 1 ++ p.pulse.take 1 ++ p.light.take 1 ++ p.bounds.take 1 ++ p.levels.take 1

/-- Of two messages, the one of lower identifier (R115). -/
def lowerIdentifier (a b : Message) : Message := if (identifier b).toNat < (identifier a).toNat then b else a

/-- The message the port offers: the lowest identifier among its heads (R115). -/
def Port.offer (p : Port) : Option Message :=
  match p.heads with
  | [] => none
  | m :: rest => some (rest.foldl lowerIdentifier m)

/-- The queues with the message on the bus removed from the head of its queue (R116), or displaced there (R114). -/
def Port.dropHead (p : Port) (b : Body) : Port :=
  match b with
  | .change .. => { p with change := p.change.drop 1 }
  | .pulse .. => { p with pulse := p.pulse.drop 1 }
  | .light .. => { p with light := p.light.drop 1 }
  | .bounds .. => { p with bounds := p.bounds.drop 1 }
  | .levels .. => { p with levels := p.levels.drop 1 }
  | .fade .. | .identify .. | .identifyOff .. => p

/-- A failed attempt's message is displaced when a newer one waits behind it in a single-place queue (R114). -/
def Port.displacedAtFailure (p : Port) (b : Body) : Bool :=
  match b with
  | .pulse .. => decide (1 < p.pulse.length)
  | .light .. => decide (1 < p.light.length)
  | .levels .. => decide (1 < p.levels.length)
  | .change .. | .bounds .. | .fade .. | .identify .. | .identifyOff .. => false

/-- The end of the attempt that a halted station still had on the bus, with the failure count `failures`: the port is
DISABLED (R117). -/
def endHaltedAttempt (failures : Nat) (s : State) : State :=
  s.withPort { s.port with attempt := none, state := .disabled, joined := false, failures := failures }

/-- The failed attempt of a halted station: the failure count increases (R107), and the attempt is not retried (R117). That
the sixteenth failure reports PORT_OFF here too, and the port is DISABLED and not OFF, is DEDUCED (log 27). -/
def failHaltedAttempt (m : Message) (s : State) : State :=
  reportIf (decide (16 ≤ s.port.failures + 1)) .port .portOff (identifier m).toNat
    (endHaltedAttempt (min 16 (s.port.failures + 1)) s)

/-- The off count of a frame start (R109): at 64 the port becomes ACTIVE and waits for eleven recessive bits. -/
def portFrameStart (s : State) : State :=
  let p := s.port
  if p.state = .off then
    if 64 ≤ p.offCount + 1 then
      s.withPort { p with state := .active, joined := false, offCount := 0, failures := 0 }
    else s.withPort { p with offCount := p.offCount + 1 }
  else s

/-- BUS_IDLE_JOIN: an ACTIVE port begins to take part (R106). -/
def execBusIdleJoin (s : State) : Host.Outcome State Fault Refusal :=
  finish (if s.port.state = .active then s.withPort { s.port with joined := true } else s)

/-- BEGIN_ATTEMPT: a port that takes part, with no attempt on the bus, begins an attempt of its offer (R115). -/
def execBeginAttempt (s : State) : Host.Outcome State Fault Refusal :=
  finish (if s.working && s.port.state == .active && s.port.joined && s.port.attempt.isNone then
      s.withPort { s.port with attempt := s.port.offer }
    else s)

/-- LOST_ARBITRATION: the port stops sending and keeps its message and its failure count (R102); a halted station's port
is then DISABLED (R117). -/
def execLostArbitration (s : State) : Host.Outcome State Fault Refusal :=
  finish (match s.port.attempt with
    | none => s
    | some _ => if s.working then s.withPort { s.port with attempt := none } else endHaltedAttempt s.port.failures s)

/-- A failed attempt of message `m` at a working station (R107, R108, R114). -/
def failAttempt (m : Message) (s : State) : State :=
  let p := { s.port with attempt := none, failures := s.port.failures + 1 }
  let displaced := s.port.displacedAtFailure m.body
  let p' := if displaced then p.dropHead m.body else p
  let skipped := displaced && kindCode m.body == 3
  let t := reportIf skipped .port .pulseSkipped (pulseDetail m) (s.withPort p')
  if 16 ≤ p'.failures then
    report .port .portOff (identifier m).toNat
      (t.withPort { t.port with state := .off, joined := false, failures := 16, offCount := 0 })
  else t

/-- ATTEMPT_FAILED: the failure count increases, and at 16 the port becomes OFF (R107, R108); the attempt of a halted
station is not retried (R117). -/
def execAttemptFailed (s : State) : Host.Outcome State Fault Refusal :=
  finish (match s.port.attempt with
    | none => s
    | some m => if s.working then failAttempt m s else failHaltedAttempt m s)

end Sys2Proof.Machine
end

