-- ==== Sys2Proof/Machine/Solver.lean ====
section
/-!
DEFINITION. Machine/Solver.lean: the node solver: the projection of a pass's inputs (R49), the job queue and the choice of
a job (R65 to R67), the two banks and their swaps (R73 to R75), supersession (R76), and the meanings of
BOUNDS_PASS_COMPLETE and COEFF_PASS_COMPLETE.
-/
namespace Sys2Proof.Machine

/-! ## Projection -/

/-- Step 1 of R44 on a view: each state change sets its subject's membership. -/
def applyMemberships (v : StationSet) (cs : List StateChange) : StationSet :=
  cs.foldl (fun w c => setMember w c.subject c.live) v

/-- Step 1 of R44 on a factor column: each LIVE change sets its subject's light factor to the λ carried, as R49 says, and also
that of a subject the projection already holds to be a member (DESIGN CHOICE, log 24). -/
def applyLiveFactors (fs : List (Option Nat)) (cs : List StateChange) : List (Option Nat) :=
  cs.foldl (fun g c => if c.live then g.modify c.subject (fun old => c.lam.or old) else g) fs

/-- Step 2 of R44 on a factor column. -/
def applyLightFactors (fs : List (Option Nat)) (cs : List LightChange) : List (Option Nat) :=
  cs.foldl (fun g c => g.modify c.station (fun _ => some c.lam)) fs

/-- The live view projected to epoch `n`: the pending records whose frame is not after `n`, in order (R49). -/
def projectLive (a : Agreement) (n : FrameNo) : StationSet :=
  (a.epochs.filter (fun r => notAfter r.frame n)).foldl (fun v r => applyMemberships v r.states) a.live

/-- The light factor table projected to epoch `n` (R49). -/
def projectFactors (a : Agreement) (n : FrameNo) : List (Option Nat) :=
  (a.epochs.filter (fun r => notAfter r.frame n)).foldl
    (fun f r => applyLightFactors (applyLiveFactors f r.states) r.lights)
    (a.peers.map (fun r => r.factor.map (fun x => x.lam)))

/-- The pass that starts now for job `j`, with its own copy of its inputs (R67); an absent factor is 16384 (R5). -/
def makePass (a : Agreement) (j : Job) : Pass :=
  { job := j, live := projectLive a j.epoch
    factors := (projectFactors a j.epoch).map (fun x => x.getD 16384) }

/-! ## Banks -/

/-- Bank 1 is the spare bank: bank 0 is ACTIVE (R73). -/
def Solver.spareIsOne (x : Solver) : Bool := x.bank0.status == .active

/-- The spare bank (R73). -/
def Solver.spare (x : Solver) : Bank := if x.spareIsOne then x.bank1 else x.bank0

/-- The ACTIVE bank (R73). -/
def Solver.active (x : Solver) : Bank := if x.spareIsOne then x.bank0 else x.bank1

/-- The number of the ACTIVE bank. -/
def Solver.activeNo (x : Solver) : Nat := if x.spareIsOne then 0 else 1

/-- The solver with its spare bank replaced. -/
def Solver.setSpare (x : Solver) (b : Bank) : Solver :=
  if x.spareIsOne then { x with bank1 := b } else { x with bank0 := b }

/-- The spare becomes ACTIVE, and the old ACTIVE bank becomes SPARE_EMPTY without a tag (R73, R74). -/
def Solver.swap (x : Solver) : Solver :=
  if x.spareIsOne then
    { x with bank0 := { x.bank0 with status := .spareEmpty, tag := none }, bank1 := { x.bank1 with status := .active } }
  else
    { x with bank1 := { x.bank1 with status := .spareEmpty, tag := none }, bank0 := { x.bank0 with status := .active } }

/-- The spare is SPARE_READY with tag `n`. -/
def Solver.readyFor (x : Solver) (n : FrameNo) : Bool := x.spare.status == .spareReady && x.spare.tag == some n

/-- The spare returned to SPARE_EMPTY without a tag; its coefficients stay (R73). -/
def emptied (b : Bank) : Bank := { b with status := .spareEmpty, tag := none }

/-! ## Jobs -/

/-- The epoch of the coefficient job that is queued, running, or complete in a SPARE_READY bank (R76). -/
def Solver.coeffAlive (x : Solver) : Option FrameNo :=
  match x.queue.find? (fun j => j.kind == .coeff) with
  | some j => some j.epoch
  | none =>
    match x.running with
    | some p => if p.job.kind = .coeff then some p.job.epoch
                else if x.spare.status = .spareReady then x.spare.tag else none
    | none => if x.spare.status = .spareReady then x.spare.tag else none

/-- The coefficient job for `n` is queued or running (R74). -/
def Solver.coeffWaiting (x : Solver) (n : FrameNo) : Bool :=
  x.queue.any (fun j => j.kind == .coeff && j.epoch == n) ||
    (match x.running with
     | some p => p.job.kind == .coeff && p.job.epoch == n
     | none => false)

/-- The coefficient job for `n` is abandoned: it leaves the queue, its pass stops without a completion, its bank returns
to SPARE_EMPTY, and a late swap held for it is cleared (R76). -/
def Solver.abandon (x : Solver) (n : FrameNo) : Solver :=
  let y := { x with
    queue := x.queue.filter (fun j => !(j.kind == .coeff && j.epoch == n))
    running := match x.running with
      | some p => if p.job.kind = .coeff ∧ p.job.epoch = n then none else some p
      | none => none
    lateSwap := if x.lateSwap = some n then none else x.lateSwap }
  if x.spare.tag = some n ∧ (x.spare.status = .spareFilling ∨ x.spare.status = .spareReady) then
    y.setSpare (emptied x.spare)
  else y

/-- A coefficient job arrives: of two, the one for the later epoch is kept (R76). Of two whose epochs lie exactly 2^31 apart
neither is the later one (00), and the one that arrives is kept (DESIGN CHOICE, log 24). -/
def Solver.queueCoeff (x : Solver) (j : Job) : Solver :=
  match x.coeffAlive with
  | none => { x with queue := x.queue ++ [j] }
  | some n =>
    if after n j.epoch then x
    else let y := x.abandon n
         { y with queue := y.queue ++ [j] }

/-- The queue without the bounds job for `n` (R70). -/
def dropBoundsJob (n : FrameNo) (s : State) : State :=
  s.withSol { s.sol with queue := s.sol.queue.filter (fun j => !(j.kind == .bounds && j.epoch == n)) }

/-- Of two jobs, the one taken first: a coefficient job before a bounds job, and then the earlier epoch (R66). -/
def earlierJob (a b : Job) : Job :=
  if a.kind = .coeff then a else if b.kind = .coeff then b else if after a.epoch b.epoch then b else a

/-- The job the solver takes next (R66). -/
def nextJob (q : List Job) : Option Job :=
  match q with
  | [] => none
  | j :: rest => some (rest.foldl earlierJob j)

/-- The record for epoch `n` in the pending epoch list. -/
def Agreement.record (a : Agreement) (n : FrameNo) : Option EpochRecord := a.epochs.find? (fun r => r.frame == n)

/-- The pending epoch list with the record for `n` changed by `f`. -/
def Agreement.onRecord (a : Agreement) (n : FrameNo) (f : EpochRecord → EpochRecord) : Agreement :=
  { a with epochs := a.epochs.map (fun r => if r.frame = n then f r else r) }

/-- The agreement unit takes a bounds completion for `n` by the four courses of R52. -/
def takeBoundsResult (n : FrameNo) (pair : Option LevelPair) (s : State) : State :=
  match s.agr.record n with
  | none => s
  | some r =>
    let s' := match pair with
      | some x => enqueue (.bounds (n.setWidth 16) (BitVec.ofNat 24 x.floor) (BitVec.ofNat 24 x.ceiling)) s
      | none => s
    if r.phase = .opened then s'.withAgr (s'.agr.onRecord n (fun r => { r with phase := .bounded })) else s'

/-- The completion of the bounds pass `p`: NODE_DEGENERATE when it has degenerate nodes (R10), and its result to the
agreement unit (R69). -/
def completeBounds (p : Pass) (s : State) : State :=
  let d := degenerateCount p s.own s.pix.grid
  takeBoundsResult p.job.epoch (boundsPair p s.own s.pix.grid)
    (reportIf (decide (0 < d)) .solver .nodeDegenerate d (s.withSol { s.sol with running := none }))

/-- The pass of job `j` starts: a coefficient pass takes the spare bank to SPARE_FILLING with its tag (R71). -/
def startPass (j : Job) (s : State) : State :=
  let p := makePass s.agr j
  let x := { s.sol with queue := s.sol.queue.erase j, running := some p }
  if j.kind = .coeff then
    s.withSol (x.setSpare { x.spare with status := .spareFilling, tag := some j.epoch })
  else s.withSol x

/-- The solver chooses while it is idle (R66); a bounds pass at whose epoch this station is not live completes as soon as
it starts (R69), and the solver chooses again. -/
def chooseJobs : Nat → State → State
  | 0, s => s
  | fuel + 1, s =>
    match s.sol.running with
    | some _ => s
    | none =>
      match nextJob s.sol.queue with
      | none => s
      | some j =>
        let t := startPass j s
        let p := makePass s.agr j
        if j.kind = .bounds && !p.ownLive s.own then chooseJobs fuel (completeBounds p t) else t

/-- The solver's choice at a completion or at a frame start (R66). -/
def startJobs (s : State) : State := chooseJobs (s.sol.queue.length + 1) s

/-- The completion of the coefficient pass `p`: the spare holds its coefficients and is SPARE_READY, and a record for its
epoch in phase CUT becomes BANKED (R71, R72). -/
def completeCoeff (p : Pass) (s : State) : State :=
  let d := degenerateCount p s.own s.pix.grid
  let x := { s.sol with running := none }
  let bank : Bank := { coeffs := s.pix.grid.map (nodeCoeff p s.own), tag := some p.job.epoch, status := .spareReady }
  let t := s.withSol (x.setSpare bank)
  let u := t.withAgr (t.agr.onRecord p.job.epoch (fun r => if r.phase = .cut then { r with phase := .banked } else r))
  reportIf (decide (0 < d)) .solver .nodeDegenerate d u

/-- BOUNDS_PASS_COMPLETE: the running bounds pass completes (R69), and the solver chooses its next job (R66). -/
def execBoundsPassComplete (s : State) : Host.Outcome State Fault Refusal :=
  finish (match s.sol.running with
    | some p => if p.job.kind = .bounds then startJobs (completeBounds p s) else s
    | none => s)

/-- COEFF_PASS_COMPLETE: the running coefficient pass completes (R72), and the solver chooses its next job (R66). -/
def execCoeffPassComplete (s : State) : Host.Outcome State Fault Refusal :=
  finish (match s.sol.running with
    | some p => if p.job.kind = .coeff then startJobs (completeCoeff p s) else s
    | none => s)

/-! ## Swaps -/

/-- The held late swap at a frame start: a spare ready with the held tag becomes ACTIVE, and the hold is cleared (R75). -/
def lateSwapStep (s : State) : State :=
  match s.sol.lateSwap with
  | none => s
  | some n => if s.sol.readyFor n then s.withSol { s.sol.swap with lateSwap := none } else s

/-- The solver's answer to the swap request for record `r` (R74). R74 has no row for a record in CUT or BANKED whose coefficient job
R76 has abandoned: it is answered like one without a cut, with LATE_BANK and no late swap (DESIGN CHOICE, log 24). -/
def answerSwap (r : EpochRecord) (s : State) : State :=
  let low := (r.frame.setWidth 16).toNat
  if r.phase = .banked ∧ s.sol.readyFor r.frame then s.withSol s.sol.swap
  else if r.phase = .cut ∧ s.sol.coeffWaiting r.frame then
    report .solver .lateBank low (s.withSol { s.sol with lateSwap := some r.frame })
  else report .solver .lateBank low s

/-- The solver on entry to HALTED (R78). -/
def haltSolver (x : Solver) : Solver :=
  let y := { x with queue := [], running := none, lateSwap := none }
  if x.spare.status = .spareFilling then y.setSpare (emptied x.spare) else y

end Sys2Proof.Machine
end

