-- ==== Sys2Proof/Machine/Agreement.lean ====
section
/-!
DEFINITION. Machine/Agreement.lean: the agreement unit: taking a change (R39 to R43), the messages it takes (R34, R48, R54,
R57, R60 to R64), and its parts of a frame start: records due (R44), view (R45, R46), sources (R48), bounds jobs and cuts
(R52, R53), fades and identify (R56, R58, R63, R64).
-/
namespace Sys2Proof.Machine

/-- The number of the output frame in progress, "current" (R81). -/
def State.current (s : State) : FrameNo := s.line.frameNo

/-- Current + L (R26 and others). -/
def State.leadEpoch (s : State) : FrameNo := s.line.frameNo + BitVec.ofNat 32 s.settings.lead

/-- The subcode and length of an unsigned field never exceed its width: `n` as a 16-bit field. -/
def field16 (n : Nat) : BitVec 16 := BitVec.ofNat 16 n

/-! ## Taking a change (R39 to R43) -/

/-- A change of either kind. -/
inductive Change where
  | state (c : StateChange)
  | light (c : LightChange)
  deriving DecidableEq, Repr

/-- The station a change is about. -/
def changeSubject : Change → Nat
  | .state c => c.subject
  | .light c => c.station

/-- Re-epoch (R40): an epoch not after current + 3 becomes current + 4. One exactly 2^31 away from current + 3 is neither after
it nor not after it (00), and is kept, without a LATE_CHANGE report (DESIGN CHOICE, log 24). One that lies 2^31 − 3 to 2^31 − 1
after current + 3 is after it but not after current, as R38 wants every record to be; it is kept too (DESIGN CHOICE, log 24). -/
def reEpoch (current n : FrameNo) : FrameNo := if notAfter n (current + 3) then current + 4 else n

/-- A record without the pending change of the kind of `c` about its subject (R42). -/
def withoutChange (c : Change) (r : EpochRecord) : EpochRecord :=
  match c with
  | .state x => { r with states := r.states.filter (fun y => !(y.subject == x.subject)) }
  | .light x => { r with lights := r.lights.filter (fun y => !(y.station == x.station)) }

/-- The record holds a change of the kind of `c` about its subject. -/
def holdsChange (c : Change) (r : EpochRecord) : Bool :=
  match c with
  | .state x => r.states.any (fun y => y.subject == x.subject)
  | .light x => r.lights.any (fun y => y.station == x.station)

/-- The record is emptied by the removal for `c` and is OPEN or BOUNDED, so that it is removed (R42). -/
def removedFor (c : Change) (r : EpochRecord) : Bool :=
  holdsChange c r && (withoutChange c r).states.isEmpty && (withoutChange c r).lights.isEmpty
    && (r.phase == .opened || r.phase == .bounded)

/-- Replacement (R42): the pending change of the same kind about the same station is removed; a record emptied in OPEN or
BOUNDED goes, and its queued bounds job with it (R70). -/
def removePending (c : Change) (s : State) : State :=
  let gone := s.agr.epochs.filter (removedFor c)
  let kept := (s.agr.epochs.filter (fun r => !removedFor c r)).map (withoutChange c)
  gone.foldl (fun t r => dropBoundsJob r.frame t) (s.withAgr { s.agr with epochs := kept })

/-- The record with the change joined to it, behind its other changes of the kind (DESIGN CHOICE, log 29). -/
def joinChange (c : Change) (r : EpochRecord) : EpochRecord :=
  match c with
  | .state x => { r with states := r.states ++ [x] }
  | .light x => { r with lights := r.lights ++ [x] }

/-- A new OPEN record for epoch `n` with the change as its only entry (R43). -/
def newRecord (n : FrameNo) (c : Change) : EpochRecord :=
  joinChange c { frame := n, states := [], lights := [], bounds := [], levels := none, phase := .opened,
                 jobQueued := false }

/-- The list with a record inserted before the first record whose frame is after its own (R43). One whose frame lies exactly 2^31
from a record's is neither before nor after it (00), and goes behind that record (DESIGN CHOICE, log 24). -/
def insertRecord (r : EpochRecord) : List EpochRecord → List EpochRecord
  | [] => [r]
  | x :: rest => if after x.frame r.frame then r :: x :: rest else x :: insertRecord r rest

/-- The frame of the record a change for `n` joins when the list is full: the earliest whose frame is after `n`, or the
latest (R43). -/
def mergeFrame (l : List EpochRecord) (n : FrameNo) : FrameNo :=
  match l.find? (fun r => after r.frame n) with
  | some r => r.frame
  | none => match l.getLast? with
    | some r => r.frame
    | none => n

/-- Placing (R43). -/
def placeChange (c : Change) (n : FrameNo) (s : State) : State :=
  if (s.agr.record n).isSome then s.withAgr (s.agr.onRecord n (joinChange c))
  else if s.agr.epochs.length < 8 then
    s.withAgr { s.agr with epochs := insertRecord (newRecord n c) s.agr.epochs }
  else
    let f := mergeFrame s.agr.epochs n
    report .agreement .epochMerge (f.setWidth 16).toNat (s.withAgr (s.agr.onRecord f (joinChange c)))

/-- The state change matches the subject's standing (R41). -/
def matchesStanding (a : Agreement) (c : Change) : Bool :=
  match c with
  | .state x => isMember a.live x.subject == x.live
  | .light _ => false

/-- A change of the kind of `c` about its subject is pending. -/
def changePending (a : Agreement) (c : Change) : Bool := a.epochs.any (holdsChange c)

/-- A change that passed the checks of R39 goes through re-epoch, no-op, replacement and placing (R40 to R43). -/
def takeChange (c : Change) (n : FrameNo) (s : State) : State :=
  let m := reEpoch s.current n
  let t := reportIf (notAfter n (s.current + 3)) .agreement .lateChange (changeSubject c) s
  if matchesStanding t.agr c then
    if changePending t.agr c then removePending c t else t
  else placeChange c m (removePending c t)

/-- A CHANGE message is taken: the roster check and the foreign check come first (R39). -/
def takeChangeMessage (sender : Nat) (live : Bool) (reason : Reason) (subject : Nat) (epoch : FrameNo) (lam : Nat)
    (s : State) : State :=
  if !(isMember s.settings.roster subject) then report .agreement .strayStation subject s
  else if live && !(subject == sender) then s
  else takeChange (.state { subject := subject, live := live, reason := reason,
                            lam := if live then some lam else none }) epoch s

/-! ## Other messages -/

/-- A PULSE is written into its sender's record and sets its silence count to 0 (R34). -/
def takePulse (sender : Nat) (x : PulseInfo) (s : State) : State :=
  s.withAgr (s.agr.onPeer sender (fun r => { r with pulse := some x, silence := 0 }))

/-- The bounds table with the received pair of `station` set, in station order (R54). -/
def setBounds (e : BoundsEntry) : List BoundsEntry → List BoundsEntry
  | [] => [e]
  | x :: rest =>
    if x.station = e.station then e :: rest
    else if e.station < x.station then e :: x :: rest
    else x :: setBounds e rest

/-- A BOUNDS is written as the sender's last bounds and matched to the earliest record of its low 16 bits (R54). -/
def takeBounds (sender : Nat) (b : LastBounds) (s : State) : State :=
  let t := s.withAgr (s.agr.onPeer sender (fun r => { r with bounds := some b }))
  match t.agr.epochs.find? (fun r => r.frame.setWidth 16 == b.epochLow) with
  | none => report .agreement .strayBound sender t
  | some r =>
    if r.phase = .cut ∨ r.phase = .banked then t
    else t.withAgr (t.agr.onRecord r.frame (fun r => { r with
      bounds := setBounds { station := sender, floor := b.floor, ceiling := b.ceiling, received := true } r.bounds }))

/-- The light factor entry of a peer after its LEVELS is taken (R48). -/
def factorFromLevels (joining : Bool) (old : Option Factor) (lam : Nat) : Option Factor :=
  match old with
  | none => some { lam := lam, source := .levels }
  | some f => if joining || f.source == .levels then some { lam := lam, source := .levels } else some f

/-- The state a peer's LEVELS is adopted as (R61). -/
def adoptedFrom (x : LevelsInfo) : Fade :=
  if x.remaining = 0 then { m := x.mNow, target := x.mNow, remaining := 0 }
  else { m := x.mNow, target := x.target, remaining := x.remaining }

/-- This station adopts a LEVELS of `sender` (R61). -/
def adopts (s : State) (sender : Nat) (x : LevelsInfo) : Bool :=
  (s.ctl.condition == .joining || s.ctl.condition == .dark) && isMember s.agr.live sender
    && decide (x.mNow ≤ 4096 ∧ x.target ≤ 4096)

/-- A LEVELS is written as last LEVELS; a peer's also sets its light factor under R48 and is offered for adoption
(R60, R61). -/
def takeLevels (sender : Nat) (x : LevelsInfo) (s : State) : State :=
  let a := s.agr.onPeer sender (fun r => { r with levels := some x })
  if sender = s.own then s.withAgr a
  else
    let a' := a.onPeer sender (fun r => { r with
      factor := factorFromLevels (s.ctl.condition == .joining) r.factor x.lam })
    s.withAgr (if adopts s sender x then { a' with adopted := some (adoptedFrom x) } else a')

/-- A SHOW FADE is taken (R57). A start frame 2^31 away from current is neither after it nor not after it (00), and is taken
as late (DESIGN CHOICE, log 24). -/
def takeFade (start : FrameNo) (target duration : Nat) (s : State) : State :=
  if 4096 < target then report .agreement .showRange 1 s
  else if after start s.current then
    s.withAgr { s.agr with pendingFade := some { start := start, target := target, duration := duration } }
  else
    report .agreement .lateShow (start.setWidth 16).toNat
      (s.withAgr { s.agr with pendingFade := some { start := s.current + 1, target := target, duration := duration } })

/-- A SHOW IDENTIFY is taken (R62). -/
def takeIdentify (start : FrameNo) (mask : BitVec 16) (period on : Nat) (s : State) : State :=
  if period = 0 ∨ period < on then report .agreement .showRange 2 s
  else if mask.getLsbD s.own then
    s.withAgr { s.agr with identify := some { start := start, period := period, on := on, endFrame := none } }
  else s

/-- A SHOW IDENTIFY_OFF is taken (R64). -/
def takeIdentifyOff (endFrame : FrameNo) (s : State) : State :=
  s.withAgr { s.agr with identify := s.agr.identify.map (fun i => { i with endFrame := some endFrame }) }

/-! ## Parts of a frame start -/

/-- The silence counts of the peers while the port is ACTIVE (R35), those of stations outside the roster among them (DESIGN
CHOICE, log 31). -/
def silenceStep (s : State) : State :=
  if s.port.state = .active then
    s.withAgr (s.agr.onPeers s.own (fun _ r => { r with silence := satInc 65535 r.silence }))
  else s

/-- A peer record makes its station a member of a JOINING station's rebuilt view (R45). -/
def rebuiltMember (timeout : Nat) (r : PeerRecord) : Bool :=
  match r.pulse with
  | some p => p.condition == .live && decide (r.silence < timeout)
  | none => false

/-- The live view a JOINING station rebuilds from the peer table (R45). -/
def rebuiltView (s : State) : StationSet :=
  (List.range 12).foldl (fun v i =>
    if i ≠ s.own ∧ rebuiltMember s.settings.silenceTimeout (s.agr.peer i) then setMember v i true else v) 0

/-- The peers whose membership is to be repaired at this frame start: the repair count stands at 2 and no state change
about the peer is pending (R46). R46 gives no order of several repairs of one frame start: they are made, and VIEW_REPAIR reported,
in ascending station order (DESIGN CHOICE, log 31). -/
def repairDue (s : State) : List Nat :=
  (List.range 12).filter (fun i =>
    decide (i ≠ s.own) && decide (2 ≤ (s.agr.peer i).repair) && !(s.agr.statePending i))

/-- The repair count of a peer after the comparison of R46 with the view of the frame `old` just ended. With a state change
about the peer pending it is set to 0, with or without a fresh PULSE (DESIGN CHOICE, log 31). -/
def repairCount (a : Agreement) (old : FrameNo) (i : Nat) (r : PeerRecord) : Nat :=
  if a.statePending i then 0
  else if 2 ≤ r.repair then r.repair
  else match r.pulse with
    | some p =>
      if p.takenIn = old then (if (p.condition == .live) = isMember a.live i then 0 else r.repair + 1) else r.repair
    | none => r.repair

/-- The comparison of R46, before any record due is applied. -/
def repairCompare (old : FrameNo) (s : State) : State :=
  s.withAgr (s.agr.onPeers s.own (fun i r => { r with repair := repairCount s.agr old i r }))

/-- The membership of peer `i` is set to its last PULSE's condition and reported (R46). -/
def repairPeer (s : State) (i : Nat) : State :=
  let live := match (s.agr.peer i).pulse with
    | some p => p.condition == .live
    | none => false
  let a := { s.agr with live := setMember s.agr.live i live }
  report .agreement .viewRepair i (s.withAgr (a.onPeer i (fun r => { r with repair := 0 })))

/-- The records due at a frame start whose number moved from `old` to `new` (R44). -/
def isDue (old new : FrameNo) (r : EpochRecord) : Bool :=
  r.frame == new || (after r.frame old && notAfter r.frame new)

/-- The λ carried by a LIVE change sets the subject's factor, with source EPOCH (step 1 of R44, R48). -/
def applyStateToPeers (ps : List PeerRecord) (c : StateChange) : List PeerRecord :=
  match c.live, c.lam with
  | true, some lam => ps.modify c.subject (fun r => { r with factor := some { lam := lam, source := .epoch } })
  | _, _ => ps

/-- Step 2 of R44 on the peer table. -/
def applyLightToPeers (ps : List PeerRecord) (c : LightChange) : List PeerRecord :=
  ps.modify c.station (fun r => { r with factor := some { lam := c.lam, source := .epoch } })

/-- The move of the own condition by a state change about this station (R29). -/
def moveCondition (own : Nat) (k : Controller) (c : StateChange) : Controller :=
  if c.subject = own then
    if c.live then
      (if k.condition = .joining ∨ k.condition = .dark then { k with condition := .live } else k)
    else (if k.condition = .live then { k with condition := .dark, dwell := 0 } else k)
  else k

/-- One state change takes effect: the membership, the factor of a LIVE change, and the own condition (steps 1 and 5 of R44);
one whose subject's standing already matches sets the membership again and has no further effect (R44). -/
def applyState (s : State) (c : StateChange) : State :=
  let t := s.withAgr { s.agr with live := setMember s.agr.live c.subject c.live }
  if isMember s.agr.live c.subject = c.live then t
  else (t.withAgr { t.agr with peers := applyStateToPeers s.agr.peers c }).withCtl (moveCondition s.own s.ctl c)

/-- The light changes and the cut levels of a record take effect (steps 2 and 3 of R44). -/
def applyLights (r : EpochRecord) (s : State) : State :=
  s.withAgr { s.agr with peers := r.lights.foldl applyLightToPeers s.agr.peers, levels := r.levels.getD s.agr.levels }

/-- One record takes effect (R44): its state changes with their moves of the condition, its light changes and levels, the swap
request, and the queued bounds job of a record applied before its pass started (R70). -/
def applyRecord (s : State) (r : EpochRecord) : State :=
  dropBoundsJob r.frame (answerSwap r (applyLights r (r.states.foldl applyState s)))

/-- Every record due takes effect, in ascending frame order, and leaves the list (R44). -/
def applyDue (old : FrameNo) (s : State) : State :=
  let due := s.agr.epochs.filter (isDue old s.current)
  let kept := s.agr.epochs.filter (fun r => !isDue old s.current r)
  due.foldl applyRecord (s.withAgr { s.agr with epochs := kept })

/-- A peer's EPOCH entry whose station is no member takes source LEVELS (R48). -/
def sourceToLevels (live : StationSet) (i : Nat) (r : PeerRecord) : PeerRecord :=
  match r.factor with
  | some f => if f.source = .epoch ∧ isMember live i = false then { r with factor := some { f with source := .levels } }
              else r
  | none => r

/-- The sources of R48 at a frame start in LIVE or DARK. -/
def lightSourceStep (s : State) : State := s.withAgr (s.agr.onPeers s.own (sourceToLevels s.agr.live))

/-- Bounds jobs are queued for the records within 3 frames that have none yet (R52). -/
def queueBoundsJobs (s : State) : State :=
  let near := fun (r : EpochRecord) => !r.jobQueued && notAfter r.frame (s.current + 3)
  let jobs := (s.agr.epochs.filter near).map (fun r =>
    ({ kind := .bounds, epoch := r.frame, levels := { floor := 0, ceiling := 16777215 } } : Job))
  (s.withSol { s.sol with queue := s.sol.queue ++ jobs }).withAgr { s.agr with
    epochs := s.agr.epochs.map (fun r => if near r then { r with jobQueued := true } else r) }

/-- The pair station `i` contributes to the cut of `r`, as an entry of the rewritten bounds table (R12, R53, R55). Last bounds
that came before the record stood are a stand-in, even when their low 16 bits are those of the epoch: R12 and R53 have no row
for them (DESIGN CHOICE, log 23). -/
def cutEntry (a : Agreement) (r : EpochRecord) (i : Nat) : Option BoundsEntry :=
  match r.bounds.find? (fun e => e.station == i && e.received) with
  | some e => some e
  | none => (a.peer i).bounds.map (fun b => { station := i, floor := b.floor, ceiling := b.ceiling, received := false })

/-- The bounds table of the cut of `r`: one entry for each station of the projected live set that contributes (R53). -/
def cutTable (a : Agreement) (r : EpochRecord) : List BoundsEntry :=
  ((List.range 12).filter (isMember (projectLive a r.frame))).filterMap (cutEntry a r)

/-- F and C of the pairs taken (R13). -/
def reduceBounds (l : List BoundsEntry) : LevelPair :=
  { floor := l.foldl (fun f e => max f e.floor) 0, ceiling := l.foldl (fun c e => min c e.ceiling) 16777215 }

/-- The pair collapses (R14). -/
def collapses (p : LevelPair) : Bool := decide (p.ceiling ≤ p.floor)

/-- The correction of a collapsed pair (R14). -/
def corrected (p : LevelPair) : LevelPair :=
  if collapses p then
    (if p.floor < 16777215 then { floor := p.floor, ceiling := p.floor + 1 }
     else { floor := 16777214, ceiling := 16777215 })
  else p

/-- The cut of record `r` (R53): STALE_BOUND for each peer's stand-in in station order (R12), LEVEL_COLLAPSE (R14), the
levels, the phase, and the coefficient job (R76). -/
def cutRecord (s : State) (r : EpochRecord) : State :=
  let table := cutTable s.agr r
  let raw := reduceBounds table
  let stale := table.filter (fun e => !e.received && !(e.station == s.own))
  let t := stale.foldl (fun u e => report .agreement .staleBound e.station u) s
  let t' := reportIf (collapses raw) .agreement .levelCollapse (r.frame.setWidth 16).toNat t
  let u := t'.withAgr (t'.agr.onRecord r.frame (fun x => { x with
    bounds := table, levels := some (corrected raw), phase := .cut }))
  u.withSol (u.sol.queueCoeff { kind := .coeff, epoch := r.frame, levels := corrected raw })

/-- The cuts of a frame start (R53). -/
def cutStep (s : State) : State :=
  (s.agr.epochs.filter (fun r =>
    (r.phase == .opened || r.phase == .bounded) && notAfter r.frame (s.current + 1))).foldl cutRecord s

/-- One fade step: m moves toward the target by the rounded quotient (R56). -/
def fadeStep (f : Fade) : Fade :=
  if 0 < f.remaining then
    { f with m := ((f.m : Int) + roundDivInt ((f.target : Int) - f.m) f.remaining).toNat, remaining := f.remaining - 1 }
  else f

/-- The pending fade starts at this frame start (R58). -/
def fadeStarts (old new : FrameNo) (p : PendingFade) : Bool :=
  p.start == new || (after p.start old && notAfter p.start new)

/-- The fade state a pending fade starts, from the m that then stands (R58). -/
def startFade (m : Nat) (p : PendingFade) : Fade :=
  if 0 < p.duration then { m := m, target := p.target, remaining := p.duration }
  else { m := p.target, target := p.target, remaining := 0 }

/-- Loading, starting and stepping the fade at a frame start (R58, then R56). -/
def fadeFrameStart (old new : FrameNo) (a : Agreement) : Agreement :=
  let f := a.adopted.getD a.fade
  match a.pendingFade with
  | some p =>
    if fadeStarts old new p then { a with fade := fadeStep (startFade f.m p), adopted := none, pendingFade := none }
    else { a with fade := fadeStep f, adopted := none }
  | none => { a with fade := fadeStep f, adopted := none }

/-- The end frame of the identify state is reached (R64). -/
def identifyEnds (new : FrameNo) (i : Identify) : Bool :=
  match i.endFrame with
  | some e => e == new || after new e
  | none => false

/-- The frame is an identify on-frame of the state `i` (R63). -/
def identifyOn (new : FrameNo) (i : Identify) : Bool :=
  (new == i.start || after new i.start) && decide ((new - i.start).toNat % i.period < i.on)

/-- The end and the decision of identify at a frame start (R64, then R63). -/
def identifyFrameStart (new : FrameNo) (a : Agreement) : Agreement :=
  let i := a.identify.filter (fun x => !identifyEnds new x)
  { a with identify := i, onFrame := (i.map (identifyOn new)).getD false }

/-- The peers examined for silence at a frame start that are due a DARK change (R36), in ascending order. -/
def silentPeers (s : State) : List Nat :=
  (List.range 12).filter (fun i =>
    decide (i ≠ s.own) && (isMember s.agr.live i || s.agr.statePendingAs i true)
      && decide (s.settings.silenceTimeout ≤ (s.agr.peer i).silence) && !(s.agr.statePendingAs i false)
      && !(s.port.changeStands i))

/-- The DARK change about a silent peer is queued; PEER_SILENT is reported when the queue takes it (R36). -/
def announceSilence (s : State) (i : Nat) : State :=
  let t := enqueue (.change false .silence (BitVec.ofNat 8 i) s.leadEpoch 0) s
  reportIf s.port.takesChange .agreement .peerSilent i t

/-- Peer silence at a frame start in LIVE or DARK (R36). -/
def peerSilenceStep (s : State) : State := (silentPeers s).foldl announceSilence s

/-- Self-silence at a frame start in LIVE (R37): the entry goes through R40 to R43 and SELF_SILENT is reported. -/
def selfSilenceStep (s : State) : State :=
  if s.ctl.condition = .live ∧ s.settings.silenceTimeout ≤ s.ctl.selfSilence ∧ s.agr.statePendingAs s.own false = false then
    report .agreement .selfSilent (s.leadEpoch.setWidth 16).toNat
      (takeChange (.state { subject := s.own, live := false, reason := .silent, lam := none }) s.leadEpoch s)
  else s

end Sys2Proof.Machine
end

