-- ==== Sys2Proof/Machine/Timing.lean ====
section
/-!
DEFINITION. Machine/Timing.lean: the frame line unit: the raster's part of a frame start (R80 to R82, R84, R95, R99), edges
and windows (R85 to R87), the lock states (R88 to R93), jumps (R94), steering (R96, R97) and count adoption (R98), with the
meanings of FRAME_LINE_RELEASE, FRAME_LINE_EDGE and WINDOW_COMPLETION.
-/
namespace Sys2Proof.Machine

/-! ## Frame start -/

/-- The lock states in which a station drives the frame line (R84). -/
def drivingState : LockState → Bool
  | .alone | .pulling | .locked => true
  | .listen | .free => false

/-- The number of the output frame that a frame start begins (R81, R99): the first after START keeps its number, an
adoption target n gives n + 1, and otherwise the number increases by one. -/
def nextFrameNo (l : FrameLine) : FrameNo :=
  if l.firstDue then l.frameNo
  else match l.target with
    | some n => n + 1
    | none => l.frameNo + 1

/-- The frame start takes an adoption target (R99). -/
def adoptsCount (l : FrameLine) : Bool := !l.firstDue && l.target.isSome

/-- The moment of the next frame start, as the stamp counter's value and the part of a stamp after it: `first` for the
first after START, which comes at once as START ends (R80), the time that a jump has set (R94), and otherwise the end of the
frame in progress, whose length the trim in effect gives (R82). -/
def nextFrameMoment (first : Stamp) (l : FrameLine) : Stamp × Fraction :=
  if l.firstDue then (first, { num := 0, den := 1 })
  else match l.nextStart with
    | some t => (t, { num := 0, den := 1 })
    | none =>
      let x := (l.startFrac.add (frameLength l.raster l.trim)).split
      (l.startStamp + BitVec.ofNat 32 x.1, x.2)

/-- How many raster positions the walk of the frame in progress begins before the stamp `t` (R80, R82, R152, log 30). -/
def positionsBefore (l : FrameLine) (t : Stamp) : Nat :=
  let time := (stampDiff t l.startStamp).toNat * l.startFrac.den - l.startFrac.num
  let num := time * (l.raster.f0 * (2 ^ 24 + l.trim).toNat)
  let den := l.startFrac.den * (100000000 * 2 ^ 24)
  (num + den - 1) / den

/-- The raster positions that the walk of the frame in progress begins before a jump's time ends it; none when no time is
set (R94, R152, log 30). -/
def walkEnd (l : FrameLine) : Option Nat := l.nextStart.map (positionsBefore l)

/-- The walk of the frame in progress reaches pixel `x` of line `y` (R94, R152). -/
def reached (l : FrameLine) (x y : Nat) : Bool :=
  match walkEnd l with
  | none => true
  | some n => decide (y * l.raster.hTotal + x < n)

/-- The later of two stamps less than half the counter apart. -/
def laterStamp (a b : Stamp) : Stamp := if 0 ≤ stampDiff a b then a else b

/-- The opening of the capture window of the frame that starts at `t` (R85): t − Hw, or the close of the window before;
the first window after START opens at the frame start. -/
def windowOpening (l : FrameLine) (hw : Nat) (t : Stamp) : Stamp :=
  if l.firstDue then t else laterStamp (t - BitVec.ofNat 32 hw) (l.startStamp + BitVec.ofNat 32 hw)

/-- The raster's part of a frame start in JOINING, LIVE or DARK: the stamp, the number, the trim, the driving flag and the
line, the send event to come, the window, and the jump wait (R80 to R85, R95, R99). -/
def lineFrameStart (first : Stamp) (hw : Nat) (l : FrameLine) : FrameLine :=
  let at_ := (nextFrameMoment first l).1
  let drives := drivingState l.lock
  { l with
    stamp := at_
    windowOpen := windowOpening l hw at_
    windowPending := true
    edges := if l.firstDue then [] else l.edges
    baseLow := if l.firstDue then l.low else l.baseLow
    startStamp := at_
    startFrac := (nextFrameMoment first l).2
    sendPending := true
    frameNo := nextFrameNo l
    target := if l.firstDue then l.target else none
    firstDue := false
    nextStart := none
    trim := l.staged
    driving := drives
    pulling := drives
    jumpWait := l.jumpWait - 1 }

/-- The raster's part of a frame start, with the COUNT_ADOPT report (R99). -/
def rasterFrameStart (first : Stamp) (s : State) : State :=
  let s' := s.withLine (lineFrameStart first s.halfWidth s.line)
  reportIf (adoptsCount s.line) .frameLine .countAdopt ((nextFrameNo s.line).setWidth 16).toNat s'

/-- A frame start in HALTED: the raster timer runs on at the trim it holds and keeps its number (R81, R88); the station does
not drive in the frame (R84), its send event is to come (R83), and the jump wait decreases (R95). No halt has cut the frame that
begins (R158). -/
def haltedFrameStart (first : Stamp) (s : State) : State :=
  let m := nextFrameMoment first s.line
  s.withLine { s.line with
    stamp := m.1, startStamp := m.1, startFrac := m.2, firstDue := false, nextStart := none
    driving := false, sendPending := true, jumpWait := s.line.jumpWait - 1, haltPlace := none }

/-- FRAME_LINE_RELEASE: the station releases the line 2000 stamps after its frame start (R84). -/
def execFrameLineRelease (s : State) : Host.Outcome State Fault Refusal :=
  finish (if s.line.pulling then
      s.withLine { s.line with pulling := false, stamp := s.line.startStamp + BitVec.ofNat 32 pulseWidth }
    else s)

/-- FRAME_LINE_EDGE: the line's level changes, and the edge is stamped for the capture windows (R79, R85). -/
def execFrameLineEdge (falling : Bool) (stamp : Stamp) (s : State) : Host.Outcome State Fault Refusal :=
  finish (s.withLine { s.line with
    stamp := stamp
    low := falling
    edges := if s.working then s.line.edges ++ [⟨falling, stamp⟩] else s.line.edges })

/-! ## The measurement of a window -/

/-- The stamp of an edge relative to the frame start of the window (R79). -/
def edgeRel (l : FrameLine) (x : Edge) : Int := stampDiff x.stamp l.startStamp

/-- The edges of the window: from its opening to the close of its rising-edge part (R85). -/
def windowEdges (l : FrameLine) (hw : Nat) : List Edge :=
  l.edges.filter (fun x =>
    decide (stampDiff l.windowOpen l.startStamp ≤ edgeRel l x ∧ edgeRel l x ≤ hw + pulseWidth))

/-- The line was low at the window's opening: the level after the last edge before it (R87). -/
def lowAtOpening (l : FrameLine) : Bool :=
  match (l.edges.filter (fun x => decide (edgeRel l x < stampDiff l.windowOpen l.startStamp))).getLast? with
  | some x => x.falling
  | none => l.baseLow

/-- The window's edges from its first falling edge on, when it has one (R85, R86). -/
def fromFirstFall (l : FrameLine) (hw : Nat) : List Edge :=
  (windowEdges l hw).dropWhile (fun x => !(x.falling && decide (edgeRel l x < hw)))

/-- The line was low throughout the window: low at its opening, and no rising edge (R87). -/
def lowThroughout (l : FrameLine) (hw : Nat) : Bool :=
  lowAtOpening l && (windowEdges l hw).all (fun x => x.falling)

/-- The measurement of a window with no falling edge (R86, R87). -/
def emptyWindow (l : FrameLine) (hw : Nat) : Measurement × Nat :=
  if lowThroughout l hw then ({ cls := .lineFault, tFall := none, span := none, e := none }, 1)
  else if l.driving then ({ cls := .lineFault, tFall := none, span := none, e := none }, 3)
  else ({ cls := .noEdges, tFall := none, span := none, e := none }, 0)

/-- The measurement of a window, with the case number of a line fault or 0 (R86, R87). R86 names t_fall for a measured window; a
line fault of case 2 records its first fall as t_fall, and no span (DESIGN CHOICE, log 33). -/
def measure (l : FrameLine) (hw : Nat) : Measurement × Nat :=
  match fromFirstFall l hw with
  | [] => emptyWindow l hw
  | fall :: rest =>
    match (rest.filter (fun x => !x.falling)).getLast? with
    | none => ({ cls := .lineFault, tFall := some fall.stamp, span := none, e := none }, 2)
    | some rise =>
      let span := edgeRel l rise - pulseWidth - edgeRel l fall
      if span < 0 then ({ cls := .noEdges, tFall := some fall.stamp, span := some span, e := none }, 0)
      else ({ cls := .measured, tFall := some fall.stamp, span := some span, e := some (-(edgeRel l fall + span / 2)) }, 0)

/-- The edges kept for the next window: those not before the close of the falling-edge part (R85). -/
def keptEdges (l : FrameLine) (hw : Nat) : List Edge := l.edges.filter (fun x => decide ((hw : Int) ≤ edgeRel l x))

/-- The line's level before the kept edges. -/
def keptBase (l : FrameLine) (hw : Nat) : Bool :=
  match (l.edges.filter (fun x => decide (edgeRel l x < hw))).getLast? with
  | some x => x.falling
  | none => l.baseLow

/-! ## Steering, moves and jumps -/

/-- Steering from offset `e` (R96): the integral term and the staged trim. -/
def steer (tf : Nat) (st : Settings) (e : Int) (l : FrameLine) : FrameLine :=
  let tmax : Int := tauMax st.pullRange
  let u := roundDivInt (e * 2 ^ 24) tf
  let i := clampInt tmax (l.integral + truncDiv u 64)
  let goal := clampInt tmax (i + truncDiv u 8)
  { l with integral := i, staged := l.trim + clampInt st.slew (goal - l.trim) }

/-- A move to lock state `x`, which sets all five counters to 0 (R88). -/
def moveLock (x : LockState) (l : FrameLine) : FrameLine :=
  { l with lock := x, near := 0, quiet := 0, inside := 0, outside := 0, good := 0 }

/-- The detail |e| div 64, saturated at 65535 (R91, R92, R94). -/
def offsetDetail (e : Int) : Nat := min (e.natAbs / 64) 65535

/-- A jump from offset `e` (R94): the next frame start falls at mid + Tf_nom, or one Tf_nom later when that is not after
the completion; the integral term, near and quiet counts are 0, and the wait is 2 + the station number. -/
def jumpLine (tf hw own : Nat) (e : Int) (l : FrameLine) : FrameLine :=
  let rel : Int := if (tf : Int) - e ≤ hw + pulseWidth then 2 * tf - e else tf - e
  { l with nextStart := some (l.startStamp + BitVec.ofInt 32 rel), integral := 0, near := 0, quiet := 0
           jumpWait := 2 + own }

/-- The jump with its FRAME_JUMP report (R94); the lock state is then LISTEN (R89 to R91). -/
def jump (e : Int) (s : State) : State :=
  let l := jumpLine s.tf s.halfWidth s.own e s.line
  let l' := if l.lock = .listen then l else moveLock .listen l
  report .frameLine .frameJump (offsetDetail e) (s.withLine l')

/-- Steering written into the state. -/
def steerStep (e : Int) (s : State) : State := s.withLine (steer s.tf s.settings e s.line)

/-- The moves of LISTEN when the jump wait is 0 (R89). -/
def listenMoves (l : FrameLine) : FrameLine :=
  if l.jumpWait = 0 then
    (if 4 ≤ l.near then moveLock .pulling l else if 8 ≤ l.quiet then moveLock .alone l else l)
  else l

/-- The offset is beyond the jump limit (R89 to R91). -/
def State.far (s : State) (e : Int) : Bool := decide ((s.jumpLimit : Int) < e.natAbs)

/-- A LISTEN completion (R89). A LIVE station jumps here too: R89 names no condition, against the words before R79 and before
R23 that a LIVE station never jumps (DESIGN CHOICE, log 25). -/
def listenStep (m : Measurement) (s : State) : State :=
  match m.cls, m.e with
  | .measured, some e =>
    if s.far e then jump e s
    else s.withLine (listenMoves { s.line with near := s.line.near + 1, quiet := 0 })
  | _, _ => s.withLine (listenMoves { s.line with quiet := s.line.quiet + 1, near := 0 })

/-- A measured ALONE completion (R90). -/
def aloneStep (span e : Int) (s : State) : State :=
  if span = 0 then steerStep e s
  else if s.far e then
    (if s.ctl.condition = .live then
       let t := steerStep e s
       report .frameLine .farPhase (offsetDetail e) (t.withLine (moveLock .pulling t.line))
     else jump e s)
  else
    let t := steerStep e s
    t.withLine (moveLock .pulling t.line)

/-- A measured PULLING completion (R91). -/
def pullingStep (e : Int) (s : State) : State :=
  if s.far e then
    (if s.ctl.condition = .live then
       let t := steerStep e s
       report .frameLine .farPhase (offsetDetail e) (t.withLine { t.line with inside := 0 })
     else jump e s)
  else
    let t := steerStep e s
    if e.natAbs ≤ s.settings.lockWindow then
      (if 8 ≤ t.line.inside + 1 then t.withLine (moveLock .locked t.line)
       else t.withLine { t.line with inside := t.line.inside + 1 })
    else t.withLine { t.line with inside := 0 }

/-- A measured LOCKED completion (R92). -/
def lockedStep (e : Int) (s : State) : State :=
  let t := steerStep e s
  if e.natAbs ≤ s.settings.lockWindow then t.withLine { t.line with outside := 0 }
  else if 3 ≤ t.line.outside + 1 ∨ 4 * s.settings.lockWindow < e.natAbs then
    report .frameLine .lockLost (offsetDetail e) (t.withLine (moveLock .pulling t.line))
  else t.withLine { t.line with outside := t.line.outside + 1 }

/-- A FREE completion without line fault (R93). -/
def freeStep (s : State) : State :=
  if 8 ≤ s.line.good + 1 then
    s.withLine (moveLock (if s.ctl.condition = .live then .pulling else .listen) s.line)
  else s.withLine { s.line with good := s.line.good + 1 }

/-- A no-edges completion in ALONE, PULLING or LOCKED (R86). -/
def quietDriving (s : State) : State := s.withLine { s.line with inside := 0, outside := 0 }

/-- The lock state acts on a measurement that is no line fault (R89 to R93). -/
def lockStep (m : Measurement) (s : State) : State :=
  match s.line.lock with
  | .listen => listenStep m s
  | .free => freeStep s
  | .alone =>
    match m.cls, m.span, m.e with
    | .measured, some span, some e => aloneStep span e s
    | _, _, _ => quietDriving s
  | .pulling =>
    match m.cls, m.e with
    | .measured, some e => pullingStep e s
    | _, _ => quietDriving s
  | .locked =>
    match m.cls, m.e with
    | .measured, some e => lockedStep e s
    | _, _ => quietDriving s

/-- The completion of the capture window of the frame in progress (R85 to R93). A line fault during the jump wait makes the
lock state FREE and leaves the wait: R87 says so of any lock state, and R95 that the state stays LISTEN (DESIGN CHOICE,
log 25). -/
def completeWindow (s : State) : State :=
  let hw := s.halfWidth
  let r := measure s.line hw
  let l := { s.line with
    stamp := s.line.startStamp + BitVec.ofNat 32 (hw + pulseWidth)
    last := r.1
    windowPending := false
    edges := keptEdges s.line hw
    baseLow := keptBase s.line hw }
  let t := s.withLine l
  if r.1.cls = .lineFault then report .frameLine .lineStuck r.2 (t.withLine (moveLock .free l))
  else lockStep r.1 t

/-- WINDOW_COMPLETION: the window of the frame in progress completes, once for each frame, while the station works
(R85, R88). -/
def execWindowCompletion (s : State) : Host.Outcome State Fault Refusal :=
  finish (if s.working && s.line.windowPending then completeWindow s else s)

/-! ## Count adoption -/

/-- The own station and the PULSE are in one of the two situations of R98. -/
def mayAdoptCount (s : State) (p : PulseInfo) : Bool :=
  s.ctl.condition == .joining || s.ctl.condition == .dark ||
    (s.ctl.condition == .live && s.line.lock == .locked && p.condition == .live && p.driving)

/-- The adoption target after a peer's PULSE numbered `n` is considered (R98). -/
def nextTarget (current : FrameNo) (old : Option FrameNo) (n : FrameNo) : Option FrameNo :=
  match old with
  | none => if after n current then some n else none
  | some t => if after n t then some n else some t

/-- A peer's PULSE is considered for count adoption (R98). -/
def considerCount (p : PulseInfo) (s : State) : State :=
  if mayAdoptCount s p then s.withLine { s.line with target := nextTarget s.current s.line.target p.frame } else s

end Sys2Proof.Machine
end

