-- ==== Sys2Proof/Machine/Store.lean ====
section
/-!
DEFINITION. Machine/Store.lean: the frame store: the reference and the keys (R137), the grant of a slot (R138), the placing
of a clean frame and content restart (R139 to R141), the held value (R142), and the selection at a frame start (R143 to
R147).
-/
namespace Sys2Proof.Machine

/-- Slot `i` of the store. -/
def Store.slot (x : Store) (i : Nat) : Slot := x.slots.getD i freeSlot

/-- The store with slot `i` replaced. -/
def Store.setSlot (x : Store) (i : Nat) (v : Slot) : Store := { x with slots := x.slots.set i v }

/-- The number of the SHOWING slot, if any (R136). -/
def Store.showing (x : Store) : Option Nat := x.slots.findIdx? (fun v => v.state == .showing)

/-- The content number of the SHOWING slot, the showing number (R137). -/
def Store.showingNumber (x : Store) : Option ContentNo := x.showing.bind (fun i => (x.slot i).content)

/-- A slot is SHOWING and the restart mark is clear (R137, R140, R144). -/
def Store.ordered (x : Store) : Bool := x.showing.isSome && !x.restartMark

/-- The reference number r (R137). -/
def Store.reference (x : Store) : Option ContentNo := if x.ordered then x.showingNumber else x.lastKept

/-- The READY slots with their content numbers, by slot number. -/
def Store.readySlots (x : Store) : List (Nat × ContentNo) :=
  (List.range 4).filterMap (fun i =>
    if (x.slot i).state = .ready then (x.slot i).content.map (fun c => (i, c)) else none)

/-- Of two slots, the one with the smaller key against `r`. -/
def earlierSlot (r : ContentNo) (a b : Nat × ContentNo) : Nat × ContentNo :=
  if contentKey b.2 r < contentKey a.2 r then b else a

/-- Of two slots, the one with the greater key against `r`. -/
def laterSlot (r : ContentNo) (a b : Nat × ContentNo) : Nat × ContentNo :=
  if contentKey a.2 r < contentKey b.2 r then b else a

/-- The slot of smallest key of a list. -/
def earliestSlot (r : ContentNo) : List (Nat × ContentNo) → Option (Nat × ContentNo)
  | [] => none
  | x :: rest => some (rest.foldl (earlierSlot r) x)

/-- The slot of greatest key of a list. -/
def latestSlot (r : ContentNo) : List (Nat × ContentNo) → Option (Nat × ContentNo)
  | [] => none
  | x :: rest => some (rest.foldl (laterSlot r) x)

/-! ## Granting a slot (R138) -/

/-- The lowest-numbered FREE slot. -/
def Store.lowestFree (x : Store) : Option Nat := x.slots.findIdx? (fun v => v.state == .free)

/-- A slot granted to an opening frame (R138). -/
def fillingSlot (c : ContentNo) : Slot := { state := .filling, content := some c, completed := none }

/-- Under REFUSE_NEW a request far behind the showing number is taken as under DROP_OLDEST (R138). -/
def Store.farBehind (x : Store) (c : ContentNo) : Bool :=
  match x.ordered, x.showingNumber with
  | true, some r => decide (contentKey c r < -256)
  | _, _ => false

/-- The receiver asks for a slot for content `c` (R138): the answer and the state after it. -/
def requestSlot (c : ContentNo) (s : State) : Option Nat × State :=
  let x := s.store
  match x.lowestFree with
  | some i => (some i, s.withStore (x.setSlot i (fillingSlot c)))
  | none =>
    if s.settings.overrun = 1 ∨ x.farBehind c then
      match x.reference.bind (fun r => earliestSlot r x.readySlots) with
      | some (i, lost) =>
          (some i, report .store .storeOverrun lost.toNat (s.withStore (x.setSlot i (fillingSlot c))))
      | none => (none, s)
    else (none, report .store .storeRefused c.toNat s)

/-- A slot becomes FREE (R131, R139). -/
def releaseSlot (i : Nat) (s : State) : State := s.withStore (s.store.setSlot i freeSlot)

/-! ## A clean frame (R140, R141) -/

/-- The store with every READY slot that holds content `c` made FREE (R140). -/
def dropDuplicates (c : ContentNo) (x : Store) : Store :=
  { x with slots := x.slots.map (fun v => if v.state = .ready ∧ v.content = some c then freeSlot else v) }

/-- The store with every READY slot made FREE (R141). -/
def dropReady (x : Store) : Store := { x with slots := x.slots.map (fun v => if v.state = .ready then freeSlot else v) }

/-- A slot that holds a kept frame (R140). -/
def readySlot (c : ContentNo) (completed : FrameNo) : Slot :=
  { state := .ready, content := some c, completed := some completed }

/-- The frame is kept: it replaces an older copy, and its number becomes the last kept number (R140). -/
def keepFrame (i : Nat) (c : ContentNo) (n : FrameNo) (x : Store) : Store :=
  let y := (dropDuplicates c x).setSlot i (readySlot c n)
  { y with lastKept := some c, behind := if x.ordered then 0 else x.behind }

/-- The content restart at the eighth behind frame (R141). -/
def contentRestart (i : Nat) (c : ContentNo) (n : FrameNo) (s : State) : State :=
  let y := (dropReady s.store).setSlot i (readySlot c n)
  report .store .contentRestart c.toNat
    (s.withStore { y with lastKept := some c, behind := 0, restartMark := true })

/-- The receiver hands over a clean frame with content `c` in slot `i` (R140). -/
def handOver (i : Nat) (c : ContentNo) (s : State) : State :=
  let x := s.store
  let freed := x.setSlot i freeSlot
  match x.ordered, x.showingNumber with
  | true, some r =>
    let key := contentKey c r
    if -256 ≤ key ∧ key ≤ 0 then s.withStore { freed with behind := 0 }
    else if key < -256 then
      (if 8 ≤ x.behind + 1 then contentRestart i c s.current s
       else s.withStore { freed with behind := x.behind + 1 })
    else s.withStore (keepFrame i c s.current x)
  | _, _ => s.withStore (keepFrame i c s.current x)

/-! ## The held value (R142) -/

/-- The slots whose content enters the held value: READY, and SHOWING while the restart mark is clear (R142). -/
def Store.heldSlots (x : Store) : List (Nat × ContentNo) :=
  (List.range 4).filterMap (fun i =>
    if (x.slot i).state = .ready ∨ ((x.slot i).state = .showing ∧ x.restartMark = false)
    then (x.slot i).content.map (fun c => (i, c)) else none)

/-- The held value (R142). -/
def Store.heldValue (x : Store) : Option ContentNo :=
  x.reference.bind (fun r => (latestSlot r x.heldSlots).map Prod.snd)

/-! ## Selection (R143 to R147) -/

/-- The held content number a member contributes to S, from its record's last PULSE (R143). -/
def contribution (a : Agreement) (i : Nat) : Option ContentNo :=
  match (a.peer i).pulse with
  | some p => if p.heldValid then some p.held else none
  | none => none

/-- The held content numbers contributed by the members of the live view (R143). -/
def contributions (a : Agreement) : List ContentNo :=
  ((List.range 12).filter (isMember a.live)).filterMap (contribution a)

/-- S: the earliest of the numbers contributed, against the reference (R143). -/
def selectionFigure (a : Agreement) (x : Store) : Option ContentNo :=
  x.reference.bind (fun r => (earliestSlot r ((contributions a).map (fun c => (0, c)))).map Prod.snd)

/-- The candidate is not after S, or S is absent (R144). -/
def withinS (sel : Option ContentNo) (c : ContentNo) : Bool :=
  match sel with
  | some f => contentNotAfter c f
  | none => true

/-- The candidates of a selection: the READY slots, and while the store is ordered only those after the showing number
(R144, R146, R147). -/
def Store.candidates (x : Store) : List (Nat × ContentNo) :=
  match x.ordered, x.showingNumber with
  | true, some r => x.readySlots.filter (fun y => contentAfter y.2 r)
  | _, _ => x.readySlots

/-- The successor of a selection: the latest candidate not after S (R144, R146, R147). -/
def Store.successor (x : Store) (sel : Option ContentNo) : Option (Nat × ContentNo) :=
  x.reference.bind (fun r => latestSlot r (x.candidates.filter (fun y => withinS sel y.2)))

/-- A slot after slot `i` with number `c` became SHOWING: the old SHOWING slot and every READY slot not after `c` are FREE
(R144, R146, R147). -/
def afterTaking (i : Nat) (c : ContentNo) (j : Nat) (v : Slot) : Slot :=
  if j = i then { v with state := .showing }
  else match v.state, v.content with
    | .showing, _ => freeSlot
    | .ready, some d => if contentNotAfter d c then freeSlot else v
    | _, _ => v

/-- The store once slot `i` with number `c` has become SHOWING; the restart mark is clear from then on (R147). -/
def takeSuccessor (i : Nat) (c : ContentNo) (x : Store) : Store :=
  { x with slots := x.slots.mapIdx (afterTaking i c), restartMark := false }

/-- CONTENT_BEHIND after a selection (R145, R147): S is present and the shown content number differs from it. -/
def behindS (sel : Option ContentNo) (shown : Option ContentNo) : Bool :=
  match sel, shown with
  | some f, some c => !(f == c)
  | _, _ => false

/-- The selection of a frame start (R143 to R147). A candidate exactly 32768 from S is neither after it nor not after it (00): it is
no successor, and the repeat it leaves is reported as FRAME_REPEAT (DESIGN CHOICE, log 24). -/
def selectContent (s : State) : State :=
  let sel := selectionFigure s.agr s.store
  let x := s.store
  let moved := match x.successor sel with
    | some (i, c) => takeSuccessor i c x
    | none => x
  let repeats := x.ordered && (x.successor sel).isNone && !x.candidates.isEmpty
  let t := s.withStore { moved with selection := sel }
  let t' := reportIf repeats .store .frameRepeat ((x.showingNumber.getD 0).toNat) t
  reportIf (behindS sel moved.showingNumber) .store .contentBehind ((sel.getD 0).toNat) t'

/-- The frame store on entry to HALTED: the FILLING slot becomes FREE (R139, R150). -/
def haltStore (x : Store) : Store :=
  { x with slots := x.slots.map (fun v => if v.state = .filling then freeSlot else v) }

end Sys2Proof.Machine
end

