-- ==== Sys2Proof/Machine/LinkReceiver.lean ====
section
/-!
DEFINITION. Machine/LinkReceiver.lean: the link receiver: bringing the link up (R120 to R123), packets and their loss
(R124 to R127), the open frame (R128 to R133), input health (R134, R135), and the meanings of its commands.
-/
namespace Sys2Proof.Machine

/-! ## The open frame -/

/-- The frame keeps its first poison cause (R131). -/
def poisonFrame (cause : Nat) (f : OpenFrame) : OpenFrame := { f with poison := f.poison.or (some cause) }

/-- The open frame, if any, is poisoned (R131). -/
def poison (cause : Nat) (s : State) : State :=
  s.withLink { s.link with openFrame := s.link.openFrame.map (poisonFrame cause) }

/-- The detail of FRAME_POISONED: 256 × the cause + the low 8 bits of the content number (R131). -/
def poisonDetail (f : OpenFrame) : Nat := 256 * f.poison.getD 0 + (f.content.setWidth 8).toNat

/-- A poisoned frame ends without its slot being touched: the report, and the clean run count at 0 (R131, R135). -/
def endPoisonedKeepSlot (f : OpenFrame) (s : State) : State :=
  report .link .framePoisoned (poisonDetail f) (s.withLink { s.link with openFrame := none, cleanRun := 0 })

/-- The slot of a frame, when it holds one, returns to FREE (R131). -/
def releaseFrameSlot (f : OpenFrame) (s : State) : State :=
  match f.slot with
  | some i => releaseSlot i s
  | none => s

/-- A poisoned frame ends: the report, and its slot returns to FREE (R131). -/
def endPoisoned (f : OpenFrame) (s : State) : State := releaseFrameSlot f (endPoisonedKeepSlot f s)

/-- An open frame is poisoned with `cause` unless it is poisoned already, and ends (R131, R133). -/
def poisonAndEnd (cause : Nat) (s : State) : State :=
  match s.link.openFrame with
  | some f => endPoisoned (poisonFrame cause f) s
  | none => s

/-! ## Link states -/

/-- The lanes in use (R118). -/
def State.lanesInUse (s : State) : Nat := s.settings.laneCount

/-- The link leaves UP: it is DOWN, the clean run count is 0, and an open frame is poisoned with cause 8 and ends (R133,
R135). -/
def leaveUp (s : State) : State :=
  poisonAndEnd 8 (s.withLink { s.link with state := .down, cleanRun := 0, inputTimer := none, settleTimer := none })

/-- LANES_ACTIVE: in DOWN, with every lane in use active, the link is SETTLE and its timer starts (R120, R121). -/
def execLanesActive (s : State) : Host.Outcome State Fault Refusal :=
  finish (if s.working && s.link.state == .down then
      s.withLink { s.link with state := .settle, settleTimer := some s.line.stamp }
    else s)

/-- The input timer as it starts now: none with an input timeout of 0 (R124). -/
def State.timerNow (s : State) : Option Stamp := if 0 < s.settings.inputTimeout then some s.line.stamp else none

/-- In TRAINING, the lanes in use receive bits and their checkers run (R122, R123). -/
def receiveBits (received : List (List Bool)) (s : State) : State :=
  if s.link.state = .training then s.withLink { s.link with lanes := trainLanes s.lanesInUse received s.link.lanes }
  else s

/-- LANE_ACTIVITY_LOST: the loss of activity on a lane in use makes the link DOWN at once, and the training counts keep
their values (R120). -/
def execLaneActivityLost (lane : Nat) (s : State) (received : List (List Bool) := []) :
    Host.Outcome State Fault Refusal :=
  finish (if s.working && decide (lane < s.lanesInUse) then
      (let t := receiveBits received s
       match s.link.state with
       | .down => s
       | .settle | .training => t.withLink { t.link with state := .down, settleTimer := none }
       | .up => leaveUp s)
    else s)

/-- SETTLE_EXPIRY: the settle timer ends with every lane active, and TRAINING begins (R121, R122). -/
def execSettleExpiry (s : State) : Host.Outcome State Fault Refusal :=
  finish (if s.working && s.link.state == .settle then
      s.withLink { s.link with
        state := .training, settleTimer := none, lanes := s.link.lanes.map (fun _ => freshLane) }
    else s)

/-- SYNC_RECOGNISED: the lanes in TRAINING receive bits, and each lane whose last 16 bits are the sync word within one bit
recognises its sync (R122, R123). -/
def execSyncRecognised (lane : Nat) (bits0 bits1 bits2 bits3 : List Bool) (s : State) :
    Host.Outcome State Fault Refusal :=
  finish (if s.working && decide (lane < s.lanesInUse) then receiveBits [bits0, bits1, bits2, bits3] s else s)

/-- The lanes in use, in order. -/
def State.usedLanes (s : State) : List Lane := s.link.lanes.take s.lanesInUse

/-- The bit times at which the lanes in use ended their syncs. -/
def syncTimes (l : List Lane) : List Nat := l.filterMap (fun x => x.syncAt)

/-- Every lane in use has recognised its sync (R123). -/
def allSynced (l : List Lane) : Bool := l.all (fun x => x.syncAt.isSome)

/-- The last lane to sync ended more than 64 bit times after the first (R123). -/
def syncSkewed (l : List Lane) : Bool :=
  decide (64 < (syncTimes l).foldl max 0 - (syncTimes l).foldl min ((syncTimes l).foldl max 0))

/-- The lane that synced last (R123). Where several ended at one latest bit time the rule names none, and the lowest is taken
(DESIGN CHOICE, log 28). -/
def lastToSync (l : List Lane) : Nat := l.findIdx (fun x => x.syncAt == some ((syncTimes l).foldl max 0))

/-- The failing test of the training decision, as test number and lane, or none when all three pass (R123). -/
def trainingFailure (threshold : Nat) (l : List Lane) : Option (Nat × Nat) :=
  if syncSkewed l then some (3, lastToSync l)
  else match l.findIdx? (fun x => decide (x.checked < 65536)) with
    | some i => some (1, i)
    | none => (l.findIdx? (fun x => decide (threshold < x.mismatched))).map (fun i => (2, i))

/-- INPUT_TIMEOUT: the input timer reaches T in UP; the link is DOWN and an open frame ends (R124, R133). -/
def execInputTimeout (s : State) : Host.Outcome State Fault Refusal :=
  finish (if s.working && s.link.state == .up && decide (0 < s.settings.inputTimeout) then
      leaveUp (report .link .inputTimeout s.settings.inputTimeout s)
    else s)

/-! ## Packets -/

/-- The station reads packets: it works and the link is UP (R124). -/
def State.reads (s : State) : Bool := s.working && s.link.state == .up

/-- The input timer restarts at the end of a packet that is not lost (R124). -/
def restartTimer (s : State) : State := s.withLink { s.link with inputTimer := s.timerNow }

/-- The readers of the lanes in use. -/
def State.usedReaders (s : State) : List LaneReader := s.link.readers.take s.lanesInUse

/-- The bit times of the lanes in use (R126). -/
def State.usedTimes (s : State) : List Nat := readTimes s.usedLanes s.usedReaders

/-- The link receiver with the readers of its first `n` lanes changed by `f`. -/
def Link.onReaders (n : Nat) (f : Nat → LaneReader → LaneReader) (l : Link) : Link :=
  { l with readers := l.readers.mapIdx (fun i x => if i < n then f i x else x) }

/-- The state with the readers of the lanes in use changed by `f`. -/
def onReaders (f : Nat → LaneReader → LaneReader) (s : State) : State := s.withLink (s.link.onReaders s.lanesInUse f)

/-- A packet is lost with report `k` and detail `d`: the open frame is poisoned, and every lane looks for an idle word (R125,
R126, R131). -/
def losePacket (k : FaultKind) (d : Nat) (s : State) : State :=
  poison 5 (report .link k d (onReaders (fun _ => LaneReader.resync) s))

/-- A FRAME_START or FRAME_END of wrong length is treated as a lost packet of kind code `k` (R127). That its lanes then look
for an idle word, as after any loss, is DEDUCED (log 14). -/
def wrongLength (k : Nat) (s : State) : State := losePacket .lineLength (256 * k) s

/-- The first field of a FRAME_START that mismatches the input settings: 1 format, 2 width, 3 height (R128). -/
def formatMismatch (st : Settings) (format width height : Nat) : Option Nat :=
  if format ≠ st.inFormat then some 1
  else if width ≠ st.inWidth then some 2
  else if height ≠ st.inHeight then some 3
  else none

/-- A FRAME_START ends any open frame, truncated unless it was poisoned already; its slot passes on (R128). -/
def endByFrameStart (s : State) : State :=
  match s.link.openFrame with
  | some f => endPoisonedKeepSlot (poisonFrame 7 f) s
  | none => s

/-- The slot an ended frame leaves to the next (R128). -/
def passedSlot (l : Link) : Option Nat := l.openFrame.bind (fun f => f.slot)

/-- A FRAME_START of correct length is read (R128, R138, R139). -/
def openNewFrame (content : ContentNo) (format width height : Nat) (s : State) : State :=
  let passed := passedSlot s.link
  let t := endByFrameStart s
  let bad := formatMismatch s.settings format width height
  let t' := match bad with
    | some field => report .link .formatMismatch field t
    | none => t
  match passed with
  | some i =>
    let u := t'.withStore (t'.store.setSlot i (fillingSlot content))
    let f : OpenFrame := { content := content, slot := some i, nextLine := 0, poison := bad.map (fun _ => 1) }
    u.withLink { u.link with openFrame := some f }
  | none =>
    match bad with
    | some _ =>
      let f : OpenFrame := { content := content, slot := none, nextLine := 0, poison := some 1 }
      t'.withLink { t'.link with openFrame := some f }
    | none =>
      let r := requestSlot content t'
      let f : OpenFrame := { content := content, slot := r.1, nextLine := 0, poison := none }
      r.2.withLink { r.2.link with openFrame := some f }

/-- The body of a FRAME_START packet (R127, R128). -/
def readFrameStart (payload : List Byte) (s : State) : State :=
  match payload with
  | [c1, c0, f, w1, w0, h1, h0] =>
      restartTimer (openNewFrame (join16 c1 c0) f.toNat (join16 w1 w0).toNat (join16 h1 h0).toNat s)
  | _ => wrongLength 1 s

/-- The pixels of a LINE payload (R127, R130). -/
def linePixels (format : Nat) (payload : List Byte) : List Rgb :=
  let bytes := (payload.drop 2).take (payload.length - 4)
  if format = 1 then pixels8 bytes else pixels10 bytes

/-- The CRC of a LINE payload matches (R129). -/
def lineCrcMatches (payload : List Byte) : Bool :=
  lineCrc (payload.take (payload.length - 2)) == BitVec.ofNat 16 (beValue (payload.drop (payload.length - 2)))

/-- The line number of a LINE payload. -/
def lineNumber (payload : List Byte) : Nat := beValue (payload.take 2)

/-- Address `a` is one of the first `count` pixels of a line of a slot. -/
def lineHolds (slot line count a : Nat) : Bool :=
  decide (pixelAddress slot line 0 ≤ a ∧ a < pixelAddress slot line count)

/-- The open frame with a line of it written, when it is not poisoned (R129, R130); the words written are formed afresh, so
an error among them is gone (R149). -/
def writeLine (f : OpenFrame) (pixels : List Rgb) (s : State) : State :=
  let t := s.withLink { s.link with openFrame := some { f with nextLine := f.nextLine + 1 } }
  match f.slot with
  | some i => t.withStore { t.store with
      memory := memWriteLine i f.nextLine 0 pixels t.store.memory
      errors := t.store.errors.filter (fun a => !(lineHolds i f.nextLine pixels.length a)) }
  | none => t

/-- A LINE packet read while frame `f` is open (R129). -/
def checkLine (f : OpenFrame) (payload : List Byte) (s : State) : State :=
  if payload.length ≠ lineLength s.settings.inFormat s.settings.inWidth then
    poison 3 (report .link .lineLength (payload.length % 65536) s)
  else if lineCrcMatches payload = false then poison 2 (report .link .lineCheck (lineNumber payload) s)
  else if f.poison.isSome then s
  else if lineNumber payload ≠ f.nextLine ∨ s.settings.inHeight ≤ f.nextLine then poison 4 s
  else writeLine f (linePixels s.settings.inFormat payload) s

/-- The body of a LINE packet: discarded with no frame open (R129, R133). -/
def readLine (payload : List Byte) (s : State) : State :=
  restartTimer (match s.link.openFrame with
    | some f => checkLine f payload s
    | none => s)

/-- A clean completion: the flag and the run count, and the slot goes to the frame store (R132, R135, R140). -/
def completeClean (f : OpenFrame) (s : State) : State :=
  let t := s.withLink { s.link with openFrame := none, cleanFlag := true, cleanRun := satInc 255 s.link.cleanRun }
  match f.slot with
  | some i => handOver i f.content t
  | none => t

/-- A FRAME_END of correct length read while frame `f` is open (R132, R133). -/
def endFrame (f : OpenFrame) (count : Nat) (s : State) : State :=
  if f.poison.isSome then endPoisoned f s
  else if count = s.settings.inHeight ∧ f.nextLine = s.settings.inHeight then completeClean f s
  else endPoisoned (poisonFrame 6 f) s

/-- The body of a FRAME_END packet (R127, R132, R133). -/
def readFrameEnd (payload : List Byte) (s : State) : State :=
  match payload with
  | [c1, c0] =>
    restartTimer (match s.link.openFrame with
      | some f => endFrame f (join16 c1 c0).toNat s
      | none => s)
  | _ => wrongLength 3 s

/-- A packet is read by its kind (R127). -/
def readPacket (p : Packet) (s : State) : State :=
  if p.kind = 1 then readFrameStart p.payload s
  else if p.kind = 2 then readLine p.payload s
  else if p.kind = 3 then readFrameEnd p.payload s
  else restartTimer s

/-! ## Reading the lanes (R125, R126) -/

/-- Lane `i` in use reads its next word, and a corrected start that it marks is reported (R125). -/
def readWord (i : Nat) (s : State) : State :=
  let t := onReaders (fun j x => if j = i then x.readWord else x) s
  reportIf ((t.usedReaders.getD i freshReader).mark == some .corrected) .link .laneCorrected i t

/-- The lanes are read on: words are read, and packets lost or read, until the words held give no more (R125 to R127). Each of
these is a moment of its own, whose reports the fault unit takes before the next (R184). -/
def readLanes : Nat → State → State
  | 0, s => s
  | fuel + 1, s =>
    match gather s.usedTimes s.usedReaders with
    | .waiting => s
    | .reads lane => readLanes fuel (takeReports (readWord lane s))
    | .badStart lane => readLanes fuel (takeReports (losePacket .laneUncorrectable lane s))
    | .skew lane => readLanes fuel (takeReports (losePacket .laneSkew lane s))
    | .whole p => readLanes fuel (takeReports
        (readPacket p (onReaders (fun _ => LaneReader.resume (packetWordCount s.lanesInUse p)) s)))

/-- The words that the lanes in use hold. -/
def State.wordsHeld (s : State) : Nat := (s.usedReaders.map (fun x => x.words.length)).sum

/-- The lanes in use are read on through the words that they hold. A word read uses up the word and may leave a mark, and a
packet or a loss uses up a mark. -/
def readOn (s : State) : State := readLanes (2 * s.wordsHeld + s.lanesInUse + 1) s

/-- The lanes in use receive the words `words` and are read on (R125, R126). -/
def takeWords (words : List (List LaneWord)) (s : State) : State :=
  if s.reads && words.length == s.lanesInUse then
    readOn (onReaders (fun i x => x.bring (words.getD i [])) s)
  else s

/-- The link comes UP: the data that each lane has held since its sync is read as lane words from there, and each lane hunts
(R123, R125). -/
def linkUp (s : State) : State :=
  readOn (s.withLink { s.link with
    state := .up, inputTimer := s.timerNow, lanes := s.link.lanes.map Lane.released
    readers := s.link.lanes.map readerOf })

/-- TRAINING_DECISION: once every lane in use has recognised its sync, the three tests bring the link UP, where the data held
is read, or report TRAINING_FAIL (R123). -/
def execTrainingDecision (s : State) : Host.Outcome State Fault Refusal :=
  finish (if s.working && s.link.state == .training && allSynced s.usedLanes then
      (match trainingFailure s.settings.trainingThreshold s.usedLanes with
       | some (t, lane) => report .link .trainingFail (256 * t + lane) (s.withLink { s.link with state := .down })
       | none => linkUp s)
    else s)

/-- PACKET_LOST: the lanes read words, among them a bad start (R125). -/
def execPacketLost (words : List (List LaneWord)) (s : State) : Host.Outcome State Fault Refusal :=
  finish (takeWords words s)

/-- LANE_SKEW: the lanes read words whose marks lie more than 8 lane bytes apart (R126). -/
def execLaneSkew (words : List (List LaneWord)) (s : State) : Host.Outcome State Fault Refusal :=
  finish (takeWords words s)

/-- FRAME_START_PACKET (R128). -/
def execFrameStartPacket (heads : List (List LaneWord)) (payload : List Byte) (s : State) :
    Host.Outcome State Fault Refusal :=
  finish (takeWords (packetWords s.usedReaders heads 1 payload) s)

/-- LINE_PACKET (R129). -/
def execLinePacket (heads : List (List LaneWord)) (payload : List Byte) (s : State) : Host.Outcome State Fault Refusal :=
  finish (takeWords (packetWords s.usedReaders heads 2 payload) s)

/-- FRAME_END_PACKET (R132). -/
def execFrameEndPacket (heads : List (List LaneWord)) (payload : List Byte) (s : State) :
    Host.Outcome State Fault Refusal :=
  finish (takeWords (packetWords s.usedReaders heads 3 payload) s)

/-- OTHER_PACKET: read to its end by its length and skipped; it restarts the input timer (R124, R127). -/
def execOtherPacket (heads : List (List LaneWord)) (kind : Byte) (payload : List Byte) (s : State) :
    Host.Outcome State Fault Refusal :=
  finish (takeWords (packetWords s.usedReaders heads kind payload) s)

/-- STRAY_LINE_PACKET: a LINE or a FRAME_END read with no frame open is discarded (R133). -/
def execStrayLinePacket (heads : List (List LaneWord)) (frameEnd : Bool) (payload : List Byte) (s : State) :
    Host.Outcome State Fault Refusal :=
  finish (takeWords (packetWords s.usedReaders heads (if frameEnd then 3 else 2) payload) s)

/-! ## Input health (R134, R135) -/

/-- The miss count and the cleared flag of a frame start (R134). -/
def missStep (l : Link) : Link :=
  { l with miss := if l.cleanFlag then 0 else satInc 255 l.miss, cleanFlag := false }

/-- The report detail of a fall of health: 1 the link is not UP, 2 the misses; 0 when GOOD health does not fall (R135). -/
def healthFall (hold : Nat) (l : Link) : Nat :=
  if l.state ≠ .up then 1 else if hold ≤ l.miss then 2 else 0

/-- Input health at a frame start (R134, then R135). -/
def inputHealthStep (s : State) : State :=
  let l := missStep s.link
  let l' := if s.settings.holdLimit ≤ l.miss then { l with cleanRun := 0 } else l
  match l'.health with
  | .good =>
    let d := healthFall s.settings.holdLimit l'
    if d = 0 then s.withLink l'
    else report .link .inputFailed d (s.withLink { l' with health := .failed, cleanRun := 0 })
  | .failed =>
    if l'.state = .up ∧ l'.miss < s.settings.holdLimit ∧ s.settings.rejoin ≤ l'.cleanRun then
      s.withLink { l' with health := .good }
    else s.withLink l'

/-- The held-valid flag: the held value is present and input health is GOOD (R142). -/
def State.heldValid (s : State) : Bool := s.store.heldValue.isSome && s.link.health == .good

/-- The link receiver on entry to HALTED: DOWN, the open frame abandoned without report, health FAILED (R119), and the run
count at 0 when the link was UP (R135). -/
def haltLink (l : Link) : Link :=
  { l with
    state := .down, openFrame := none, health := .failed, settleTimer := none, inputTimer := none
    cleanRun := if l.state = .up then 0 else l.cleanRun }

end Sys2Proof.Machine
end

