-- ==== Sys2Proof/Machine/LightMonitor.lean ====
section
/-!
DEFINITION. Machine/LightMonitor.lean: the light monitor: samples and cycles (R164, R165), the estimate (R166 to R168), the
light state (R169), the announced factor and the LIGHT request (R170, R171), and the meaning of LIGHT_SAMPLE.
-/
namespace Sys2Proof.Machine

/-- The measured factor of a valid cycle (R167). -/
def measuredFactor (sOn sOff sCal : Nat) : Nat :=
  if sOff < sOn then min 65535 (roundDiv (16384 * (sOn - sOff)) sCal) else 0

/-- The filtered factor after a valid cycle (R168). -/
def filterFactor (hadValid : Bool) (filtered measured : Nat) : Nat :=
  if hadValid then ((filtered : Int) + truncDiv ((measured : Int) - filtered) 16).toNat else measured

/-- The lit threshold (R169). -/
def litThreshold (lamOut : Nat) : Nat := lamOut + lamOut / 8

/-- The light state and out count after a valid cycle (R169). -/
def nextLightState (lamOut filtered : Nat) (st : LightState) (outCount : Nat) : LightState × Nat :=
  match st with
  | .unknown | .out => (if litThreshold lamOut ≤ filtered then .lit else .out, 0)
  | .lit => if filtered < lamOut then (if 3 ≤ outCount then (.out, 0) else (.lit, outCount + 1)) else (.lit, 0)

/-- The fall of a LIT station to OUT, which is reported (R169). -/
def lightFalls (lamOut filtered : Nat) (st : LightState) (outCount : Nat) : Bool :=
  st == .lit && decide (filtered < lamOut) && decide (3 ≤ outCount)

/-- A valid cycle formed in frame `n`, which its report names (R167 to R169, R184). -/
def validCycle (sOn sOff : Nat) (n : FrameNo) (s : State) : State :=
  let x := s.light
  let m := measuredFactor sOn sOff s.settings.sCal
  let f := filterFactor x.hadValid x.filtered m
  let r := nextLightState s.settings.lamOut f x.state x.outCount
  let t := s.withLight { x with measured := m, filtered := f, hadValid := true, state := r.1, outCount := r.2 }
  if lightFalls s.settings.lamOut f x.state x.outCount then reportIn n .light .lightOut f t else t

/-- The detail of SENSOR_SAT: 1 for the on-sample, 2 for the off-sample, 3 for both; 0 when neither is at 4095 (R166). -/
def saturation (sOn sOff : Nat) : Nat := (if sOn = 4095 then 1 else 0) + (if sOff = 4095 then 2 else 0)

/-- A cycle formed in frame `n`, which its report names (R165 to R169, R184). -/
def formCycle (sOn sOff : Nat) (n : FrameNo) (s : State) : State :=
  let t := s.withLight { s.light with held := none, cycle := some { on := sOn, off := sOff, frame := n } }
  if saturation sOn sOff = 0 then validCycle sOn sOff n t
  else reportIn n .light .sensorSat (saturation sOn sOff) t

/-- A sample of value `v` in frame `n`: an on-sample in the last ON frame, an off-sample in the last OFF frame of the
patch cycle (R164, R165). -/
def takeSample (v : Nat) (n : FrameNo) (s : State) : State :=
  if n.toNat % 8 = 3 then s.withLight { s.light with held := some { value := v, frame := n } }
  else if n.toNat % 8 = 7 then
    match s.light.held with
    | some h => if h.frame = n - 4 then formCycle h.value v n s else s.withLight { s.light with held := none }
    | none => s
  else s

/-- LIGHT_SAMPLE: one conversion at the patch line (R164). With patch line 0 the sample falls with a frame start; taken
ahead of it, it belongs to the frame that the frame start begins, whose number is then the new one (R164, R165). A frame that
a jump ends before the patch line gives no sample. -/
def execLightSample (value : BitVec 12) (ahead : Bool) (s : State) : Host.Outcome State Fault Refusal :=
  finish (if s.working then
      (if ahead && s.settings.patchLine == 0 then takeSample value.toNat (nextFrameNo s.line) s
       else if reached s.line 0 s.settings.patchLine then takeSample value.toNat s.line.frameNo s
       else s)
    else s)

/-- The spacing count of a frame start (R170). -/
def spacingStep (s : State) : State := s.withLight { s.light with spacing := satInc 65535 s.light.spacing }

/-- A setting of the announced factor (R170). -/
def setAnnounced (lam : Nat) (s : State) : State := s.withLight { s.light with announced := lam, spacing := 0 }

/-- The absolute difference of the filtered and the announced factor (R171). -/
def LightMonitor.driftNow (x : LightMonitor) : Nat := ((x.filtered : Int) - x.announced).natAbs

/-- The LIGHT request of a frame start in LIVE (R171, R50). -/
def lightRequestStep (s : State) : State :=
  if s.ctl.condition = .live ∧ s.settings.drift ≤ s.light.driftNow ∧ 256 ≤ s.light.spacing ∧ s.port.light = [] then
    let t := enqueue (.light s.leadEpoch (field16 s.light.filtered)) s
    t.withLight { t.light with spacing := 0 }
  else s

/-- The light monitor on entry to HALTED (R172). -/
def haltLight (x : LightMonitor) : LightMonitor := { x with held := none }

end Sys2Proof.Machine
end

