-- ==== Sys2Proof/Machine/PixelPath.lean ====
section
/-!
DEFINITION. Machine/PixelPath.lean: the frame setup (R151) and, as functions of the state, what the pixel path draws: the
source point (R153, R154), the sampling (R155, R156), the override in force (R157), the drive and the codes (R157 to R162,
R18 to R22), the items of the projector link (R163), the reads of the SHOWING slot, and the meaning of MEMORY_ECC (R149).
-/
namespace Sys2Proof.Machine

/-- The patch phase of a frame is ON for numbers 0 to 3 modulo 8 (R151). -/
def patchOn (n : FrameNo) : Bool := decide (n.toNat % 8 < 4)

/-- The frame setup of the frame that begins (R151). -/
def frameSetup (s : State) : Setup :=
  { frame := s.line.frameNo, patchOn := patchOn s.line.frameNo, identify := s.agr.onFrame
    condition := s.ctl.condition, bank := s.sol.activeNo, m := s.agr.fade.m, source := s.store.showing }

/-- The coefficients of bank `b`. -/
def Solver.bankNo (x : Solver) (b : Nat) : Bank := if b = 0 then x.bank0 else x.bank1

/-- K of node (c, r) in bank `b`; a node past the list holds zero (R73). -/
def nodeK (s : State) (b c r : Nat) : Nat := (nodeAt s.settings.width (s.sol.bankNo b).coeffs ⟨0, 0⟩ c r).k

/-- A of node (c, r) in bank `b`. -/
def nodeA (s : State) (b c r : Nat) : Nat := (nodeAt s.settings.width (s.sol.bankNo b).coeffs ⟨0, 0⟩ c r).a

/-- σ0 of node (c, r). -/
def nodeShare (s : State) (c r : Nat) : Nat := (nodeAt s.settings.width s.pix.grid ⟨0, 0, 0, []⟩ c r).share

/-- The source column position of an output pixel, in eighths (R153). -/
def sourceX (s : State) (x y : Nat) : Int :=
  blendSigned (fun c r => (nodeAt s.settings.width s.pix.mesh ⟨0, 0⟩ c r).sx) x y

/-- The source line position of an output pixel, in eighths (R153). -/
def sourceY (s : State) (x y : Nat) : Int :=
  blendSigned (fun c r => (nodeAt s.settings.width s.pix.mesh ⟨0, 0⟩ c r).sy) x y

/-- A source pixel lies in the source frame (R154). -/
def insideSource (st : Settings) (column line : Int) : Bool :=
  decide (0 ≤ column ∧ column < st.inWidth ∧ 0 ≤ line ∧ line < st.inHeight)

/-- The linear values of a code triple by the input tables (R155). -/
def linearOf (p : PixelPath) (c : Rgb) : Rgb :=
  ⟨p.inputRed.getD c.red 0, p.inputGreen.getD c.green 0, p.inputBlue.getD c.blue 0⟩

/-- The linear values of one neighbour: zero outside the source frame, with no source, or where the read was uncorrectable
(R148, R149, R154, R155). -/
def neighbour (s : State) (source : Option Nat) (column line : Int) : Rgb :=
  match source with
  | none => ⟨0, 0, 0⟩
  | some slot =>
    if insideSource s.settings column line && !(s.store.errors.contains (pixelAddress slot line.toNat column.toNat)) then
      linearOf s.pix (memRead s.store.memory (pixelAddress slot line.toNat column.toNat))
    else ⟨0, 0, 0⟩

/-- The weighted blend of four values over 64, rounded half up (R156). -/
def blend64 (gx gy ul ur ll lr : Nat) : Nat :=
  roundDiv ((8 - gx) * (8 - gy) * ul + gx * (8 - gy) * ur + (8 - gx) * gy * ll + gx * gy * lr) 64

/-- The linear picture values of an output pixel (R154 to R156). -/
def pixelLinear (s : State) (source : Option Nat) (x y : Nat) : Rgb :=
  let px := sourceX s x y
  let py := sourceY s x y
  let ix := px.fdiv 8
  let iy := py.fdiv 8
  let gx := (px - 8 * ix).toNat
  let gy := (py - 8 * iy).toNat
  let ul := neighbour s source ix iy
  let ur := neighbour s source (ix + 1) iy
  let ll := neighbour s source ix (iy + 1)
  let lr := neighbour s source (ix + 1) (iy + 1)
  ⟨blend64 gx gy ul.red ur.red ll.red lr.red, blend64 gx gy ul.green ur.green ll.green lr.green,
   blend64 gx gy ul.blue ur.blue ll.blue lr.blue⟩

/-- The pixel lies in the patch rectangle (R159). -/
def inPatch (st : Settings) (x y : Nat) : Bool :=
  decide (st.patchLeft ≤ x ∧ x < st.patchLeft + st.patchWidth ∧ st.patchTop ≤ y ∧ y < st.patchTop + st.patchHeight)

/-- The drives of the three colours of an active pixel under setup `f`, cases 2 to 5 of R157 (R159 to R162). -/
def pixelDrive (s : State) (f : Setup) (x y : Nat) : Rgb :=
  if inPatch s.settings x y then (if f.patchOn then ⟨32768, 32768, 32768⟩ else ⟨0, 0, 0⟩)
  else if f.identify then
    let d := roundDiv (blend (nodeShare s) x y) 2
    ⟨d, d, d⟩
  else if f.condition ≠ .live then ⟨0, 0, 0⟩
  else
    let k := blend (nodeK s f.bank) x y
    let a := blend (nodeA s f.bank) x y
    let l := pixelLinear s f.source x y
    ⟨driveOf k a f.m l.red, driveOf k a f.m l.green, driveOf k a f.m l.blue⟩

/-- The codes of active pixel (x, y) under setup `f`: its drives through the output table (R21, R22, R157). -/
def setupCodes (s : State) (f : Setup) (x y : Nat) : Rgb :=
  let d := pixelDrive s f x y
  ⟨outputCode s.pix.output d.red, outputCode s.pix.output d.green, outputCode s.pix.output d.blue⟩

/-- The codes the projector link carries for active pixel (x, y): raw code 0 in START and HALTED and before the first frame
setup (R157, R158), and otherwise those of the frame setup in force. -/
def pixelCodes (s : State) (x y : Nat) : Rgb :=
  match s.working, s.pix.setup with
  | true, some f => setupCodes s f x y
  | _, _ => ⟨0, 0, 0⟩

/-- The codes that active pixel (x, y) has in the frame in progress. Where a halt cut the frame, a pixel begun before the halt was
sent under the setup that the halt set aside, and only the rest is raw code 0 (R158). -/
def sentCodes (s : State) (x y : Nat) : Rgb :=
  match s.line.haltPlace, s.pix.aside with
  | some n, some f =>
    if !s.working && decide (y * s.line.raster.hTotal + x < n) then setupCodes s f x y else pixelCodes s x y
  | _, _ => pixelCodes s x y

/-- The order number of the override in force (R157, R190), that of the pixels outside the patch, and 1 in JOINING until the first
frame start too (DESIGN CHOICE, log 33). -/
def overrideInForce (s : State) : Nat :=
  match s.working, s.pix.setup with
  | true, some f => if f.identify then 3 else if f.condition ≠ .live then 4 else 5
  | _, _ => 1

/-- What the projector link sends (R163). -/
inductive LinkItem where
  | frameMarker
  | lineMarker (line : Nat)
  | pixel (codes : Rgb)
  deriving DecidableEq, Repr

/-- The items of raster line `y`: its marker, and pixel words on an active line, as far as the walk reaches (R152, R163). -/
def lineItems (s : State) (y : Nat) : List LinkItem :=
  if reached s.line 0 y then
    .lineMarker y :: (if y < s.line.raster.height then
      ((List.range s.line.raster.width).filter (fun x => reached s.line x y)).map (fun x => .pixel (sentCodes s x y))
      else [])
  else []

/-- The items of the frame in progress, from its frame marker to its end; none before the first frame start after START
(R94, R158, R163). The frame marker and the marker of line 0 fall at one moment, and no rule orders them: the frame marker is sent
first (DESIGN CHOICE, log 30). -/
def frameItems (s : State) : List LinkItem :=
  if s.line.running && !s.line.firstDue then
    .frameMarker :: (List.range s.line.raster.vTotal).flatMap (lineItems s)
  else []

/-! ## Reads of the SHOWING slot (R148, R149, R154, R155, R157) -/

/-- The source pixels that active pixel (x, y) reads under setup `f`, as (line, column): the neighbours inside the source
frame that carry a weight (R155), and none where a case before the last of R157 applies. The order of the neighbours, upper left,
upper right, lower left, lower right, is the model's (DESIGN CHOICE, log 20). -/
def pixelReads (s : State) (f : Setup) (x y : Nat) : List (Nat × Nat) :=
  if inPatch s.settings x y || f.identify || !(f.condition == .live) || f.source.isNone then []
  else
    let px := sourceX s x y
    let py := sourceY s x y
    let ix := px.fdiv 8
    let iy := py.fdiv 8
    let near : List (Int × Int) :=
      [(ix, iy)] ++ (if px = 8 * ix then [] else [(ix + 1, iy)]) ++ (if py = 8 * iy then [] else [(ix, iy + 1)])
        ++ (if px = 8 * ix ∨ py = 8 * iy then [] else [(ix + 1, iy + 1)])
    (near.filter (fun p => insideSource s.settings p.1 p.2)).map (fun p => (p.2.toNat, p.1.toNat))

/-- The source pixels that the frame in progress reads under setup `f`, in the order of the walk (R152). -/
def frameReads (s : State) (f : Setup) : List (Nat × Nat) :=
  (List.range s.line.raster.height).flatMap (fun y =>
    ((List.range s.line.raster.width).filter (fun x => reached s.line x y)).flatMap (fun x => pixelReads s f x y))

/-- A read of source pixel `p` from the slot of setup `f` cannot be corrected (R149). -/
def readFails (s : State) (f : Setup) (p : Nat × Nat) : Bool :=
  match f.source with
  | some slot => s.store.errors.contains (pixelAddress slot p.1 p.2)
  | none => false

/-- The first read of the frame in progress that cannot be corrected (R149). -/
def firstFailed (s : State) (f : Setup) : Option (Nat × Nat) :=
  if s.store.errors = [] then none else (frameReads s f).find? (readFails s f)

/-- The frame in progress makes its MEMORY_ECC report, with the line of its first uncorrectable read, when it has one and has
not made it (R149). -/
def eccReport (s : State) : State :=
  match s.store.eccReported, s.pix.setup.bind (firstFailed s) with
  | false, some p => report .store .memoryEcc p.1 (s.withStore { s.store with eccReported := true })
  | _, _ => s

/-- The frame in progress ends: its walk has made its reads, and an error known before them is reported in it (R149). No row
brings the moments of a frame's reads, so the report comes here unless a MEMORY_ECC of the frame brings it (DESIGN CHOICE,
log 20). -/
def endFrameReads (s : State) : State := takeReports (eccReport s)

/-- The pixel path takes the frame setup, and the frame's MEMORY_ECC report is open (R149, R151). -/
def setupStep (s : State) : State :=
  (s.withPix { s.pix with setup := some (frameSetup s) }).withStore { s.store with eccReported := false }

/-- The error is found in the frame memory: the pixel takes L = 0 in this frame and in each later one until the receiver
writes the word afresh (R149, R155). -/
def Store.withError (x : Store) (a : Nat) : Store :=
  { x with errors := if x.errors.contains a then x.errors else x.errors ++ [a] }

/-- MEMORY_ECC: a read of the SHOWING slot that the frame in progress makes finds an error it cannot correct, and the frame
makes its report, which names the line of its first such read (R149, R157). -/
def execMemoryEcc (line column : Nat) (s : State) : Host.Outcome State Fault Refusal :=
  finish (match s.pix.setup with
    | some f =>
      match f.source with
      | some slot =>
        if s.working && (frameReads s f).contains (line, column) then
          eccReport (s.withStore (s.store.withError (pixelAddress slot line column)))
        else s
      | none => s
    | none => s)

/-- The pixel path on entry to HALTED: the frame setup in force is set aside (R158). -/
def haltPix (x : PixelPath) : PixelPath := { x with setup := none, aside := x.setup }

end Sys2Proof.Machine
end

