-- ==== Sys2Proof/Machine/Station.lean ====
section
/-!
DEFINITION. Machine/Station.lean: the station controller: counts (R25, R30, R37), announcements (R26 to R28), entry to HALTED
(R32) and entry to JOINING (R24); and FRAME_START, which runs every frame-keyed rule in the order of log 8.
-/
namespace Sys2Proof.Machine

/-! ## Counts -/

/-- The last measurement counts as aligned (R25). -/
def alignedNow (s : State) : Bool :=
  (s.line.lock == .pulling || s.line.lock == .locked) &&
    (match s.line.last.e with
     | some e => decide (e.natAbs ≤ s.settings.lockWindow)
     | none => false)

/-- The listen, aligned and self-silence counts of a frame start (R25, R37). -/
def countStep (s : State) : State :=
  s.withCtl { s.ctl with
    listen := if s.ctl.condition = .joining ∧ s.port.state = .active then satInc 65535 s.ctl.listen else s.ctl.listen
    aligned := if alignedNow s then satInc 65535 s.ctl.aligned else 0
    selfSilence := satInc 65535 s.ctl.selfSilence }

/-- The dwell count of a frame start in DARK, after the moves of R29 (R30). -/
def dwellStep (s : State) : State :=
  if s.ctl.condition = .dark then s.withCtl { s.ctl with dwell := satInc 65535 s.ctl.dwell } else s

/-! ## Announcements -/

/-- The station has heard long enough (R26). -/
def timeHeard (s : State) : Bool :=
  if s.ctl.condition = .joining then decide (max (2 * s.settings.silenceTimeout) 32 ≤ s.ctl.listen)
  else decide (64 ≤ s.ctl.dwell)

/-- Every condition of the LIVE announcement holds (R26). -/
def mayAnnounce (s : State) : Bool :=
  (s.ctl.condition == .joining || s.ctl.condition == .dark) && decide (8 ≤ s.ctl.aligned)
    && s.link.health == .good && s.light.state == .lit && timeHeard s && s.port.state == .active
    && !(s.port.changeStands s.own) && !(s.agr.statePending s.own)

/-- The LIVE announcement (R26); when the CHANGE queue takes it, the light monitor takes its factor (R170). -/
def announceLive (s : State) : State :=
  let t := enqueue (.change true .join (BitVec.ofNat 8 s.own) s.leadEpoch (field16 s.light.filtered)) s
  if s.port.takesChange then setAnnounced s.light.filtered t else t

/-- Input health is FAILED or the light state is OUT (R27, R28). -/
def departCause (s : State) : Bool := s.link.health == .failed || s.light.state == .out

/-- The own DARK change with its reason, INPUT before LIGHT (R27, R28). -/
def queueOwnDark (s : State) : State :=
  enqueue (.change false (if s.link.health = .failed then .input else .light) (BitVec.ofNat 8 s.own) s.leadEpoch 0) s

/-- The announcement is withdrawn (R27). -/
def mayWithdraw (s : State) : Bool :=
  (s.ctl.condition == .joining || s.ctl.condition == .dark) && s.agr.statePendingAs s.own true && departCause s
    && !(s.port.changeStands s.own)

/-- A LIVE station departs (R28). -/
def mayDepart (s : State) : Bool :=
  s.ctl.condition == .live && departCause s && !(s.agr.statePendingAs s.own false)
    && !(s.port.change.any (darkChangeAbout s.own))

/-- The station controller's own change at a frame start (R26 to R28). -/
def announceStep (s : State) : State :=
  if mayAnnounce s then announceLive s
  else if mayWithdraw s || mayDepart s then queueOwnDark s
  else s

/-! ## Entry to HALTED and to JOINING -/

/-- The peer bus port on entry to HALTED: its queues are empty, and it is DISABLED once no attempt is on the bus (R117). -/
def haltPort (p : Port) : Port :=
  { p with
    change := [], pulse := [], light := [], bounds := [], levels := []
    state := if p.attempt.isSome then p.state else .disabled
    joined := p.attempt.isSome && p.joined }

/-- The place at which a halt now cuts the frame in progress, when there is one: the halt comes at the stamp counter's value, and
a raster position that begins at that stamp is the next one sent (R158; DESIGN CHOICE, log 30). -/
def haltPlaceNow (l : FrameLine) : Option Nat :=
  if l.running && !l.firstDue then some (positionsBefore l l.stamp) else none

/-- The frame line unit on entry to HALTED: the line is released (R84, R88), and the walk goes on from its place (R158). -/
def haltLine (l : FrameLine) : FrameLine := { l with pulling := false, haltPlace := haltPlaceNow l }

/-- Entry to HALTED (R32), as each block's rule states (R84, R88, R117, R119, R139, R150, R158, R172, R78). -/
def enterHalted (s : State) : State :=
  { s with
    ctl := { s.ctl with condition := .halted }
    port := haltPort s.port
    line := haltLine s.line
    sol := haltSolver s.sol
    link := haltLink s.link
    store := haltStore s.store
    light := haltLight s.light
    pix := haltPix s.pix }

/-- The raster timer starts with raster `r` as the station leaves START; its first frame start comes at once (R80, R81). -/
def startRaster (r : Raster) (s : State) : State :=
  s.withLine { s.line with running := true, raster := r, firstDue := true, target := none }

/-- Entry to JOINING (R24, R33, R38, R47, R51, R56, R57, R61, R62, R98, R106). -/
def enterJoining (s : State) : State :=
  { s with
    ctl := { condition := .joining, listen := 0, dwell := 0, aligned := 0, selfSilence := 0 }
    agr := resetAgreement s.own
    port := { s.port with state := .active, joined := false } }

/-! ## FRAME_START -/

/-- The view of a frame start before the records due: rebuilt in JOINING (R45), compared with the PULSEs otherwise (R46). -/
def viewStep (joining : Bool) (old : FrameNo) (s : State) : State :=
  if joining then s.withAgr { s.agr with live := rebuiltView s } else repairCompare old s

/-- The fades and identify of a frame start (R56, R58, R63, R64). -/
def showStep (old : FrameNo) (s : State) : State :=
  s.withAgr (identifyFrameStart s.current (fadeFrameStart old s.current s.agr))

/-- The counts of a frame start, which every later rule of it reads: port (R109), input health (R134, R135), spacing
(R170), silence (R35), listen, aligned and self-silence (R25, R37). -/
def frameCounts (s : State) : State := countStep (silenceStep (spacingStep (inputHealthStep (portFrameStart s))))

/-- The agreement part of a frame start: the view (R45, R46), the late swap (R75), the records due (R44), the repairs
(R46), the sources (R48), the dwell count (R30), and the show state (R56, R58, R63, R64). -/
def frameAgreement (joining : Bool) (old : FrameNo) (s : State) : State :=
  let repairs := if joining then [] else repairDue s
  let t := applyDue old (lateSwapStep (viewStep joining old s))
  let u := repairs.foldl repairPeer t
  let v := if joining then u else lightSourceStep u
  showStep old (dwellStep v)

/-- The changes a frame start queues or enters: the own change (R26 to R28), peer silence (R36), self-silence (R37), and
the LIGHT request (R171). Peer silence is examined in LIVE or DARK. -/
def frameChanges (s : State) : State :=
  let t := announceStep s
  let u := if t.ctl.condition = .joining then t else peerSilenceStep t
  lightRequestStep (selfSilenceStep u)

/-- The jobs of a frame start: bounds jobs (R52), cuts (R53, R76), and the solver's choice (R66). -/
def frameJobs (s : State) : State := startJobs (cutStep (queueBoundsJobs s))

/-- A frame start in JOINING, LIVE or DARK (R80; the order is that of log 8): the frame in progress ends (R149), and the next
begins. -/
def workingFrameStart (first : Stamp) (s : State) : State :=
  let joining := s.ctl.condition == .joining
  let old := s.line.frameNo
  let t := rasterFrameStart first (endFrameReads s)
  setupStep (selectContent (frameJobs (frameChanges (frameAgreement joining old (frameCounts t)))))

/-- FRAME_START: the raster timer runs in every condition but START (R80). -/
def execFrameStart (first : Stamp) (s : State) : Host.Outcome State Fault Refusal :=
  finish (if s.line.running = false then s
    else if s.working then workingFrameStart first s
    else if s.ctl.condition = .halted then haltedFrameStart first s
    else s)

/-- The PULSE's condition of a working station (R83). -/
def pulseConditionNow : Condition → PulseCondition
  | .live => .live
  | .dark => .dark
  | .joining | .start | .halted => .joining

/-- The PULSE of the send event (R83, R142). -/
def pulseBody (s : State) : Body :=
  .pulse (pulseConditionNow s.ctl.condition) s.line.driving s.heldValid s.line.frameNo (s.store.heldValue.getD 0)

/-- The LEVELS of the station's slot (R59). -/
def levelsBody (s : State) : Body :=
  .levels (field16 (((s.agr.peer s.own).factor.map (fun f => f.lam)).getD 16384)) (field16 s.agr.fade.m)
    (field16 s.agr.fade.target) (field16 s.agr.fade.remaining)

/-- What a working station queues at the send event: its PULSE, and in its slot its LEVELS (R59, R83). -/
def queuePeriodic (s : State) : State :=
  let u := enqueue (pulseBody s) s
  if s.line.frameNo.toNat % 16 = s.own then enqueue (levelsBody s) u else u

/-- SEND_EVENT: one in every frame, floor(Tf_nom ÷ 8) stamps after the frame start; in HALTED nothing is queued, and in START
there is no send event (R59, R83). -/
def execSendEvent (s : State) : Host.Outcome State Fault Refusal :=
  finish (if s.line.running && s.line.sendPending then
      (let t := s.withLine { s.line with
         stamp := s.line.startStamp + BitVec.ofNat 32 (s.tf / 8), sendPending := false }
       if s.working then queuePeriodic t else t)
    else s)

end Sys2Proof.Machine
end

