-- ==== Sys2Proof/Machine/Bus.lean ====
section
/-!
DEFINITION. Machine/Bus.lean: what the port takes from the bus: the clash check (R31, R110), the checks of R111, the hand-off
of an accepted message (R112), and the completion of an own message (R116).
-/
namespace Sys2Proof.Machine

/-! ## Handing a message to the agreement unit -/

/-- The sender's record has its heard flag set; a control node has no record (R33, R112). -/
def setHeard (sender : Nat) (s : State) : State := s.withAgr (s.agr.onPeer sender (fun r => { r with heard := true }))

/-- A message of `sender` is taken by the agreement unit, whether received or own (R112, R116). -/
def takeBody (sender : Nat) (b : Body) (s : State) : State :=
  match b with
  | .change live reason subject epoch lam => takeChangeMessage sender live reason subject.toNat epoch lam.toNat s
  | .light epoch lam => takeChange (.light { station := sender, lam := lam.toNat }) epoch s
  | .pulse condition driving heldValid frame held =>
      takePulse sender ⟨frame, held, heldValid, condition, driving, s.current⟩ s
  | .bounds epochLow floor ceiling => takeBounds sender ⟨epochLow, floor.toNat, ceiling.toNat⟩ s
  | .levels lam mNow target remaining =>
      takeLevels sender ⟨lam.toNat, mNow.toNat, target.toNat, remaining.toNat⟩ s
  | .fade start target duration => takeFade start target.toNat duration.toNat s
  | .identify start mask period on => takeIdentify start mask period.toNat on.toNat s
  | .identifyOff endFrame => takeIdentifyOff endFrame s

/-- A received PULSE is also considered for count adoption (R98, R112); other kinds are not. -/
def offerCount (b : Body) (s : State) : State :=
  match b with
  | .pulse condition driving heldValid frame held =>
      considerCount ⟨frame, held, heldValid, condition, driving, s.current⟩ s
  | .change .. | .light .. | .bounds .. | .levels .. | .fade .. | .identify .. | .identifyOff .. => s

/-- An accepted message: the heard flag, then the block that takes its kind (R112). -/
def acceptMessage (m : Message) (s : State) : State :=
  offerCount m.body (takeBody m.sender.toNat m.body (setHeard m.sender.toNat s))

/-! ## Receiving a frame -/

/-- A base-format data frame carries this station's number (R31, R110). -/
def clashes (own : Nat) (f : BusFrame) : Bool :=
  !f.extended && !f.remote && (idSender f.identifier).toNat == own

/-- The clash halts the station (R31). -/
def clashHalt (f : BusFrame) (s : State) : State :=
  enterHalted (report .controller .stationClash f.identifier.toNat s)

/-- The sender is a station outside the roster (R111). -/
def strayed (s : State) (m : Message) : Bool :=
  decide (m.sender.toNat < 12) && !(isMember s.settings.roster m.sender.toNat)

/-- The port takes frames: it is ACTIVE, takes part in the bus, and the station works (R31, R106, R110). -/
def takesFrames (s : State) : Bool := s.working && s.takesPart

/-- The port takes a valid frame that it did not send (R110 to R112). -/
def receiveFrame (f : BusFrame) (s : State) : State :=
  if !takesFrames s then s
  else if clashes s.own f then clashHalt f s
  else match frameMessage f with
    | none => report .port .foreignMessage f.identifier.toNat s
    | some m => if strayed s m then report .port .strayStation m.sender.toNat s else acceptMessage m s

/-- STATION_CLASH: a frame becomes valid that this port did not send (R31). -/
def execStationClash (frame : BusFrame) (s : State) : Host.Outcome State Fault Refusal := finish (receiveFrame frame s)

/-- FOREIGN_MESSAGE: a frame becomes valid that this port did not send (R111). -/
def execForeignMessage (frame : BusFrame) (s : State) : Host.Outcome State Fault Refusal :=
  finish (receiveFrame frame s)

/-- RECEIVE_CHANGE (R39). -/
def execReceiveChange (sender : BitVec 4) (live : Bool) (reason : Reason) (subject : BitVec 8) (epoch : FrameNo)
    (lam : BitVec 16) (s : State) : Host.Outcome State Fault Refusal :=
  finish (receiveFrame (messageFrame ⟨sender, .change live reason subject epoch lam⟩) s)

/-- RECEIVE_LIGHT (R50). -/
def execReceiveLight (sender : BitVec 4) (epoch : FrameNo) (lam : BitVec 16) (s : State) :
    Host.Outcome State Fault Refusal :=
  finish (receiveFrame (messageFrame ⟨sender, .light epoch lam⟩) s)

/-- RECEIVE_PULSE (R34). -/
def execReceivePulse (sender : BitVec 4) (condition : PulseCondition) (driving heldValid : Bool) (frame : FrameNo)
    (held : ContentNo) (s : State) : Host.Outcome State Fault Refusal :=
  finish (receiveFrame (messageFrame ⟨sender, .pulse condition driving heldValid frame held⟩) s)

/-- RECEIVE_BOUNDS (R54). -/
def execReceiveBounds (sender : BitVec 4) (epochLow : BitVec 16) (floor ceiling : BitVec 24) (s : State) :
    Host.Outcome State Fault Refusal :=
  finish (receiveFrame (messageFrame ⟨sender, .bounds epochLow floor ceiling⟩) s)

/-- RECEIVE_LEVELS (R60). -/
def execReceiveLevels (sender : BitVec 4) (lam mNow target remaining : BitVec 16) (s : State) :
    Host.Outcome State Fault Refusal :=
  finish (receiveFrame (messageFrame ⟨sender, .levels lam mNow target remaining⟩) s)

/-- SHOW_FADE (R57). -/
def execShowFade (sender : BitVec 4) (start : FrameNo) (target duration : BitVec 16) (s : State) :
    Host.Outcome State Fault Refusal :=
  finish (receiveFrame (messageFrame ⟨sender, .fade start target duration⟩) s)

/-- SHOW_IDENTIFY (R62). -/
def execShowIdentify (sender : BitVec 4) (start : FrameNo) (mask : BitVec 16) (period on : BitVec 8) (s : State) :
    Host.Outcome State Fault Refusal :=
  finish (receiveFrame (messageFrame ⟨sender, .identify start mask period on⟩) s)

/-- SHOW_IDENTIFY_OFF (R64). -/
def execShowIdentifyOff (sender : BitVec 4) (endFrame : FrameNo) (s : State) : Host.Outcome State Fault Refusal :=
  finish (receiveFrame (messageFrame ⟨sender, .identifyOff endFrame⟩) s)

/-! ## Completing an own message -/

/-- The further notices of an own completion (R34, R37, R116, R170): an own PULSE sets the self record's heard flag and
the self-silence count to 0, and an own LIGHT gives the light monitor its factor. -/
def ownNotice (b : Body) (s : State) : State :=
  match b with
  | .pulse .. => setHeard s.own (s.withCtl { s.ctl with selfSilence := 0 })
  | .light _ lam => setAnnounced lam.toNat s
  | .change .. | .bounds .. | .levels .. | .fade .. | .identify .. | .identifyOff .. => s

/-- The port after the message of its attempt became valid (R116). -/
def completedPort (p : Port) (b : Body) : Port := { p.dropHead b with attempt := none, failures := 0 }

/-- MESSAGE_COMPLETE: an own message becomes valid on the bus (R116); that of a halted station
sets the failure count to 0 and is handed to no block (R117). -/
def execMessageComplete (s : State) : Host.Outcome State Fault Refusal :=
  finish (match s.port.attempt with
    | none => s
    | some m =>
      if s.working then ownNotice m.body (takeBody s.own m.body (s.withPort (completedPort s.port m.body)))
      else endHaltedAttempt 0 s)

end Sys2Proof.Machine
end

