-- ==== Sys2Proof/Machine/Loader.lean ====
section
/-!
DEFINITION. Machine/Loader.lean: the image loader: header (R175), section heads (R176), settings (R177, R178), tables (R179),
mesh and grid (R180), completion and failure (R181, R182).
-/
namespace Sys2Proof.Machine

/-! ## Reading and failing -/

/-- The loader has read the bytes `bs` of the body: the byte count, the bytes left in the section and the running CRC
follow (R174, R181). -/
def Loader.read (bs : List Byte) (l : Loader) : Loader :=
  { l with bytes := l.bytes + bs.length, left := l.left - bs.length, crc := crcBytes 32 0x04C11DB7 l.crc bs }

/-- The loader after the section in progress ended when no byte of it is left. -/
def Loader.endSection (l : Loader) : Loader := { l with inSection := decide (l.left ≠ 0) }

/-- The output raster of an image's settings (R182). -/
def imageRaster (x : Settings) : Raster :=
  { width := x.width, height := x.height, hTotal := x.hTotal, vTotal := x.vTotal, f0 := x.f0 }

/-- The raster with which a failed load starts the raster timer: the image's when its settings section passed R177 and
R178, else the fixed one (R182). -/
def failureRaster (l : Loader) : Raster :=
  match l.settings with
  | some x => imageRaster x
  | none => fixedRaster

/-- A load ends in FAILED with check code `code`: the station leaves START for HALTED (R174, R182). -/
def failLoad (code : Nat) (s : State) : State :=
  let t := report .loader .imageInvalid code (s.withLoader { s.loader with state := .failed, code := some code })
  startRaster (failureRaster s.loader) (enterHalted t)

/-- The load goes on, or fails with the code found. -/
def failLoadIf (code : Option Nat) (s : State) : State :=
  match code with
  | some c => failLoad c s
  | none => s

/-- The first code of a list of checks that fails. -/
def firstFailure : List (Bool × Nat) → Option Nat
  | [] => none
  | (bad, code) :: rest => if bad then some code else firstFailure rest

/-- The loader is reading section `n`, with at least `bytes` bytes of it left. -/
def readingSection (n bytes : Nat) (s : State) : Bool :=
  s.inStart && s.loader.state == .readingBody && s.loader.inSection && s.loader.sectionNo == n
    && decide (bytes ≤ s.loader.left)

/-! ## Header and section heads -/

/-- The code a header fails with (R175). -/
def headerFailure (h : Header) : Option Nat :=
  firstFailure [(h.pattern != 0x4D473412, 1), (h.version != 3, 2),
    (decide (h.bodyLength.toNat < 28 ∨ 16777200 < h.bodyLength.toNat), 3)]

/-- IMAGE_HEADER_CHECK: the 16 header bytes have been read (R175). -/
def execImageHeaderCheck (pattern : BitVec 32) (version : BitVec 16) (bodyLength crc : BitVec 32) (imageId : BitVec 16)
    (s : State) : Host.Outcome State Fault Refusal :=
  finish (if s.inStart && s.loader.state == .readingHeader then
      (let h : Header := ⟨pattern, version, bodyLength, crc, imageId⟩
       let t := s.withLoader { s.loader with bytes := 16, header := some h }
       match headerFailure h with
       | some c => failLoad c t
       | none => t.withLoader { t.loader with state := .readingBody })
    else s)

/-- The body length the header gives. -/
def Loader.bodyLength (l : Loader) : Nat :=
  match l.header with
  | some h => h.bodyLength.toNat
  | none => 0

/-- The nodes of the grid that the settings accepted give (R1, R176). -/
def Loader.nodes (l : Loader) : Nat :=
  match l.settings with
  | some x => gridNodes x.width x.height
  | none => 0

/-- The length suits section `n` (R176). -/
def lengthSuits (nodes n length : Nat) : Bool :=
  match n with
  | 1 => decide (length ≠ 0 ∧ length % 5 = 0)
  | 2 | 3 | 4 => length == 2048
  | 5 => length == 2050
  | 6 => length == 4 * nodes
  | _ => true

/-- The code a section head fails with, once its 4 bytes are counted in `l` (R176). -/
def headFailure (code length : Nat) (l : Loader) : Option Nat :=
  firstFailure [(code != l.sectionNo + 1, 4), (decide (16 + l.bodyLength < l.bytes + length), 4),
    (!(lengthSuits l.nodes code length), 5)]

/-- SECTION_HEAD_CHECK (R176). The section read is this one once its head has passed; until then, and after a head that fails, it
is the one before, the header at first (DESIGN CHOICE, log 9). -/
def execSectionHeadCheck (code : BitVec 8) (length : BitVec 24) (s : State) : Host.Outcome State Fault Refusal :=
  finish (if s.inStart && s.loader.state == .readingBody && !s.loader.inSection && decide (s.loader.sectionNo < 7) then
      (let l := s.loader.read (code :: bytes24 length)
       match headFailure code.toNat length.toNat l with
       | some c => failLoad c (s.withLoader l)
       | none => s.withLoader { l with sectionNo := code.toNat, inSection := true, left := length.toNat })
    else s)

/-! ## Settings -/

/-- The entries of a settings section as (code, value). -/
abbrev Entries := List (BitVec 8 × BitVec 32)

/-- The value an entry of the list gives setting `c`, if any. -/
def settingOf (es : Entries) (c : Nat) : Option Nat :=
  (es.find? (fun e => e.1.toNat == c)).map (fun e => e.2.toNat)

/-- The value written for a required setting (R177). -/
def required (es : Entries) (c : Nat) : Nat := (settingOf es c).getD 0

/-- The codes of the required settings (R177). -/
def requiredCodes : List Nat := [1, 2, 3, 4, 5, 6, 10, 11, 12, 13, 14, 24, 25, 26, 27, 28, 29]

/-- The listed values of an enumerated setting (R177). -/
def enumerated (c : Nat) : Option (List Nat) :=
  match c with
  | 5 => some [1, 2]
  | 6 => some [1, 2, 4]
  | 18 => some [1, 2]
  | 23 => some [1, 2]
  | _ => none

/-- An entry gives an enumerated setting a value that is not listed (R177). -/
def badEnumeration (e : BitVec 8 × BitVec 32) : Bool :=
  match enumerated e.1.toNat with
  | some vs => !(vs.contains e.2.toNat)
  | none => false

/-- The checks of R177 and R178 on the entries, in their order, for the strapped number `own`. -/
def settingsFailure (own : Nat) (es : Entries) : Option Nat :=
  let w := required es 10
  let h := required es 11
  let ht := required es 12
  let vt := required es 13
  let f0 := required es 14
  let codes : List Nat := es.map (fun e => e.1.toNat)
  firstFailure [
    (codes.any (fun c => decide (c < 1 ∨ 33 < c)) || !(decide codes.Nodup), 6),
    (requiredCodes.any (fun c => !(codes.contains c)), 7),
    (es.any badEnumeration, 8),
    (required es 1 != own, 9),
    (!((required es 2).testBit own) || decide (4096 ≤ required es 2), 10),
    (decide (required es 3 = 0 ∨ 2560 < required es 3 ∨ w = 0 ∨ 2560 < w ∨
      required es 4 = 0 ∨ 1600 < required es 4 ∨ h = 0 ∨ 1600 < h), 11),
    (decide (ht < w ∨ vt < h ∨ 65535 < ht ∨ 65535 < vt), 12),
    (decide (f0 = 0 ∨ 600000000 < f0), 13),
    (decide (tfNom ht vt f0 < 833333 ∨ 4166667 < tfNom ht vt f0), 14)]

/-- The lowest and highest value of a ranged setting that is clamped, for output height `h` (R177). -/
def clampRange (h c : Nat) : Option (Nat × Nat) :=
  match c with
  | 7 => some (1, 255)
  | 8 | 9 => some (0, 255)
  | 15 => some (100, 10000)
  | 16 => some (50, 1000)
  | 17 => some (1, 4096)
  | 19 => some (4, 64)
  | 20 => some (4, 16)
  | 21 => some (1, 8)
  | 22 => some (8, 255)
  | 24 | 25 | 26 | 27 => some (0, 65535)
  | 28 => some (0, h - 1)
  | 29 => some (1, 4095)
  | 30 | 31 => some (1, 16384)
  | _ => none

/-- A value clamped to a range (R177). -/
def clampNat (lo hi v : Nat) : Nat := max lo (min hi v)

/-- The value of setting `c` after its clamp, or its default `d` when the list does not hold it (R177). -/
def clamped (es : Entries) (c d : Nat) : Nat :=
  match settingOf es c with
  | none => d
  | some v =>
    match clampRange (required es 11) c with
    | none => v
    | some r => clampNat r.1 r.2 v

/-- The settings that are clamped, in the order of their codes (R177, log 9). -/
def clampCodes (es : Entries) : List Nat :=
  (List.range 34).filter (fun c =>
    match settingOf es c with
    | none => false
    | some v => clamped es c 0 != v)

/-- The settings the entries give, with defaults and clamps (R177). -/
def settingsFrom (es : Entries) : Settings :=
  { roster := BitVec.ofNat 12 (required es 2)
    inWidth := required es 3, inHeight := required es 4, inFormat := required es 5, laneCount := required es 6
    settleTime := clamped es 7 20, trainingThreshold := clamped es 8 8, inputTimeout := clamped es 9 40
    width := required es 10, height := required es 11, hTotal := required es 12, vTotal := required es 13
    f0 := required es 14
    lockWindow := clamped es 15 500, pullRange := clamped es 16 300, slew := clamped es 17 256
    busRate := clamped es 18 2, silenceTimeout := clamped es 19 12, lead := clamped es 20 6
    holdLimit := clamped es 21 3, rejoin := clamped es 22 30, overrun := clamped es 23 1
    patchLeft := clamped es 24 0, patchTop := clamped es 25 0, patchWidth := clamped es 26 0
    patchHeight := clamped es 27 0, patchLine := clamped es 28 0, sCal := clamped es 29 1
    lamOut := clamped es 30 4096, drift := clamped es 31 164
    maskLow := (settingOf es 32).map (BitVec.ofNat 32), maskHigh := (settingOf es 33).map (BitVec.ofNat 32) }

/-- The bytes of a settings section. -/
def entryBytes (es : Entries) : List Byte := es.flatMap (fun e => e.1 :: bytes32 e.2)

/-- SETTINGS_SECTION_END: the last byte of the settings section has been read (R177, R178). -/
def execSettingsSectionEnd (entries : List (BitVec 8 × BitVec 32)) (s : State) : Host.Outcome State Fault Refusal :=
  finish (if readingSection 1 (5 * entries.length) s && s.loader.left == 5 * entries.length then
      (let l := (s.loader.read (entryBytes entries)).endSection
       match settingsFailure s.own entries with
       | some c => failLoad c (s.withLoader l)
       | none =>
         let clamps := clampCodes entries
         clamps.foldl (fun t c => report .loader .imageClamp c t)
           (s.withLoader { l with settings := some (settingsFrom entries), clamps := clamps }))
    else s)

/-! ## Tables, mesh and grid -/

/-- The table that section `n` fills. -/
def PixelPath.table (p : PixelPath) (n : Nat) : List Nat :=
  match n with
  | 2 => p.inputRed
  | 3 => p.inputGreen
  | 4 => p.inputBlue
  | _ => p.output

/-- The pixel path with an entry appended to the table that section `n` fills. -/
def PixelPath.pushEntry (p : PixelPath) (n v : Nat) : PixelPath :=
  match n with
  | 2 => { p with inputRed := p.inputRed ++ [v] }
  | 3 => { p with inputGreen := p.inputGreen ++ [v] }
  | 4 => { p with inputBlue := p.inputBlue ++ [v] }
  | _ => { p with output := p.output ++ [v] }

/-- The code an entry of section `n` fails with after the entries `before` (R179). -/
def entryFailure (n : Nat) (before : List Nat) (v : Nat) : Option Nat :=
  let falls := decide (v < before.getLastD 0)
  if n = 5 then firstFailure [(decide (4095 < v), 17), (falls, 18)]
  else firstFailure [(decide (32768 < v), 15), (falls, 16)]

/-- The loader is reading a table section, with an entry left. -/
def readingTable (s : State) : Bool :=
  readingSection 2 2 s || readingSection 3 2 s || readingSection 4 2 s || readingSection 5 2 s

/-- TABLE_ENTRY_CHECK: each entry is checked as it is read, and an entry that passes is kept (R179). -/
def execTableEntryCheck (entry : BitVec 16) (s : State) : Host.Outcome State Fault Refusal :=
  finish (if readingTable s then
      (let t := s.withLoader (s.loader.read (bytes16 entry)).endSection
       match entryFailure s.loader.sectionNo (s.pix.table s.loader.sectionNo) entry.toNat with
       | some c => failLoad c t
       | none => t.withPix (s.pix.pushEntry s.loader.sectionNo entry.toNat))
    else s)

/-- WARP_MESH_ENTRY_READ: every value is legal (R180). -/
def execWarpMeshEntryRead (sx sy : BitVec 16) (s : State) : Host.Outcome State Fault Refusal :=
  finish (if readingSection 6 4 s then
      (s.withLoader (s.loader.read (bytes16 sx ++ bytes16 sy)).endSection).withPix
        { s.pix with mesh := s.pix.mesh ++ [⟨sx.toInt, sy.toInt⟩] }
    else s)

/-- Fields of a grid record, each with its bytes and the code it fails with, read in order (R180): a field that the
section's length cuts fails with code 24. -/
def readFields : List (List Byte × Option Nat) → Loader → Loader × Option Nat
  | [], l => (l, none)
  | (bs, code) :: rest, l =>
    if l.left < bs.length then (l.read (bs.take l.left), some 24)
    else
      match code with
      | some c => (l.read bs, some c)
      | none => readFields rest (l.read bs)

/-- A share above 32768 fails with code 19 (R180). -/
def shareFailure (x : BitVec 16) : Option Nat := if 32768 < x.toNat then some 19 else none

/-- The code a contributor's station fails with, after the stations `seen` of the record's list (R180). -/
def stationFailure (roster : StationSet) (own : Nat) (seen : List Nat) (i : Nat) : Option Nat :=
  firstFailure [(decide (11 < i) || !(isMember roster i), 21), (i == own, 22), (seen.contains i, 23)]

/-- The fields of a contributor list, in order (R180). -/
def contributorFields (roster : StationSet) (own : Nat) : List Nat → List ContributorBytes →
    List (List Byte × Option Nat)
  | _, [] => []
  | seen, c :: rest =>
    ([c.station], stationFailure roster own seen c.station.toNat) :: (bytes16 c.share, shareFailure c.share)
      :: (bytes24 c.black, none) :: contributorFields roster own (c.station.toNat :: seen) rest

/-- The fields of a grid record, in order (R180). -/
def recordFields (roster : StationSet) (own : Nat) (share : BitVec 16) (white black : BitVec 24) (count : BitVec 8)
    (contributors : List ContributorBytes) : List (List Byte × Option Nat) :=
  (bytes16 share, shareFailure share) :: (bytes24 white, none) :: (bytes24 black, none)
    :: ([count], if 3 < count.toNat then some 20 else none) :: contributorFields roster own [] contributors

/-- The node record a grid record gives (R2). -/
def nodeRecordOf (share : BitVec 16) (white black : BitVec 24) (contributors : List ContributorBytes) : NodeRecord :=
  { share := share.toNat, white := white.toNat, black := black.toNat
    contributors := contributors.map (fun c => ⟨c.station.toNat, c.share.toNat, c.black.toNat⟩) }

/-- The code found at the end of the `k`th grid record (R176, R180, log 9): the section must end exactly at the last
node's record, and the body with it. -/
def recordEndFailure (k : Nat) (l : Loader) : Option Nat :=
  firstFailure [(decide (k = l.nodes) != decide (l.left = 0), 24),
    (decide (l.left = 0 ∧ l.bytes < 16 + l.bodyLength), 4)]

/-- The roster that the settings accepted give. -/
def Loader.roster (l : Loader) : StationSet :=
  match l.settings with
  | some x => x.roster
  | none => 0

/-- GRID_RECORD_CHECK: a record is checked in field order, and a record that passes is kept (R180). Of a record that fails at a
field nothing stands in the grid, where R1 and R182 leave what had been read; a record whose fields pass is kept also when the
load fails at its end (DESIGN CHOICE, log 9). -/
def execGridRecordCheck (share : BitVec 16) (white black : BitVec 24) (count : BitVec 8)
    (contributors : List ContributorBytes) (s : State) : Host.Outcome State Fault Refusal :=
  finish (if readingSection 7 0 s then
      (match readFields (recordFields s.loader.roster s.own share white black count contributors) s.loader with
       | (l, some c) => failLoad c (s.withLoader l)
       | (l, none) =>
         let t := (s.withLoader l.endSection).withPix
           { s.pix with grid := s.pix.grid ++ [nodeRecordOf share white black contributors] }
         failLoadIf (recordEndFailure (s.pix.grid.length + 1) l) t)
    else s)

/-! ## Completion -/

/-- The ATTN mask a completed load puts into effect: each half from the image, or the default (R181, R188). -/
def loadedMask (x : Settings) : BitVec 64 :=
  x.maskHigh.getD (defaultMask.extractLsb' 32 32) ++ x.maskLow.getD (defaultMask.extractLsb' 0 32)

/-- The load ends in DONE: everything takes effect together and the station enters JOINING (R24, R80, R181). -/
def completeLoad (x : Settings) (s : State) : State :=
  let t := (s.withLoader { s.loader with state := .done }).withSettings x
  startRaster (imageRaster x) (enterJoining (t.withFaults { t.faults with mask := loadedMask x }))

/-- The last byte of the body has been read. -/
def bodyRead (s : State) : Bool :=
  s.inStart && s.loader.state == .readingBody && s.loader.sectionNo == 7 && !s.loader.inSection

/-- LOAD_COMPLETE (R181). -/
def execLoadComplete (s : State) : Host.Outcome State Fault Refusal :=
  finish (if bodyRead s then
      (match s.loader.header, s.loader.settings with
       | some h, some x => if ~~~s.loader.crc = h.crc then completeLoad x s else failLoad 25 s
       | _, _ => s)
    else s)

end Sys2Proof.Machine
end

