-- ==== Sys2Proof/Machine/Resets.lean ====
section
/-!
DEFINITION. Machine/Resets.lean: the two resets (R183) and the strap check at the entry to START (R173).
-/
namespace Sys2Proof.Machine

/-- Every block at its reset values with the strap pins at `straps`. What the two resets treat apart comes as arguments:
the stamp counter, the level on the frame line (log 6), the frame memory with its errors, and the fault unit (R183). -/
def startValues (straps : BitVec 4) (stamp : Stamp) (low : Bool) (memory : List (Nat × Rgb)) (errors : List Nat)
    (faults : FaultUnit) (queue : List Instr) : State :=
  { pending := queue, ctl := resetController, agr := resetAgreement straps.toNat, sol := resetSolver
    line := resetFrameLine stamp low, port := resetPort, link := resetLink, store := resetStore memory errors
    pix := resetPixelPath, light := resetLight, loader := resetLoader straps, settings := resetSettings
    faults := faults, maint := resetMaintenance }

/-- A strapped number of 12 to 15 ends the load at once in FAILED with check code 0, and the station is HALTED with the
fixed raster (R173, R182). -/
def strapCheck (s : State) : State :=
  if 12 ≤ s.own then
    let t := report .loader .strapInvalid s.own (s.withLoader { s.loader with state := .failed, code := some 0 })
    startRaster fixedRaster (enterHalted t)
  else s

/-- The fault unit through a warm reset: the records and counters stay and the mask returns to its default (R183,
R188). -/
def warmFaults (f : FaultUnit) : FaultUnit := { f with mask := defaultMask }

/-- The state at the entry to START by power-on (R183). -/
def powerOn (straps : BitVec 4) (s : State) : State :=
  strapCheck (startValues straps 0 false [] [] { resetFaults with freeCount := s.faults.freeCount } s.pending)

/-- The state at the entry to START by a warm reset (R183). -/
def warmStart (straps : BitVec 4) (s : State) : State :=
  strapCheck (startValues straps s.line.stamp s.line.low s.store.memory s.store.errors (warmFaults s.faults) s.pending)

/-- POWER_ON_RESET (R183). -/
def execPowerOnReset (straps : BitVec 4) (s : State) : Host.Outcome State Fault Refusal := finish (powerOn straps s)

/-- WARM_RESET (R183). -/
def execWarmReset (straps : BitVec 4) (s : State) : Host.Outcome State Fault Refusal := finish (warmStart straps s)

end Sys2Proof.Machine
end

