-- ==== Sys2Proof/Machine/Flags.lean ====
section
/-!
DEFINITION. Machine/Flags.lean: the ATTN output, the part's one derived flag (R187).
-/
namespace Sys2Proof.Machine

/-- ATTN is asserted whenever the pending set and the mask share a kind; bits 44 to 63 name none (R187, R188). -/
def State.attn (s : State) : Bool := (s.faults.pending &&& s.faults.mask).setWidth 44 != 0

end Sys2Proof.Machine
end

