-- ==== Sys2Proof/Machine/Views.lean ====
section
/-!
DEFINITION. Machine/Views.lean: the bytes of the ten views of the maintenance port (R190, tables of section 12.4). Where R190
leaves a width to the range of a field, log 12 gives the width taken.
-/
namespace Sys2Proof.Machine

/-! ## Forms of fields (R190) -/

/-- A flag: 1 when set, 0 when clear. -/
def flagByte (b : Bool) : List Byte := [if b then 1 else 0]

/-- A part of `w` bytes that may be absent: its presence byte, then its fields or zeros. -/
def partBytes {α : Type} (w : Nat) (f : α → List Byte) : Option α → List Byte
  | none => List.replicate (w + 1) 0
  | some x => 1 :: f x

/-- A list, preceded by its number of entries. -/
def listBytes {α : Type} (f : α → List Byte) (l : List α) : List Byte := beBytes 1 l.length ++ l.flatMap f

/-- A signed field of `w` bytes in two's complement. -/
def signedBytes (w : Nat) (x : Int) : List Byte := beBytes w (x % (256 ^ w : Nat)).toNat

/-! ## Positions of enumerated values (R190) -/

/-- The position of a condition (R23). -/
def conditionPos : Condition → Nat
  | .start => 0 | .joining => 1 | .live => 2 | .dark => 3 | .halted => 4

/-- The position of a lock state (R88). -/
def lockPos : LockState → Nat
  | .listen => 0 | .alone => 1 | .pulling => 2 | .locked => 3 | .free => 4

/-- The position of a link state (section 7.2). -/
def linkPos : LinkState → Nat
  | .down => 0 | .settle => 1 | .training => 2 | .up => 3

/-- The position of a port state (R106). -/
def portPos : PortState → Nat
  | .disabled => 0 | .active => 1 | .off => 2

/-- The position of a light state (R169). -/
def lightPos : LightState → Nat
  | .unknown => 0 | .lit => 1 | .out => 2

/-- The position of a loader state (R174). -/
def loaderPos : LoaderState → Nat
  | .readingHeader => 0 | .readingBody => 1 | .done => 2 | .failed => 3

/-- The position of a phase (R38). -/
def phasePos : Phase → Nat
  | .opened => 0 | .bounded => 1 | .cut => 2 | .banked => 3

/-- The position of a bank status (R73). -/
def bankPos : BankStatus → Nat
  | .active => 0 | .spareEmpty => 1 | .spareFilling => 2 | .spareReady => 3

/-- The position of a slot state (R136). -/
def slotPos : SlotState → Nat
  | .free => 0 | .filling => 1 | .ready => 2 | .showing => 3

/-- The position of input health (R135). -/
def healthPos : Health → Nat
  | .good => 0 | .failed => 1

/-- The position of a factor source (R47). -/
def sourcePos : FactorSource → Nat
  | .epoch => 0 | .levels => 1

/-- The position of a window class (R86). -/
def windowPos : WindowClass → Nat
  | .measured => 0 | .noEdges => 1 | .lineFault => 2

/-- The position of a job kind (R65). -/
def jobPos : JobKind → Nat
  | .bounds => 0 | .coeff => 1

/-- The position of a new state, LIVE or DARK (R38). -/
def newStatePos (live : Bool) : Nat := if live then 0 else 1

/-! ## The views -/

/-- The identify state (R62). -/
def identifyBytes (x : Identify) : List Byte :=
  bytes32 x.start ++ beBytes 1 x.period ++ beBytes 1 x.on ++ partBytes 4 bytes32 x.endFrame

/-- The last S_on and S_off, with the frame of the off-sample (R172). -/
def cycleBytes (x : Cycle) : List Byte := beBytes 2 x.on ++ beBytes 2 x.off ++ bytes32 x.frame

/-- View 1, CONDITION. With the straps at 12 to 15 the station number byte shows the strapped number (DESIGN CHOICE, log 32). -/
def viewCondition (s : State) : List Byte :=
  beBytes 1 s.own ++ beBytes 1 (conditionPos s.ctl.condition) ++ beBytes 2 s.ctl.listen ++ beBytes 2 s.ctl.dwell
    ++ beBytes 2 s.ctl.aligned ++ beBytes 2 s.ctl.selfSilence
    ++ partBytes 11 identifyBytes s.agr.identify ++ flagByte s.agr.onFrame
    ++ partBytes 1 (fun f => beBytes 1 (if f.patchOn then 0 else 1)) s.pix.setup
    ++ beBytes 1 (overrideInForce s)
    ++ beBytes 1 (lightPos s.light.state) ++ beBytes 2 s.light.filtered ++ beBytes 2 s.light.measured
    ++ partBytes 8 cycleBytes s.light.cycle ++ beBytes 2 s.light.announced ++ beBytes 1 s.light.outCount
    ++ beBytes 2 s.light.spacing

/-- A lane's training counts (R122). -/
def countBytes (x : Lane) : List Byte := beBytes 4 x.checked ++ beBytes 2 x.mismatched

/-- The open frame (section 7.4). -/
def openFrameBytes (x : OpenFrame) : List Byte :=
  bytes16 x.content ++ partBytes 1 (beBytes 1) x.slot ++ beBytes 2 x.nextLine ++ partBytes 1 (beBytes 1) x.poison

/-- View 2, INPUT. -/
def viewInput (s : State) : List Byte :=
  beBytes 1 (linkPos s.link.state) ++ s.link.lanes.flatMap countBytes ++ partBytes 8 openFrameBytes s.link.openFrame
    ++ beBytes 1 (healthPos s.link.health) ++ beBytes 1 s.link.miss ++ beBytes 1 s.link.cleanRun

/-- A slot's record (R136). -/
def slotBytes (x : Slot) : List Byte :=
  beBytes 1 (slotPos x.state) ++ partBytes 2 bytes16 x.content ++ partBytes 4 bytes32 x.completed

/-- View 3, STORE. -/
def viewStore (s : State) : List Byte :=
  s.store.slots.flatMap slotBytes ++ beBytes 1 s.store.behind ++ flagByte s.store.restartMark
    ++ partBytes 2 bytes16 s.store.heldValue ++ flagByte s.heldValid ++ partBytes 2 bytes16 s.store.selection
    ++ partBytes 2 bytes16 s.store.showingNumber

/-- The last measurement (R86). -/
def measurementBytes (x : Measurement) : List Byte :=
  beBytes 1 (windowPos x.cls) ++ partBytes 4 bytes32 x.tFall ++ partBytes 4 (signedBytes 4) x.span
    ++ partBytes 4 (signedBytes 4) x.e

/-- View 4, LOCK. -/
def viewLock (s : State) : List Byte :=
  bytes32 s.line.stamp ++ bytes32 s.line.frameNo ++ partBytes 4 bytes32 s.line.target
    ++ beBytes 1 (lockPos s.line.lock) ++ beBytes 1 s.line.near ++ beBytes 1 s.line.quiet ++ beBytes 1 s.line.inside
    ++ beBytes 1 s.line.outside ++ beBytes 1 s.line.good ++ beBytes 1 s.line.jumpWait
    ++ signedBytes 2 s.line.trim ++ signedBytes 2 s.line.staged ++ signedBytes 2 s.line.integral
    ++ measurementBytes s.line.last

/-- The last PULSE of a record (R33). -/
def pulseBytes (x : PulseInfo) : List Byte :=
  bytes32 x.frame ++ bytes16 x.held ++ flagByte x.heldValid ++ beBytes 1 (pulseConditionCode x.condition).toNat
    ++ flagByte x.driving ++ bytes32 x.takenIn

/-- The last LEVELS of a record (R33). -/
def levelsBytes (x : LevelsInfo) : List Byte :=
  beBytes 2 x.lam ++ beBytes 2 x.mNow ++ beBytes 2 x.target ++ beBytes 2 x.remaining

/-- The last bounds of a record (R33). -/
def lastBoundsBytes (x : LastBounds) : List Byte := bytes16 x.epochLow ++ beBytes 3 x.floor ++ beBytes 3 x.ceiling

/-- A record of the peer table, in the order of R33's table. -/
def peerBytes (r : PeerRecord) : List Byte :=
  flagByte r.heard ++ partBytes 13 pulseBytes r.pulse ++ beBytes 2 r.silence ++ beBytes 1 r.repair
    ++ partBytes 8 levelsBytes r.levels ++ partBytes 2 (fun f => beBytes 2 f.lam) r.factor
    ++ partBytes 8 lastBoundsBytes r.bounds

/-- View 5, PEERS. -/
def viewPeers (s : State) : List Byte :=
  beBytes 1 (portPos s.port.state) ++ beBytes 1 s.port.failures ++ beBytes 1 s.port.offCount
    ++ beBytes 1 s.port.change.length ++ beBytes 1 s.port.pulse.length ++ beBytes 1 s.port.light.length
    ++ beBytes 1 s.port.bounds.length ++ beBytes 1 s.port.levels.length
    ++ s.agr.peers.flatMap peerBytes ++ beBytes 2 s.agr.live.toNat

/-- A state change of a record (R38). -/
def stateChangeBytes (c : StateChange) : List Byte :=
  beBytes 1 c.subject ++ beBytes 1 (newStatePos c.live) ++ beBytes 1 (reasonCode c.reason).toNat
    ++ partBytes 2 (beBytes 2) c.lam

/-- A light change of a record (R38). -/
def lightChangeBytes (c : LightChange) : List Byte := beBytes 1 c.station ++ beBytes 2 c.lam

/-- An entry of a bounds table: floor, ceiling and received flag (R38); the entries follow in station order (R190). -/
def boundsEntryBytes (e : BoundsEntry) : List Byte :=
  beBytes 3 e.floor ++ beBytes 3 e.ceiling ++ flagByte e.received

/-- A pair of levels. -/
def levelPairBytes (p : LevelPair) : List Byte := beBytes 3 p.floor ++ beBytes 3 p.ceiling

/-- A record of the pending epoch list, in the order of R38's table. Its state changes, and its light changes, stand in the order
taken (DESIGN CHOICE, log 29). -/
def recordBytes (r : EpochRecord) : List Byte :=
  bytes32 r.frame ++ listBytes stateChangeBytes r.states ++ listBytes lightChangeBytes r.lights
    ++ listBytes boundsEntryBytes r.bounds ++ partBytes 6 levelPairBytes r.levels ++ beBytes 1 (phasePos r.phase)

/-- A job (R65). -/
def jobBytes (j : Job) : List Byte := beBytes 1 (jobPos j.kind) ++ bytes32 j.epoch

/-- A bank's status and tag (R73). -/
def bankBytes (b : Bank) : List Byte := beBytes 1 (bankPos b.status) ++ partBytes 4 bytes32 b.tag

/-- View 6, EPOCHS. The queued jobs stand in the order in which they were queued: R65 and R190 name no order (DESIGN CHOICE,
log 29). -/
def viewEpochs (s : State) : List Byte :=
  listBytes recordBytes s.agr.epochs ++ listBytes jobBytes s.sol.queue ++ bankBytes s.sol.bank0
    ++ bankBytes s.sol.bank1 ++ partBytes 5 (fun p => jobBytes p.job) s.sol.running

/-- A fade state (R56). -/
def fadeBytes (f : Fade) : List Byte := beBytes 2 f.m ++ beBytes 2 f.target ++ beBytes 2 f.remaining

/-- The pending fade (R57). -/
def pendingFadeBytes (f : PendingFade) : List Byte := bytes32 f.start ++ beBytes 2 f.target ++ beBytes 2 f.duration

/-- An entry of the light factor table with its source (R47). -/
def factorBytes (f : Factor) : List Byte := beBytes 2 f.lam ++ beBytes 1 (sourcePos f.source)

/-- View 7, LEVELS. -/
def viewLevels (s : State) : List Byte :=
  levelPairBytes s.agr.levels ++ fadeBytes s.agr.fade ++ partBytes 8 pendingFadeBytes s.agr.pendingFade
    ++ partBytes 6 fadeBytes s.agr.adopted ++ s.agr.peers.flatMap (fun r => partBytes 3 factorBytes r.factor)

/-- FIRST or LAST in the FAULTS view: kind 255 when absent. -/
def faultRecordBytes : Option FaultRecord → List Byte
  | none => 255 :: List.replicate 7 0
  | some r => beBytes 1 (faultNumber r.kind) ++ beBytes 1 (faultClass r.kind) ++ bytes32 r.frame ++ bytes16 r.detail

/-- View 8, FAULTS. -/
def viewFaults (s : State) : List Byte :=
  faultRecordBytes s.faults.first ++ faultRecordBytes s.faults.last ++ beBytes 8 s.faults.pending.toNat
    ++ beBytes 8 s.faults.mask.toNat ++ flagByte s.attn

/-- View 9, COUNTERS. -/
def viewCounters (s : State) : List Byte := s.faults.counters.flatMap (beBytes 2)

/-- The header fields (R175). -/
def headerBytes (h : Header) : List Byte :=
  bytes32 h.pattern ++ bytes16 h.version ++ bytes32 h.bodyLength ++ bytes32 h.crc ++ bytes16 h.imageId

/-- View 10, IMAGE. -/
def viewImage (s : State) : List Byte :=
  beBytes 1 s.own ++ beBytes 1 (loaderPos s.loader.state) ++ beBytes 4 s.loader.bytes ++ beBytes 1 s.loader.sectionNo
    ++ partBytes 1 (beBytes 1) s.loader.code ++ listBytes (beBytes 1) s.loader.clamps
    ++ partBytes 16 headerBytes s.loader.header

/-- The copy a read transaction takes of view `n` (R190). -/
def viewBytes (n : Nat) (s : State) : List Byte :=
  match n with
  | 1 => viewCondition s
  | 2 => viewInput s
  | 3 => viewStore s
  | 4 => viewLock s
  | 5 => viewPeers s
  | 6 => viewEpochs s
  | 7 => viewLevels s
  | 8 => viewFaults s
  | 9 => viewCounters s
  | 10 => viewImage s
  | _ => []

/-- Byte `i` that a read of the selected view gives: 0 past its end (R190). -/
def State.readByte (s : State) (i : Nat) : Byte := (viewBytes s.maint.view s).getD i 0

end Sys2Proof.Machine
end

