-- ==== Sys2Proof/Machine/Maintenance.lean ====
section
/-!
DEFINITION. Machine/Maintenance.lean: the writes of the I2C target port (R189), CLEAR_FAULTS (R191), RESTART and ATTN_MASK
(R192).
-/
namespace Sys2Proof.Machine

/-- The address of the port (R189). -/
def portAddress : BitVec 7 := 0x46

/-- The port acknowledges an address byte, of a write or a read, when it bears its own address (R189). -/
def acknowledgesAddress (a : BitVec 7) : Bool := a == portAddress

/-! ## Selectors (section 12.4) -/

/-- What a selector names: a view, or a command. -/
inductive Selector where
  | view (n : Nat)
  | clearFaults
  | restart
  | attnMask
  deriving DecidableEq, Repr

/-- The selector that the first data byte of a write is, if any (R189, table of section 12.4). -/
def selectorOf (b : Byte) : Option Selector :=
  if 1 ≤ b.toNat ∧ b.toNat ≤ 10 then some (.view b.toNat)
  else if b.toNat = 64 then some .clearFaults
  else if b.toNat = 65 then some .restart
  else if b.toNat = 66 then some .attnMask
  else none

/-- The byte is a selector of the table of section 12.4. -/
def isSelector (b : Byte) : Bool := (selectorOf b).isSome

/-- The bytes written after a selector (table of section 12.4). -/
def bytesCalled : Selector → Nat
  | .view _ | .clearFaults | .restart => 0
  | .attnMask => 8

/-- The port acknowledges the address, the first data byte when it is a selector, and then the bytes that the selector calls for;
it refuses every other byte (R189). -/
def writeAcks (b : Byte) (data : List Byte) : List Bool :=
  match selectorOf b with
  | some x => true :: true :: (List.range data.length).map (fun i => decide (i < bytesCalled x))
  | none => true :: false :: data.map (fun _ => false)

/-! ## Writes -/

/-- The write held its selector and exactly the bytes called for, and came to its end (R189). -/
def writeCompletes (calls : Nat) (w : I2cWrite) : Bool :=
  acknowledgesAddress w.address && w.data.length == calls && !w.brokenOff

/-- The bytes of a write after its address are acknowledged by `acks` when the write bears the port's address (R189). -/
def noteWrite (acks : List Bool) (w : I2cWrite) (s : State) : State :=
  if acknowledgesAddress w.address then s.withMaint { s.maint with acks := acks } else s

/-- View `n` becomes the selected view when its selector is acknowledged, whatever follows it (R189). -/
def selectView (n : Nat) (w : I2cWrite) (s : State) : State :=
  if acknowledgesAddress w.address then s.withMaint { s.maint with view := n } else s

/-- The fault unit after a clear (R191). -/
def clearedFaults (f : FaultUnit) : FaultUnit :=
  { f with counters := List.replicate 44 0, first := none, last := none, pending := 0 }

/-- The mask that 8 bytes give, kind 63 first (R192). -/
def maskOf (data : List Byte) : BitVec 64 := BitVec.ofNat 64 (beValue data)

/-- What a write with selector `x` does: a view selector takes effect at once, and a command when its write ended with exactly
the bytes it calls for (R189). CLEAR_FAULTS clears (R191), RESTART is a warm reset with the strap pins at `straps`, and
ATTN_MASK replaces the mask (R192). -/
def selectorEffect (x : Selector) (w : I2cWrite) (straps : BitVec 4) (s : State) : State :=
  match x with
  | .view n => selectView n w s
  | .clearFaults => if writeCompletes (bytesCalled x) w then s.withFaults (clearedFaults s.faults) else s
  | .restart => if writeCompletes (bytesCalled x) w then warmStart straps s else s
  | .attnMask => if writeCompletes (bytesCalled x) w then s.withFaults { s.faults with mask := maskOf w.data } else s

/-- A write of the port whose first data byte is `b`: a selector has its effect, and any other byte is refused with no other
effect (R189). The bytes of a RESTART's own write stay acknowledged through its reset (R189). -/
def portWrite (b : Byte) (w : I2cWrite) (straps : BitVec 4) (s : State) : State :=
  noteWrite (writeAcks b w.data) w (match selectorOf b with
    | some x => selectorEffect x w straps s
    | none => s)

/-- SELECT_CONDITION (R189): selector 1. -/
def execSelectCondition (s : State) (write : I2cWrite := loneSelector) : Host.Outcome State Fault Refusal :=
  finish (portWrite 1 write s.loader.strapped s)

/-- SELECT_INPUT (R189): selector 2. -/
def execSelectInput (s : State) (write : I2cWrite := loneSelector) : Host.Outcome State Fault Refusal :=
  finish (portWrite 2 write s.loader.strapped s)

/-- SELECT_STORE (R189): selector 3. -/
def execSelectStore (s : State) (write : I2cWrite := loneSelector) : Host.Outcome State Fault Refusal :=
  finish (portWrite 3 write s.loader.strapped s)

/-- SELECT_LOCK (R189): selector 4. -/
def execSelectLock (s : State) (write : I2cWrite := loneSelector) : Host.Outcome State Fault Refusal :=
  finish (portWrite 4 write s.loader.strapped s)

/-- SELECT_PEERS (R189): selector 5. -/
def execSelectPeers (s : State) (write : I2cWrite := loneSelector) : Host.Outcome State Fault Refusal :=
  finish (portWrite 5 write s.loader.strapped s)

/-- SELECT_EPOCHS (R189): selector 6. -/
def execSelectEpochs (s : State) (write : I2cWrite := loneSelector) : Host.Outcome State Fault Refusal :=
  finish (portWrite 6 write s.loader.strapped s)

/-- SELECT_LEVELS (R189): selector 7. -/
def execSelectLevels (s : State) (write : I2cWrite := loneSelector) : Host.Outcome State Fault Refusal :=
  finish (portWrite 7 write s.loader.strapped s)

/-- SELECT_FAULTS (R189): selector 8. -/
def execSelectFaults (s : State) (write : I2cWrite := loneSelector) : Host.Outcome State Fault Refusal :=
  finish (portWrite 8 write s.loader.strapped s)

/-- SELECT_COUNTERS (R189): selector 9. -/
def execSelectCounters (s : State) (write : I2cWrite := loneSelector) : Host.Outcome State Fault Refusal :=
  finish (portWrite 9 write s.loader.strapped s)

/-- SELECT_IMAGE (R189): selector 10. -/
def execSelectImage (s : State) (write : I2cWrite := loneSelector) : Host.Outcome State Fault Refusal :=
  finish (portWrite 10 write s.loader.strapped s)

/-- CLEAR_FAULTS: selector 64, with no byte after it (R189, R191). -/
def execClearFaults (write : I2cWrite) (s : State) : Host.Outcome State Fault Refusal :=
  finish (portWrite 64 write s.loader.strapped s)

/-- RESTART: selector 65, with no byte after it; a warm reset (R189, R192). -/
def execRestart (write : I2cWrite) (straps : BitVec 4) (s : State) : Host.Outcome State Fault Refusal :=
  finish (portWrite 65 write straps s)

/-- ATTN_MASK: selector 66, with the 8 bytes of the mask after it (R189, R192). -/
def execAttnMask (write : I2cWrite) (s : State) : Host.Outcome State Fault Refusal :=
  finish (portWrite 66 write s.loader.strapped s)

/-- SELECTOR_REFUSED: a write whose first data byte is no selector (R189). A byte that is a selector has that selector's effect,
and a RESTART so written finds the strap pins as they were sampled last (DESIGN CHOICE, log 2). -/
def execSelectorRefused (selector : Byte) (s : State) (write : I2cWrite := loneSelector) :
    Host.Outcome State Fault Refusal :=
  finish (portWrite selector write s.loader.strapped s)

end Sys2Proof.Machine
end

