-- ==== Sys2Proof/Machine/Dispatch.lean ====
section
/-!
DEFINITION. Machine/Dispatch.lean: each command to its meaning.
-/
namespace Sys2Proof.Machine

/-- The meaning of a command: its effect on everything but the queue. -/
def exec (i : Instr) (s : State) : Host.Outcome State Fault Refusal :=
  match i with
  | .powerOnReset straps => Sys2Proof.Machine.execPowerOnReset straps s
  | .warmReset straps => Sys2Proof.Machine.execWarmReset straps s
  | .imageHeaderCheck pattern version bodyLength crc imageId => Sys2Proof.Machine.execImageHeaderCheck pattern version bodyLength crc imageId s
  | .sectionHeadCheck code length => Sys2Proof.Machine.execSectionHeadCheck code length s
  | .settingsSectionEnd entries => Sys2Proof.Machine.execSettingsSectionEnd entries s
  | .tableEntryCheck entry => Sys2Proof.Machine.execTableEntryCheck entry s
  | .gridRecordCheck share white black count contributors => Sys2Proof.Machine.execGridRecordCheck share white black count contributors s
  | .loadComplete => Sys2Proof.Machine.execLoadComplete s
  | .frameStart first => Sys2Proof.Machine.execFrameStart first s
  | .frameLineRelease => Sys2Proof.Machine.execFrameLineRelease s
  | .frameLineEdge falling stamp => Sys2Proof.Machine.execFrameLineEdge falling stamp s
  | .boundsPassComplete => Sys2Proof.Machine.execBoundsPassComplete s
  | .coeffPassComplete => Sys2Proof.Machine.execCoeffPassComplete s
  | .sendEvent => Sys2Proof.Machine.execSendEvent s
  | .windowCompletion => Sys2Proof.Machine.execWindowCompletion s
  | .busIdleJoin => Sys2Proof.Machine.execBusIdleJoin s
  | .beginAttempt => Sys2Proof.Machine.execBeginAttempt s
  | .lostArbitration => Sys2Proof.Machine.execLostArbitration s
  | .attemptFailed => Sys2Proof.Machine.execAttemptFailed s
  | .messageComplete => Sys2Proof.Machine.execMessageComplete s
  | .stationClash frame => Sys2Proof.Machine.execStationClash frame s
  | .foreignMessage frame => Sys2Proof.Machine.execForeignMessage frame s
  | .receiveChange sender live reason subject epoch lam => Sys2Proof.Machine.execReceiveChange sender live reason subject epoch lam s
  | .receiveLight sender epoch lam => Sys2Proof.Machine.execReceiveLight sender epoch lam s
  | .receivePulse sender condition driving heldValid frame held => Sys2Proof.Machine.execReceivePulse sender condition driving heldValid frame held s
  | .receiveBounds sender epochLow floor ceiling => Sys2Proof.Machine.execReceiveBounds sender epochLow floor ceiling s
  | .receiveLevels sender lam mNow target remaining => Sys2Proof.Machine.execReceiveLevels sender lam mNow target remaining s
  | .showFade sender start target duration => Sys2Proof.Machine.execShowFade sender start target duration s
  | .showIdentify sender start mask period on => Sys2Proof.Machine.execShowIdentify sender start mask period on s
  | .showIdentifyOff sender endFrame => Sys2Proof.Machine.execShowIdentifyOff sender endFrame s
  | .lanesActive => Sys2Proof.Machine.execLanesActive s
  | .laneActivityLost lane received => Sys2Proof.Machine.execLaneActivityLost lane s received
  | .settleExpiry => Sys2Proof.Machine.execSettleExpiry s
  | .trainingDecision => Sys2Proof.Machine.execTrainingDecision s
  | .inputTimeout => Sys2Proof.Machine.execInputTimeout s
  | .packetLost words => Sys2Proof.Machine.execPacketLost words s
  | .laneSkew words => Sys2Proof.Machine.execLaneSkew words s
  | .frameStartPacket heads payload => Sys2Proof.Machine.execFrameStartPacket heads payload s
  | .linePacket heads payload => Sys2Proof.Machine.execLinePacket heads payload s
  | .frameEndPacket heads payload => Sys2Proof.Machine.execFrameEndPacket heads payload s
  | .otherPacket heads kind payload => Sys2Proof.Machine.execOtherPacket heads kind payload s
  | .strayLinePacket heads frameEnd payload => Sys2Proof.Machine.execStrayLinePacket heads frameEnd payload s
  | .memoryEcc line column => Sys2Proof.Machine.execMemoryEcc line column s
  | .lightSample value ahead => Sys2Proof.Machine.execLightSample value ahead s
  | .selectCondition write => Sys2Proof.Machine.execSelectCondition s write
  | .selectInput write => Sys2Proof.Machine.execSelectInput s write
  | .selectStore write => Sys2Proof.Machine.execSelectStore s write
  | .selectLock write => Sys2Proof.Machine.execSelectLock s write
  | .selectPeers write => Sys2Proof.Machine.execSelectPeers s write
  | .selectEpochs write => Sys2Proof.Machine.execSelectEpochs s write
  | .selectLevels write => Sys2Proof.Machine.execSelectLevels s write
  | .selectFaults write => Sys2Proof.Machine.execSelectFaults s write
  | .selectCounters write => Sys2Proof.Machine.execSelectCounters s write
  | .selectImage write => Sys2Proof.Machine.execSelectImage s write
  | .clearFaults write => Sys2Proof.Machine.execClearFaults write s
  | .restart write straps => Sys2Proof.Machine.execRestart write straps s
  | .attnMask write => Sys2Proof.Machine.execAttnMask write s
  | .selectorRefused selector write => Sys2Proof.Machine.execSelectorRefused selector s write
  | .syncRecognised lane bits0 bits1 bits2 bits3 => Sys2Proof.Machine.execSyncRecognised lane bits0 bits1 bits2 bits3 s
  | .warpMeshEntryRead sx sy => Sys2Proof.Machine.execWarpMeshEntryRead sx sy s

end Sys2Proof.Machine
end

