-- ==== Sys2Proof/Safety.lean ====
section
/-!
DEFINITION. Safety.lean: what counts as a sound state, block by block, in the ranges the manual gives its state. Claims use
these terms.
-/
namespace Sys2Proof.Machine

/-- The command is a write with selector `x` that takes effect (R189). -/
def writesCommand (x : Selector) (b : Byte) (w : I2cWrite) : Bool :=
  selectorOf b == some x && writeCompletes (bytesCalled x) w

/-- The command is a reset that takes effect: power-on, the RESET pin, or the write of a RESTART (R183, R192). -/
def isReset : Instr → Bool
  | .powerOnReset _ | .warmReset _ => true
  | .restart write _ => writesCommand .restart 65 write
  | .selectorRefused b write => writesCommand .restart b write
  | _ => false

/-- The command clears the fault records: a power-on reset, or the write of a CLEAR_FAULTS that takes effect (R185). -/
def clearsFaults : Instr → Bool
  | .powerOnReset _ => true
  | .clearFaults write => writesCommand .clearFaults 64 write
  | .selectorRefused b write => writesCommand .clearFaults b write
  | _ => false

/-- The fault unit holds 44 counters of 0 to 65535 (R185). -/
def FaultUnit.sound (f : FaultUnit) : Prop := f.counters.length = 44 ∧ ∀ c ∈ f.counters, c ≤ 65535

/-- C is at least F + 1 (R14). -/
def LevelPair.open (p : LevelPair) : Prop := p.floor + 1 ≤ p.ceiling

/-- Every pair of levels, cut or in effect, has C at least F + 1 (R14), and at most 8 records are pending (R38). -/
def Agreement.levelsSound (a : Agreement) : Prop :=
  a.levels.open ∧ (∀ r ∈ a.epochs, ∀ p ∈ r.levels, LevelPair.open p) ∧ a.epochs.length ≤ 8

/-- A fade state within the range of R56. -/
def Fade.sound (f : Fade) : Prop := f.m ≤ 4096 ∧ f.target ≤ 4096

/-- The fade state and what may enter it stay within 0 to 4096 (R56, R57, R61). -/
def Agreement.fadeSound (a : Agreement) : Prop :=
  a.fade.sound ∧ (∀ f ∈ a.adopted, Fade.sound f) ∧ (∀ p ∈ a.pendingFade, PendingFade.target p ≤ 4096)

/-- Coefficients within the range of R17. -/
def Coeff.sound (c : Coeff) : Prop := c.k + c.a ≤ 32768

/-- Exactly one bank is ACTIVE, and every coefficient of either bank is in range (R17, R73). -/
def Solver.sound (x : Solver) : Prop :=
  ((x.bank0.status = .active) ↔ ¬ (x.bank1.status = .active)) ∧ (∀ c ∈ x.bank0.coeffs, Coeff.sound c) ∧
    ∀ c ∈ x.bank1.coeffs, Coeff.sound c

/-- A trim within −τmax to +τmax (R97). -/
def trimInRange (x : Settings) (trim : Int) : Prop := trim.natAbs ≤ tauMax x.pullRange

/-- The trims and the integral term are in range, and 0 throughout START (R97). -/
def State.trimSound (s : State) : Prop :=
  trimInRange s.settings s.line.trim ∧ trimInRange s.settings s.line.staged ∧ trimInRange s.settings s.line.integral ∧
    (s.ctl.condition = .start → s.line.trim = 0 ∧ s.line.staged = 0 ∧ s.line.integral = 0)

/-- The queues hold no more than their places, with one more behind a message on the bus, and the counts of the port
stay in their ranges (R107, R109, R113, R114). -/
def Port.sound (p : Port) : Prop :=
  p.change.length ≤ 4 ∧ p.pulse.length ≤ 2 ∧ p.light.length ≤ 2 ∧ p.bounds.length ≤ 8 ∧ p.levels.length ≤ 2 ∧
    p.failures ≤ 16 ∧ p.offCount < 64

/-- A slot holds a content number unless it is FREE, and a completion frame when it is READY or SHOWING (R136). -/
def Slot.sound (v : Slot) : Prop :=
  (v.content.isSome = true ↔ v.state ≠ .free) ∧
    (v.completed.isSome = true ↔ (v.state = .ready ∨ v.state = .showing))

/-- The four slots: sound records, at most one SHOWING, and FILLING exactly where the open frame writes (R136, section
7.4). -/
def State.slotsSound (s : State) : Prop :=
  s.store.slots.length = 4 ∧ (∀ v ∈ s.store.slots, Slot.sound v) ∧
    (∀ i < 4, ∀ j < 4, (s.store.slot i).state = .showing → (s.store.slot j).state = .showing → i = j) ∧
    (∀ i < 4, (s.store.slot i).state = .filling ↔ passedSlot s.link = some i) ∧
    ∀ i ∈ passedSlot s.link, i < 4

/-- The link receiver's counts stay in their ranges (R122, R134, R135). -/
def Link.sound (l : Link) : Prop :=
  l.miss ≤ 255 ∧ l.cleanRun ≤ 255 ∧ ∀ x ∈ l.lanes, x.checked ≤ 4294967295 ∧ x.mismatched ≤ 65535

/-- The station controller's counts stay in their ranges (R23). -/
def Controller.sound (k : Controller) : Prop :=
  k.listen ≤ 65535 ∧ k.dwell ≤ 65535 ∧ k.aligned ≤ 65535 ∧ k.selfSilence ≤ 65535

/-- The light monitor's factors and counts stay in their ranges (R167 to R170). -/
def LightMonitor.sound (x : LightMonitor) : Prop :=
  x.measured ≤ 65535 ∧ x.filtered ≤ 65535 ∧ x.announced ≤ 65535 ∧ x.outCount ≤ 4 ∧ x.spacing ≤ 65535

/-- The peer table has twelve records, whose counts stay in their ranges (R33). -/
def Agreement.peersSound (a : Agreement) : Prop :=
  a.peers.length = 12 ∧ ∀ r ∈ a.peers, r.silence ≤ 65535 ∧ r.repair ≤ 2

/-- No fault report waits to be taken: so it is between steps. -/
def State.settled (s : State) : Prop := s.faults.moment = []

/-- The state once the fault unit has taken one report of kind `k` with detail `d`, made in a settled state: the counter,
FIRST when it was absent, LAST and the pending set (R184 to R187). -/
def reported (k : FaultKind) (d : Nat) (s : State) : State :=
  let r : FaultRecord := ⟨k, s.line.frameNo, BitVec.ofNat 16 d⟩
  s.withFaults { s.faults with
    counters := s.faults.counters.modify (faultNumber k) (satInc 65535)
    first := s.faults.first.or (some r)
    last := some r
    pending := s.faults.pending ||| (1#64 <<< faultNumber k)
    freeCount := s.faults.freeCount + 1 }

/-- The words up to the start of a packet whose every lane in use reads the sync word at once (R118, R125). -/
def syncHeads (s : State) : List (List LaneWord) := List.replicate s.settings.laneCount [syncWord]

/-- The lane hunts, and holds no word and no part of one (R123, R125). -/
def LaneReader.quiet (x : LaneReader) : Prop := x.words = [] ∧ x.mark = none ∧ x.seeking = false ∧ x.part = []

/-- Every lane in use hunts and holds no word and no part of one, and the lanes lie no more than 8 lane bytes apart (R118, R125, R126). -/
def State.lanesQuiet (s : State) : Prop :=
  (s.settings.laneCount = 1 ∨ s.settings.laneCount = 2 ∨ s.settings.laneCount = 4) ∧
    s.link.lanes.length = 4 ∧ s.link.readers.length = 4 ∧ (∀ x ∈ s.usedReaders, LaneReader.quiet x) ∧
    ∀ a ∈ s.usedTimes, ∀ b ∈ s.usedTimes, a < b + 72

/-- The readers of the lanes in use after each has used `k` words more. -/
def readersPast (k : Nat) (s : State) : List LaneReader :=
  s.link.readers.mapIdx (fun i x => if i < s.settings.laneCount then { x with used := x.used + k } else x)

/-- The words that each lane in use reads for a packet with `bytes` payload bytes: its start word and its part (R118). -/
def laneWordCount (s : State) (bytes : Nat) : Nat := 1 + laneByteCount s.settings.laneCount (3 + bytes) / 2

/-- A write of the I2C port that bears its address and comes to its end, with the bytes `data` after the first (R189). -/
def wholeWrite (data : List Byte) : I2cWrite := { address := portAddress, data := data, brokenOff := false }

/-- The agreement unit with the record of station `i` holding `r`, and every other record as in `a`. -/
def Agreement.onlyPeer (a b : Agreement) (i : Nat) (r : PeerRecord) : Prop :=
  b.peer i = r ∧ ∀ j, j ≠ i → b.peer j = a.peer j

/-- The record `r` of `t` is the one in which a change for epoch `e`, taken in `s`, is placed: that of its frame after re-epoch,
where the list is not full or holds it; and in a full list without it the first whose frame is after it, or the last, with an
EPOCH_MERGE report (R40, R43). `fresh` says that no change of its kind about its subject was pending, so that the list is the one
found. Epochs 2^31 − 3 to 2^31 after current + 3 are placed where they stand by the model's choice (log 24). -/
def placedAt (fresh : Prop) (e : FrameNo) (s t : State) (r : EpochRecord) : Prop :=
  let n := reEpoch s.line.frameNo e
  (s.agr.epochs.length < 8 → r.frame = n) ∧ (fresh → (∃ x ∈ s.agr.epochs, x.frame = n) → r.frame = n) ∧
    (fresh → 8 ≤ s.agr.epochs.length → (∀ x ∈ s.agr.epochs, x.frame ≠ n) →
      ∀ (before behind : List EpochRecord) (x : EpochRecord), s.agr.epochs = before ++ x :: behind →
        (∀ y ∈ before, after y.frame n = false) → after x.frame n = true ∨ behind = [] →
        r.frame = x.frame ∧ t.faults.pending.getLsbD (faultNumber .epochMerge) = true)

/-- The taking of a change about station `i` for epoch `e` in `s` has reported LATE_CHANGE, with the station as detail, exactly
when the epoch is not after current + 3, and nothing else where the list is not full (R40). -/
def lateReported (i : Nat) (e : FrameNo) (s t : State) : Prop :=
  (notAfter e (s.line.frameNo + 3) = true → t.faults.pending.getLsbD (faultNumber .lateChange) = true) ∧
    (s.settled → s.agr.epochs.length < 8 →
      t.faults = if notAfter e (s.line.frameNo + 3) then (reported .lateChange i s).faults else s.faults)

/-- The light change of station `i` to `lam` for epoch `e`, taken in `s`, stands so in `t`: pending in one record (R40, R43). -/
def lightStands (i lam : Nat) (e : FrameNo) (s t : State) : Prop :=
  lateReported i e s t ∧ ∃ r ∈ t.agr.epochs, ⟨i, lam⟩ ∈ r.lights ∧
    placedAt (∀ x ∈ s.agr.epochs, ∀ y ∈ x.lights, y.station ≠ i) e s t r ∧
    ∀ x ∈ t.agr.epochs, ∀ y ∈ x.lights, y.station = i → y.lam = lam ∧ x.frame = r.frame

/-- The state change `c` for epoch `e`, taken in `s`, stands so in `t`: one that matches the subject's standing leaves none
pending about it, and any other is pending, alone of its subject (R40 to R43). -/
def changeStands (c : StateChange) (e : FrameNo) (s t : State) : Prop :=
  lateReported c.subject e s t ∧
    (isMember s.agr.live c.subject = c.live → ∀ x ∈ t.agr.epochs, ∀ y ∈ x.states, y.subject ≠ c.subject) ∧
    (isMember s.agr.live c.subject ≠ c.live → ∃ r ∈ t.agr.epochs, c ∈ r.states ∧
      placedAt (∀ x ∈ s.agr.epochs, ∀ y ∈ x.states, y.subject ≠ c.subject) e s t r ∧
      ∀ x ∈ t.agr.epochs, ∀ y ∈ x.states, y.subject = c.subject → y.live = c.live ∧ x.frame = r.frame)

/-- The pair of station `i` for the epoch with low bits `e`, taken in `s`, is matched so in `t` (R54): with no record of those
bits STRAY_BOUND is reported; a record that has been cut is left as it is; and any other has it as the station's received pair. -/
def boundsMatched (i : Nat) (e : BitVec 16) (floor ceiling : Nat) (s t : State) : Prop :=
  let found := s.agr.epochs.find? (fun r => r.frame.setWidth 16 == e)
  (found = none →
      t.agr.epochs = s.agr.epochs ∧ t.faults.last = some ⟨.strayBound, s.line.frameNo, BitVec.ofNat 16 i⟩) ∧
    ∀ r, found = some r → t.faults = s.faults ∧
      ((r.phase = .cut ∨ r.phase = .banked) → t.agr.epochs = s.agr.epochs) ∧
      ((r.phase = .opened ∨ r.phase = .bounded) →
        t.agr.epochs = (s.agr.onRecord r.frame (fun x => { x with
          bounds := setBounds ⟨i, floor, ceiling, true⟩ x.bounds })).epochs ∧
        ∃ x ∈ t.agr.epochs, x.frame = r.frame ∧ ⟨i, floor, ceiling, true⟩ ∈ x.bounds ∧
          ∀ y ∈ r.bounds, y.station ≠ i → y ∈ x.bounds)

end Sys2Proof.Machine
end

