-- ==== Sys2Proof/Certificates/Slice0/Obligations.lean ====
section
/-!
DEFINITION. Certificates/Slice0/Obligations.lean: the statements for the provers. Each docstring names the rules of spec/ it rests
on, and the log entry of each choice of the model's own.
-/
open Sys2Proof Sys2Proof.Machine

/-! ## Steps and the queue -/

/-- A step runs the command at the front of the queue on the state with the queue's rest; with no command waiting it is one
tick of the stamp counter (R79; the tick in place of idling is the model's, log 1). -/
def Obligations.StepRunsFrontCommand : Prop :=
  (∀ (c : Instr) (rest : List Instr) (s : State),
    step { s with pending := c :: rest } = exec c { s with pending := rest }) ∧
  ∀ s : State, s.pending = [] → step s = .next { s with line := { s.line with stamp := s.line.stamp + 1 } }

/-- Every command answers a next state, in which every fault report of the step has been taken (R184) and the queue of the
commands that wait is as it was (log 1). -/
def Obligations.EveryCommandSettles : Prop :=
  ∀ (c : Instr) (s : State), ∃ t, exec c s = .next t ∧ t.settled ∧ t.pending = s.pending

/-! ## Reset -/

/-- What power-on reset leaves, block by block, in each field for which a rule gives a value: the station controller (R23); the
agreement unit, with the empty peer records and the own light factor (R33, R38, R47, R51, R56, R57, R61, R62); the solver, with
zero banks (R65, R73, R78); the frame line unit (R79, R81, R82, R84, R86, R88, R98); the port (R106, R117); the link receiver
(R119); the frame store (R136); the pixel path (R151); the light monitor (R172); the loader (R174); the fault unit (R185 to R188)
and the selected view (R189). The fields left out are the model's: those of logs 1, 3 to 7 and 21, and the marks and timers of
what is in progress. That a bank is zero as an empty list is log 5, and the station number 0 is log 4. -/
def Obligations.ResetValues : Prop :=
  let s := State.reset
  s.ctl = ⟨.start, 0, 0, 0, 0⟩ ∧
    (s.agr.live = 0 ∧ s.agr.epochs = [] ∧ s.agr.levels = ⟨0, 16777215⟩ ∧ s.agr.fade = ⟨4096, 4096, 0⟩ ∧
      s.agr.pendingFade = none ∧ s.agr.adopted = none ∧ s.agr.identify = none ∧ s.agr.onFrame = false ∧
      ∀ i < 12, s.agr.peer i = ⟨false, none, 0, 0, none, if i = s.own then some ⟨16384, .epoch⟩ else none, none⟩) ∧
    (s.sol.queue = [] ∧ s.sol.running = none ∧ s.sol.lateSwap = none ∧ s.sol.bank0 = ⟨[], none, .active⟩ ∧
      s.sol.bank1 = ⟨[], none, .spareEmpty⟩ ∧ ∀ b i j, nodeK s b i j = 0 ∧ nodeA s b i j = 0) ∧
    (s.line.stamp = 0 ∧ s.line.running = false ∧ s.line.frameNo = 0 ∧ s.line.target = none ∧ s.line.trim = 0 ∧
      s.line.staged = 0 ∧ s.line.integral = 0 ∧ s.line.lock = .listen ∧ s.line.near = 0 ∧ s.line.quiet = 0 ∧
      s.line.inside = 0 ∧ s.line.outside = 0 ∧ s.line.good = 0 ∧ s.line.jumpWait = 0 ∧ s.line.pulling = false ∧
      s.line.last = ⟨.noEdges, none, none, none⟩) ∧
    (s.port.state = .disabled ∧ s.port.failures = 0 ∧ s.port.offCount = 0 ∧ s.port.change = [] ∧ s.port.pulse = [] ∧
      s.port.light = [] ∧ s.port.bounds = [] ∧ s.port.levels = [] ∧ s.port.heads = [] ∧ s.port.attempt = none) ∧
    (s.link.state = .down ∧ (∀ x ∈ s.link.lanes, x.checked = 0 ∧ x.mismatched = 0) ∧ s.link.openFrame = none ∧
      s.link.health = .failed ∧ s.link.miss = 0 ∧ s.link.cleanRun = 0 ∧ s.link.cleanFlag = false) ∧
    (s.store.slots = List.replicate 4 freeSlot ∧ s.store.behind = 0 ∧ s.store.restartMark = false ∧
      s.store.lastKept = none ∧ s.store.selection = none) ∧
    s.pix.setup = none ∧ s.light = ⟨none, none, 0, 0, false, 16384, .unknown, 0, 0⟩ ∧
    (s.loader.state = .readingHeader ∧ s.loader.bytes = 0 ∧ s.loader.sectionNo = 0 ∧ s.loader.inSection = false ∧
      s.loader.code = none ∧ s.loader.clamps = [] ∧ s.loader.header = none) ∧
    (s.faults.counters = List.replicate 44 0 ∧ s.faults.first = none ∧ s.faults.last = none ∧ s.faults.pending = 0 ∧
      s.faults.mask = 0x00000761000972BF ∧ s.attn = false) ∧
    s.maint.view = 1

/-- Every block is sound at reset. -/
def Obligations.SoundAtReset : Prop :=
  let s := State.reset
  s.faults.sound ∧ memWf s.store.memory = true ∧ s.agr.levelsSound ∧ s.agr.fadeSound ∧ s.sol.sound ∧ s.trimSound ∧
    s.port.sound ∧ s.slotsSound ∧ s.link.sound ∧ s.ctl.sound ∧ s.light.sound ∧ s.agr.peersSound ∧ s.settled

/-! ## What every step keeps -/

/-- The frame memory keeps its canonical form (log 7). -/
def Obligations.MemoryStaysCanonical : Prop :=
  ∀ s t : State, memWf s.store.memory = true → step s = .next t → memWf t.store.memory = true

/-- In every cut level pair and every level pair in effect, C is at least F + 1 (R14); at most 8 records are pending
(R38); the fade state, the pending fade and the adopted state stay within 0 to 4096 (R56, R57, R61). -/
def Obligations.AgreementStaysSound : Prop :=
  ∀ s t : State, s.agr.levelsSound ∧ s.agr.fadeSound → step s = .next t → t.agr.levelsSound ∧ t.agr.fadeSound

/-- One bank is ACTIVE, and K + A ≤ 32768 at every node of either bank (R17, R73). -/
def Obligations.BanksStaySound : Prop := ∀ s t : State, s.sol.sound → step s = .next t → t.sol.sound

/-- The trim in effect, the staged trim and the integral term lie within −τmax to +τmax (R97). -/
def Obligations.TrimStaysInRange : Prop := ∀ s t : State, s.trimSound → step s = .next t → t.trimSound

/-- The CHANGE queue holds at most 4 messages and the BOUNDS queue at most 8; each of the other three holds one, and at most one
more that came behind a message on the bus, which stays behind it after a lost arbitration (the model's, log 10); the failure
and off counts stay in range (R107, R109, R113, R114). -/
def Obligations.QueuesStayInPlaces : Prop := ∀ s t : State, s.port.sound → step s = .next t → t.port.sound

/-- At most one slot is SHOWING, and the FILLING slot is the slot of the open frame (R136, section 7.4). -/
def Obligations.SlotsStaySound : Prop := ∀ s t : State, s.slotsSound → step s = .next t → t.slotsSound

/-- The counts of the fault unit, the station controller, the link receiver, the light monitor and the peer table stay in
their ranges (R23, R33, R134, R135, R167 to R170, R185). -/
def Obligations.CountsStayInRange : Prop :=
  ∀ s t : State, s.faults.sound ∧ s.ctl.sound ∧ s.link.sound ∧ s.light.sound ∧ s.agr.peersSound → step s = .next t →
    t.faults.sound ∧ t.ctl.sound ∧ t.link.sound ∧ t.light.sound ∧ t.agr.peersSound

/-- Each fault counter decreases, FIRST leaves what it holds, and a kind leaves the pending set, only on CLEAR_FAULTS or
power-on reset (R185, R186, R187). -/
def Obligations.FaultRecordsKept : Prop :=
  ∀ (c : Instr) (s t : State), s.faults.sound → clearsFaults c = false → exec c s = .next t →
    (∀ i, s.faults.counters.getD i 0 ≤ t.faults.counters.getD i 0) ∧
      (∀ r, s.faults.first = some r → t.faults.first = some r) ∧
      ∀ i, s.faults.pending.getLsbD i = true → t.faults.pending.getLsbD i = true

/-- The station leaves HALTED only through a reset, and until then the agreement unit, the banks, the frame store, the
light monitor, the link receiver, the settings, the frame number and the trims keep what they hold (R32, R78, R81, R88,
R119, R172). -/
def Obligations.HaltedUntilReset : Prop :=
  ∀ (c : Instr) (s t : State), s.ctl.condition = .halted → s.sol.running = none → isReset c = false →
    exec c s = .next t →
      t.ctl = s.ctl ∧ t.agr = s.agr ∧ t.sol = s.sol ∧ t.store = s.store ∧ t.light = s.light ∧ t.link = s.link ∧
        t.pix = s.pix ∧ t.settings = s.settings ∧ t.loader = s.loader ∧ t.line.frameNo = s.line.frameNo ∧
        t.line.trim = s.line.trim ∧ t.line.staged = s.line.staged ∧ t.line.integral = s.line.integral

/-- A fault report adds one to its kind's counter, fills FIRST when it was absent, replaces LAST and joins the pending
set, all at once (R184 to R187). -/
def Obligations.ReportIsTaken : Prop :=
  ∀ (b : Block) (k : FaultKind) (d : Nat) (s : State), s.settled → takeReports (report b k d s) = reported k d s

/-! ## Resets and the image -/

/-- Both resets begin START with every block at its reset values; what a warm reset keeps is the stamp counter, the fault
records and the frame memory with its errors, and the level on the frame line (R173, R183, R192). The model's own choices are
the empty frame memory of power-on (log 7), the settings and tables before a load (log 5), the level on the frame line
(log 6) and the acknowledge bits kept, which the other resets leave empty (log 21). A RESTART's own write ends normally, with its
two acknowledges (R189). A strapped number of 12 to 15 ends the load in FAILED with code 0, and the station is HALTED. -/
def Obligations.ResetsBeginStart : Prop :=
  ∀ (straps : BitVec 4) (s : State), s.settled →
    let warm := startValues straps s.line.stamp s.line.low s.store.memory s.store.errors
      { s.faults with mask := defaultMask } s.pending
    let write := wholeWrite []
    (straps.toNat < 12 →
      exec (.powerOnReset straps) s =
          .next (startValues straps 0 false [] [] { resetFaults with freeCount := s.faults.freeCount } s.pending) ∧
        exec (.warmReset straps) s = .next warm ∧
        exec (.restart write straps) s = .next { warm with maint := { warm.maint with acks := [true, true] } }) ∧
    (12 ≤ straps.toNat → ∀ c ∈ [Instr.powerOnReset straps, .warmReset straps, .restart write straps], ∃ t,
      exec c s = .next t ∧ t.ctl.condition = .halted ∧ t.loader.strapped = straps ∧ t.loader.state = .failed ∧
        t.loader.code = some 0 ∧ t.line.running = true ∧ t.line.raster = fixedRaster ∧ t.line.frameNo = 0 ∧
        t.faults.last = some ⟨.strapInvalid, 0, straps.setWidth 16⟩)

/-- IMAGE_HEADER_CHECK (R175): a good header starts the body, and the first check that fails halts the station with its
code, IMAGE_INVALID and the fixed raster (R174, R182). -/
def Obligations.HeaderChecked : Prop :=
  ∀ (pattern : BitVec 32) (version : BitVec 16) (len crc : BitVec 32) (imageId : BitVec 16) (s : State),
    s.settled → s.ctl.condition = .start → s.loader.state = .readingHeader →
    let c : Instr := .imageHeaderCheck pattern version len crc imageId
    let l := { s.loader with bytes := 16, header := some ⟨pattern, version, len, crc, imageId⟩ }
    let code := if pattern ≠ 0x4D473412 then 1 else if version ≠ 3 then 2 else 3
    (pattern = 0x4D473412 ∧ version = 3 ∧ 28 ≤ len.toNat ∧ len.toNat ≤ 16777200 →
      exec c s = .next { s with loader := { l with state := .readingBody } }) ∧
    (¬(pattern = 0x4D473412 ∧ version = 3 ∧ 28 ≤ len.toNat ∧ len.toNat ≤ 16777200) → ∃ t, exec c s = .next t ∧
      t.ctl.condition = .halted ∧ t.loader = { l with state := .failed, code := some code } ∧ t.line.running = true ∧
      t.line.raster = failureRaster s.loader ∧
      t.faults.last = some ⟨.imageInvalid, s.line.frameNo, BitVec.ofNat 16 code⟩ ∧ t.settings = s.settings ∧
      t.agr = s.agr)

/-- SECTION_HEAD_CHECK (R176): the next section in order, ending within the body, with a length that suits it, begins;
otherwise the load fails with code 4 or 5. That a failing head is
found with all its 4 bytes counted is the model's choice (log 9). -/
def Obligations.SectionHeadChecked : Prop :=
  ∀ (code : BitVec 8) (len : BitVec 24) (s : State),
    s.settled → s.ctl.condition = .start → s.loader.state = .readingBody → s.loader.inSection = false →
    s.loader.sectionNo < 7 →
    let c : Instr := .sectionHeadCheck code len
    let l := s.loader.read (code :: bytes24 len)
    let placed := code.toNat = s.loader.sectionNo + 1 ∧ s.loader.bytes + 4 + len.toNat ≤ 16 + s.loader.bodyLength
    let suits := lengthSuits s.loader.nodes code.toNat len.toNat = true
    (placed ∧ suits → exec c s =
      .next { s with loader := { l with sectionNo := code.toNat, inSection := true, left := len.toNat } }) ∧
    (¬(placed ∧ suits) → ∃ t, exec c s = .next t ∧ t.ctl.condition = .halted ∧
      t.loader = { l with state := .failed, code := some (if code.toNat = s.loader.sectionNo + 1 ∧
        s.loader.bytes + 4 + len.toNat ≤ 16 + s.loader.bodyLength then 5 else 4) })

/-- SETTINGS_SECTION_END (R177, R178): entries that pass every check are accepted with their clamps, each clamp reporting
IMAGE_CLAMP; the first check that fails halts the station. The order of the clamp list is the
model's choice (log 9). -/
def Obligations.SettingsTaken : Prop :=
  ∀ (es : List (BitVec 8 × BitVec 32)) (s : State), s.settled → s.faults.sound →
    readingSection 1 (5 * es.length) s = true → s.loader.left = 5 * es.length →
    (settingsFailure s.own es = none → ∃ t, exec (.settingsSectionEnd es) s = .next t ∧
      t = { s with loader := t.loader, faults := t.faults } ∧ t.loader.state = .readingBody ∧
      t.loader.settings = some (settingsFrom es) ∧ t.loader.clamps = clampCodes es ∧
      t.loader.bytes = s.loader.bytes + 5 * es.length ∧
      t.faults.counters.getD 43 0 = min 65535 (s.faults.counters.getD 43 0 + (clampCodes es).length)) ∧
    (∀ code, settingsFailure s.own es = some code → ∃ t, exec (.settingsSectionEnd es) s = .next t ∧
      t.ctl.condition = .halted ∧ t.loader.state = .failed ∧ t.loader.code = some code ∧
      t.loader.settings = s.loader.settings ∧ t.settings = s.settings ∧ t.agr = s.agr)

/-- Settings that pass the checks of R177 and R178 fit together and lie in the ranges of their table once clamped. -/
def Obligations.AcceptedSettingsInRange : Prop :=
  ∀ (own : Nat) (es : List (BitVec 8 × BitVec 32)), settingsFailure own es = none →
    let x := settingsFrom es
    x.roster.getLsbD own = true ∧ (1 ≤ x.inWidth ∧ x.inWidth ≤ 2560) ∧ (1 ≤ x.inHeight ∧ x.inHeight ≤ 1600) ∧
    (x.inFormat = 1 ∨ x.inFormat = 2) ∧ (x.laneCount = 1 ∨ x.laneCount = 2 ∨ x.laneCount = 4) ∧
    (1 ≤ x.settleTime ∧ x.settleTime ≤ 255) ∧ x.trainingThreshold ≤ 255 ∧ x.inputTimeout ≤ 255 ∧
    (1 ≤ x.width ∧ x.width ≤ 2560) ∧ (1 ≤ x.height ∧ x.height ≤ 1600) ∧
    (x.width ≤ x.hTotal ∧ x.hTotal ≤ 65535) ∧ (x.height ≤ x.vTotal ∧ x.vTotal ≤ 65535) ∧
    (1 ≤ x.f0 ∧ x.f0 ≤ 600000000) ∧
    (833333 ≤ tfNom x.hTotal x.vTotal x.f0 ∧ tfNom x.hTotal x.vTotal x.f0 ≤ 4166667) ∧
    (100 ≤ x.lockWindow ∧ x.lockWindow ≤ 10000) ∧ (50 ≤ x.pullRange ∧ x.pullRange ≤ 1000) ∧
    (1 ≤ x.slew ∧ x.slew ≤ 4096) ∧ (x.busRate = 1 ∨ x.busRate = 2) ∧
    (4 ≤ x.silenceTimeout ∧ x.silenceTimeout ≤ 64) ∧ (4 ≤ x.lead ∧ x.lead ≤ 16) ∧
    (1 ≤ x.holdLimit ∧ x.holdLimit ≤ 8) ∧ (8 ≤ x.rejoin ∧ x.rejoin ≤ 255) ∧ (x.overrun = 1 ∨ x.overrun = 2) ∧
    (x.patchLeft ≤ 65535 ∧ x.patchTop ≤ 65535 ∧ x.patchWidth ≤ 65535 ∧ x.patchHeight ≤ 65535) ∧
    x.patchLine < x.height ∧ (1 ≤ x.sCal ∧ x.sCal ≤ 4095) ∧ (1 ≤ x.lamOut ∧ x.lamOut ≤ 16384) ∧
    (1 ≤ x.drift ∧ x.drift ≤ 16384)

/-- TABLE_ENTRY_CHECK and WARP_MESH_ENTRY_READ (R179, R180): an entry in range and not below the one before is kept, any
mesh entry is kept, and a bad table entry halts the station with its code, the bytes of that entry counted (the model's choice,
log 9). -/
def Obligations.TableAndMeshEntries : Prop :=
  ∀ s : State, s.settled →
    (∀ n ∈ [2, 3, 4, 5], ∀ v : BitVec 16, readingSection n 2 s = true →
      let l := (s.loader.read (bytes16 v)).endSection
      let top := if n = 5 then 4095 else 32768
      let low := (s.pix.table n).getLastD 0
      (v.toNat ≤ top ∧ low ≤ v.toNat →
        exec (.tableEntryCheck v) s = .next { s with loader := l, pix := s.pix.pushEntry n v.toNat }) ∧
      (¬(v.toNat ≤ top ∧ low ≤ v.toNat) → ∃ t, exec (.tableEntryCheck v) s = .next t ∧ t.ctl.condition = .halted ∧
        t.loader = { l with state := .failed, code := some (if n = 5 then (if v.toNat ≤ top then 18 else 17)
          else if v.toNat ≤ top then 16 else 15) })) ∧
    (∀ sx sy : BitVec 16, readingSection 6 4 s = true → exec (.warpMeshEntryRead sx sy) s =
      .next { s with loader := (s.loader.read (bytes16 sx ++ bytes16 sy)).endSection,
                     pix := { s.pix with mesh := s.pix.mesh ++ [⟨sx.toInt, sy.toInt⟩] } })

/-- GRID_RECORD_CHECK (R180): a record whose shares, count and stations are in order, and which the section's length does
not cut, is kept as the next node record. The first field that fails halts the station with its code 19 to 23, a record that
the section's length cuts with 24, a section that ends elsewhere than at the last node with 24, and a body that goes on after
it with 4 (the last two are found at the end of a record: the model's, log 9). -/
def Obligations.GridRecordKept : Prop :=
  ∀ (share : BitVec 16) (white black : BitVec 24) (count : BitVec 8) (cs : List ContributorBytes) (s : State),
    s.settled → readingSection 7 9 s = true →
    let c : Instr := .gridRecordCheck share white black count cs
    let bytes := 9 + 6 * cs.length
    let sits := fun (x : ContributorBytes) => x.station.toNat < 12 ∧ isMember s.loader.roster x.station.toNat = true
    let good := fun (x : ContributorBytes) => x.share.toNat ≤ 32768 ∧ sits x ∧ x.station.toNat ≠ s.own
    let inOrder := share.toNat ≤ 32768 ∧ count.toNat ≤ 3 ∧ (∀ x ∈ cs, good x) ∧ (cs.map (fun x => x.station)).Nodup
    let ends := (s.pix.grid.length + 1 = s.loader.nodes ↔ s.loader.left = bytes)
    let goesOn := s.loader.left = bytes ∧ s.loader.bytes + s.loader.left < 16 + s.loader.bodyLength
    let fails := fun (k : Nat) => ∃ t, exec c s = .next t ∧ t.ctl.condition = .halted ∧ t.loader.state = .failed ∧
      t.loader.code = some k ∧ t.line.running = true ∧ t.settings = s.settings ∧ t.agr = s.agr
    (inOrder → bytes ≤ s.loader.left → ends → ¬goesOn → ∃ t, exec c s = .next t ∧
      t.pix = { s.pix with grid := s.pix.grid ++ [nodeRecordOf share white black cs] } ∧
      t.loader.bytes = s.loader.bytes + bytes ∧ t.loader.left = s.loader.left - bytes ∧
      t.loader.state = .readingBody ∧ t.loader.inSection = decide (s.loader.left ≠ bytes) ∧
      t = { s with loader := t.loader, pix := t.pix }) ∧
    (32768 < share.toNat → fails 19) ∧
    (share.toNat ≤ 32768 → 3 < count.toNat → fails 20) ∧
    (∀ (before : List ContributorBytes) (x : ContributorBytes) (behind : List ContributorBytes),
      share.toNat ≤ 32768 → count.toNat ≤ 3 → cs = before ++ x :: behind → bytes ≤ s.loader.left →
      (∀ y ∈ before, good y) → (before.map (fun y => y.station)).Nodup →
        (¬ sits x → fails 21) ∧ (sits x → x.station.toNat = s.own → fails 22) ∧
        (sits x → x.station.toNat ≠ s.own → x.station ∈ before.map (fun y => y.station) → fails 23) ∧
        (sits x → x.station.toNat ≠ s.own → x.station ∉ before.map (fun y => y.station) → 32768 < x.share.toNat →
          fails 19)) ∧
    (inOrder → s.loader.left < bytes → fails 24) ∧
    (inOrder → bytes ≤ s.loader.left → ¬ends → fails 24) ∧
    (inOrder → bytes ≤ s.loader.left → ends → goesOn → fails 4)

/-- LOAD_COMPLETE (R24, R80, R181, R188): a CRC that matches puts the image into effect and the station into JOINING; one
that does not halts it with code 25. -/
def Obligations.LoadCompletes : Prop :=
  ∀ (h : Header) (x : Settings) (s : State), s.settled → bodyRead s = true → s.loader.header = some h →
    s.loader.settings = some x →
    (~~~s.loader.crc = h.crc → ∃ t, exec .loadComplete s = .next t ∧ t.ctl = ⟨.joining, 0, 0, 0, 0⟩ ∧
      t.settings = x ∧ t.loader = { s.loader with state := .done } ∧ t.agr = resetAgreement s.own ∧
      t.port = { s.port with state := .active, joined := false } ∧ t.line.running = true ∧ t.line.firstDue = true ∧
      t.line.raster = imageRaster x ∧ t.faults = { s.faults with mask := loadedMask x } ∧
      t = { s with ctl := t.ctl, settings := t.settings, loader := t.loader, agr := t.agr, port := t.port
                   line := t.line, faults := t.faults }) ∧
    (~~~s.loader.crc ≠ h.crc → ∃ t, exec .loadComplete s = .next t ∧ t.ctl.condition = .halted ∧
      t.loader = { s.loader with state := .failed, code := some 25 } ∧ t.settings = s.settings ∧
      t.line.running = true ∧ t.line.raster = imageRaster x ∧
      t.faults.last = some ⟨.imageInvalid, s.line.frameNo, 25⟩)

/-! ## Frame starts -/

/-- FRAME_START in JOINING, LIVE or DARK sets the number (R81, R99), puts the staged trim into effect (R82) and drives the
frame line by the lock state (R84). It comes at once after START (R80), at the time a jump has set (R94), and otherwise one
frame length after the frame start before, exactly, by the trim in effect (R82). That the command brings the stamp of the
first after START and sets the stamp counter to its moment, and that a jump's time has no part of a stamp, are the model's
(logs 1, 11). -/
def Obligations.FrameStartNumbers : Prop :=
  ∀ (first : Stamp) (s : State), s.working = true → s.line.running = true →
    ∃ t, exec (.frameStart first) s = .next t ∧
      t.line.frameNo = (if s.line.firstDue then s.line.frameNo
        else match s.line.target with
          | some n => n + 1
          | none => s.line.frameNo + 1) ∧
      t.line.stamp = t.line.startStamp ∧
      (s.line.firstDue = true → t.line.startStamp = first ∧ t.line.startFrac = ⟨0, 1⟩) ∧
      (∀ x, s.line.firstDue = false → s.line.nextStart = some x →
        t.line.startStamp = x ∧ t.line.startFrac = ⟨0, 1⟩) ∧
      (s.line.firstDue = false → s.line.nextStart = none → 0 < s.line.startFrac.den → 0 < s.line.raster.f0 →
        0 < 2 ^ 24 + s.line.trim → ∃ q : Nat, t.line.startStamp = s.line.startStamp + BitVec.ofNat 32 q ∧
          t.line.startFrac.num < t.line.startFrac.den ∧
          (q : ℚ) + t.line.startFrac.num / t.line.startFrac.den = s.line.startFrac.num / s.line.startFrac.den +
            100000000 * s.line.raster.hTotal * s.line.raster.vTotal * 2 ^ 24 /
              (s.line.raster.f0 * (2 ^ 24 + (s.line.trim : ℚ)))) ∧
      t.line.nextStart = none ∧ t.line.trim = s.line.staged ∧ t.line.staged = s.line.staged ∧
      t.line.integral = s.line.integral ∧ t.line.lock = s.line.lock ∧ t.line.firstDue = false ∧
      t.line.driving = drivingState s.line.lock ∧ t.line.pulling = drivingState s.line.lock ∧
      t.line.jumpWait = s.line.jumpWait - 1 ∧ t.line.sendPending = true ∧ t.line.windowPending = true

/-- The counts of a frame start: listen and aligned (R25), self-silence (R37), the peers' silence (R35; that it counts for the
records of stations outside the roster too is the model's, log 31), the off count of the port (R109), whose new state the others read, and the miss count, the clean run count and input health (R134, R135). -/
def Obligations.FrameStartCounts : Prop :=
  ∀ (first : Stamp) (s : State), s.working = true → s.line.running = true →
    let returns := s.port.state = .off ∧ 64 ≤ s.port.offCount + 1
    let active := s.port.state = .active ∨ returns
    let misses := if s.link.cleanFlag then 0 else satInc 255 s.link.miss
    let held := misses < s.settings.holdLimit ∧ s.link.state = .up
    ∃ t, exec (.frameStart first) s = .next t ∧
      t.ctl.selfSilence = satInc 65535 s.ctl.selfSilence ∧
      (s.ctl.condition = .joining ∧ active → t.ctl.listen = satInc 65535 s.ctl.listen) ∧
      (¬(s.ctl.condition = .joining ∧ active) → t.ctl.listen = s.ctl.listen) ∧
      t.ctl.aligned = (if alignedNow s then satInc 65535 s.ctl.aligned else 0) ∧
      (∀ i < s.agr.peers.length, i ≠ s.own →
        (active → (t.agr.peer i).silence = satInc 65535 (s.agr.peer i).silence) ∧
          (¬active → (t.agr.peer i).silence = (s.agr.peer i).silence)) ∧
      (returns → t.port.state = .active ∧ t.port.joined = false ∧ t.port.failures = 0) ∧
      (s.port.state = .off → ¬returns → t.port.state = .off ∧ t.port.offCount = s.port.offCount + 1) ∧
      t.link.miss = misses ∧ t.link.cleanFlag = false ∧
      (t.link.health = .good ↔ held ∧ (s.link.health = .good ∨ s.settings.rejoin ≤ s.link.cleanRun)) ∧
      t.link.cleanRun = (if s.settings.holdLimit ≤ misses ∨ (s.link.health = .good ∧ s.link.state ≠ .up) then 0
        else s.link.cleanRun) ∧
      (s.link.health = .good → ¬held → t.faults.pending.getLsbD 32 = true) ∧
      t.link.state = s.link.state ∧ t.link.lanes = s.link.lanes ∧ t.link.readers = s.link.readers ∧
      t.link.openFrame = s.link.openFrame

/-- The fade and identify of a frame start: an adopted state is loaded, a pending fade that is due starts, and the step
follows (R56, R58); the decision of identify (R63, R64). A fade step decreases remaining by one, keeps m between its old value
and the target, and reaches the target at the step from 1 to 0 (R56). -/
def Obligations.FrameStartShows : Prop :=
  (∀ (first : Stamp) (s : State), s.working = true → s.line.running = true →
    ∃ t, exec (.frameStart first) s = .next t ∧ t.agr.adopted = none ∧
      (s.agr.pendingFade = none → t.agr.fade = fadeStep (s.agr.adopted.getD s.agr.fade) ∧ t.agr.pendingFade = none) ∧
      (∀ p, s.agr.pendingFade = some p → fadeStarts s.line.frameNo t.line.frameNo p = true →
        t.agr.fade = fadeStep (startFade (s.agr.adopted.getD s.agr.fade).m p) ∧ t.agr.pendingFade = none) ∧
      (∀ p, s.agr.pendingFade = some p → fadeStarts s.line.frameNo t.line.frameNo p = false →
        t.agr.fade = fadeStep (s.agr.adopted.getD s.agr.fade) ∧ t.agr.pendingFade = some p) ∧
      (∀ i, s.agr.identify = some i → identifyEnds t.line.frameNo i = true →
        t.agr.identify = none ∧ t.agr.onFrame = false) ∧
      (∀ i, s.agr.identify = some i → identifyEnds t.line.frameNo i = false →
        t.agr.identify = some i ∧ t.agr.onFrame = identifyOn t.line.frameNo i) ∧
      (s.agr.identify = none → t.agr.identify = none ∧ t.agr.onFrame = false)) ∧
  ∀ f : Fade, (f.remaining = 0 → fadeStep f = f) ∧
    (0 < f.remaining → (fadeStep f).target = f.target ∧ (fadeStep f).remaining = f.remaining - 1 ∧
      min f.m f.target ≤ (fadeStep f).m ∧ (fadeStep f).m ≤ max f.m f.target ∧
      (f.remaining = 1 → (fadeStep f).m = f.target))

/-- A frame start in JOINING, LIVE or DARK at which one record is due, as the record alone that R44 gives the new number; in JOINING
it acts on the view rebuilt from the PULSEs (R45). Its state changes set the memberships, and a station it does not name is as
in the view before. A LIVE change of a station that was no member sets its light factor, and a light change sets its station's
(R44, R48); one of a station that was a member already leaves the factor (R44). Its levels are in effect, and it leaves the
list. A change about this station moves JOINING or DARK to LIVE, and LIVE to DARK with the dwell count at 0, which the frame
start in DARK then makes 1 (R29, R30); one that matches the standing moves nothing (R44). The spare bank that is ready with the
record's tag becomes ACTIVE, or LATE_BANK is reported and the swap is held while the coefficient job waits (R74; the answer for a
record whose job was abandoned is the model's, log 24). A held swap whose bank is ready is made first (R75). Frame starts with
several records due are left out. -/
def Obligations.FrameStartRecords : Prop :=
  ∀ (first : Stamp) (s : State), s.working = true → s.line.running = true → s.agr.peers.length = 12 →
    (s.ctl.condition ≠ .joining → ∀ i, (s.agr.peer i).repair < 2) → s.ctl.selfSilence + 1 < s.settings.silenceTimeout →
    ∃ t, exec (.frameStart first) s = .next t ∧
      let before := fun (i : Nat) => if s.ctl.condition = .joining then
          i < 12 ∧ i ≠ s.own ∧ (t.agr.peer i).silence < s.settings.silenceTimeout ∧
            ∃ p, (s.agr.peer i).pulse = some p ∧ p.condition = .live
        else isMember s.agr.live i = true
      (∀ r, s.agr.epochs.filter (isDue s.line.frameNo t.line.frameNo) = [r] →
        (r.states.map (fun c => c.subject)).Nodup → (r.lights.map (fun c => c.station)).Nodup →
        (∀ c ∈ r.states, c.subject < 12 → isMember t.agr.live c.subject = c.live) ∧
        (∀ i, (∀ c ∈ r.states, c.subject ≠ i) → (isMember t.agr.live i = true ↔ before i)) ∧
        (∀ c ∈ r.lights, c.station < 12 → (t.agr.peer c.station).factor = some ⟨c.lam,
          if c.station = s.own ∨ s.ctl.condition = .joining ∨ isMember t.agr.live c.station = true then .epoch
          else .levels⟩) ∧
        (∀ c ∈ r.states, ∀ lam, c.subject < 12 → c.live = true → c.lam = some lam →
          (∀ l ∈ r.lights, l.station ≠ c.subject) →
          (¬before c.subject → (t.agr.peer c.subject).factor = some ⟨lam, .epoch⟩) ∧
          (before c.subject → (t.agr.peer c.subject).factor = (s.agr.peer c.subject).factor)) ∧
        t.agr.levels = r.levels.getD s.agr.levels ∧
        t.agr.epochs.map (fun x => x.frame) =
          (s.agr.epochs.filter (fun x => !isDue s.line.frameNo t.line.frameNo x)).map (fun x => x.frame) ∧
        (∀ c ∈ r.states, c.subject = s.own → s.own < 12 →
          (c.live = true → ¬before s.own → t.ctl.condition = .live) ∧
          (c.live = false → before s.own → s.ctl.condition = .live → t.ctl.condition = .dark ∧ t.ctl.dwell = 1) ∧
          ((c.live = true ↔ before s.own) → t.ctl.condition = s.ctl.condition)) ∧
        ((∀ c ∈ r.states, c.subject ≠ s.own) → t.ctl.condition = s.ctl.condition) ∧
        (s.sol.lateSwap = none →
          (r.phase = .banked → s.sol.readyFor r.frame = true →
            t.sol.active = { s.sol.spare with status := .active }) ∧
          (¬(r.phase = .banked ∧ s.sol.readyFor r.frame = true) →
            t.sol.active = s.sol.active ∧ t.faults.pending.getLsbD 13 = true ∧
            (r.phase = .cut → s.sol.coeffWaiting r.frame = true → s.agr.epochs = [r] →
              t.sol.lateSwap = some r.frame)))) ∧
      (∀ n, s.agr.epochs.filter (isDue s.line.frameNo t.line.frameNo) = [] → s.sol.lateSwap = some n →
        s.sol.readyFor n = true → t.sol.active = { s.sol.spare with status := .active } ∧ t.sol.lateSwap = none)

/-- The live view of a frame start with no record due: in JOINING it holds the peers whose last PULSE says LIVE and whose
silence count is below the timeout (R45); in LIVE or DARK it stays but for the peers whose repair count stood at 2 with no
state change pending about them, which take the condition of their last PULSE with a VIEW_REPAIR report, and the repair
counts compare with the PULSEs taken in the frame that ended (R46). That a pending state change sets the repair count to 0 also
with no fresh PULSE is the model's (log 31). -/
def Obligations.FrameStartView : Prop :=
  ∀ (first : Stamp) (s : State), s.working = true → s.line.running = true → s.agr.peers.length = 12 →
    ∃ t, exec (.frameStart first) s = .next t ∧
      (s.agr.epochs.filter (isDue s.line.frameNo t.line.frameNo) = [] →
        (s.ctl.condition = .joining → ∀ i, isMember t.agr.live i = true ↔ i < 12 ∧ i ≠ s.own ∧
          (t.agr.peer i).silence < s.settings.silenceTimeout ∧
          ∃ p, (s.agr.peer i).pulse = some p ∧ p.condition = .live) ∧
        (s.ctl.condition ≠ .joining →
          isMember t.agr.live s.own = isMember s.agr.live s.own ∧ ∀ i < 12, i ≠ s.own →
          let x := s.agr.peer i
          let y := t.agr.peer i
          let pending := ∃ r ∈ s.agr.epochs, ∃ c ∈ r.states, c.subject = i
          (¬(¬pending ∧ 2 ≤ x.repair) → isMember t.agr.live i = isMember s.agr.live i) ∧
          (pending → y.repair = 0) ∧
          (¬pending → 2 ≤ x.repair → y.repair = 0 ∧ t.faults.pending.getLsbD 9 = true ∧
            (isMember t.agr.live i = true ↔ ∃ p, x.pulse = some p ∧ p.condition = .live)) ∧
          (¬pending → x.repair < 2 → ∀ p, x.pulse = some p → p.takenIn = s.line.frameNo →
            y.repair = if decide (p.condition = .live) = isMember s.agr.live i then 0 else x.repair + 1) ∧
          (¬pending → x.repair < 2 → (∀ p, x.pulse = some p → p.takenIn ≠ s.line.frameNo) → y.repair = x.repair)))

/-- What a frame start announces, with no record due and no CHANGE waiting: the LIVE change of a station that has heard long
enough (R26), its withdrawal (R27), the departure of a LIVE station (R28), the DARK change about the one silent peer (R36), the
own entry at self-silence (R37), and the LIGHT request (R171). The condition stays, and the dwell count of a DARK station
increases (R30). That these rules read the counts, the port state and the health as this frame start has made them is the order
of log 8, the model's where the rules leave it open. -/
def Obligations.FrameStartChanges : Prop :=
  ∀ (first : Stamp) (s : State), s.working = true → s.line.running = true → s.agr.peers.length = 12 → s.port.state ≠ .disabled →
    s.port.change = [] →
    ∃ t, exec (.frameStart first) s = .next t ∧
      (s.agr.epochs.filter (isDue s.line.frameNo t.line.frameNo) = [] →
        let epoch := t.line.frameNo + BitVec.ofNat 32 s.settings.lead
        let own := s.own
        let queued := fun (b : Body) => (⟨BitVec.ofNat 4 own, b⟩ : Message) ∈ t.port.change
        let cause := t.link.health = .failed ∨ s.light.state = .out
        let reason : Reason := if t.link.health = .failed then .input else .light
        let awaits := s.ctl.condition = .joining ∨ s.ctl.condition = .dark
        let heard := (s.ctl.condition = .joining → max (2 * s.settings.silenceTimeout) 32 ≤ t.ctl.listen) ∧
          (s.ctl.condition = .dark → 64 ≤ t.ctl.dwell)
        t.ctl.condition = s.ctl.condition ∧
        (s.ctl.condition = .dark → t.ctl.dwell = satInc 65535 s.ctl.dwell) ∧
        (awaits → 8 ≤ t.ctl.aligned → t.link.health = .good → s.light.state = .lit → heard → t.port.state = .active →
          s.agr.statePending own = false →
          queued (.change true .join (BitVec.ofNat 8 own) epoch (BitVec.ofNat 16 s.light.filtered)) ∧
            t.light.announced = s.light.filtered ∧ t.light.spacing = 0) ∧
        (awaits → s.agr.statePendingAs own true = true → cause →
          queued (.change false reason (BitVec.ofNat 8 own) epoch 0)) ∧
        (s.ctl.condition = .live → cause → s.agr.statePendingAs own false = false →
          queued (.change false reason (BitVec.ofNat 8 own) epoch 0)) ∧
        (s.ctl.condition ≠ .joining → ∀ i < 12, i ≠ own →
          (isMember t.agr.live i = true ∨ s.agr.statePendingAs i true = true) →
          s.settings.silenceTimeout ≤ (t.agr.peer i).silence → s.agr.statePendingAs i false = false →
          (∀ j < 12, j ≠ i → j ≠ own → (t.agr.peer j).silence < s.settings.silenceTimeout) →
          queued (.change false .silence (BitVec.ofNat 8 i) epoch 0) ∧ t.faults.pending.getLsbD 4 = true) ∧
        (s.ctl.condition = .live → s.settings.silenceTimeout ≤ t.ctl.selfSilence →
          s.agr.statePendingAs own false = false → isMember t.agr.live own = true → s.agr.epochs.length < 8 →
          t.faults.pending.getLsbD 5 = true ∧ ∃ r ∈ t.agr.epochs, r.frame = reEpoch t.line.frameNo epoch ∧
            ⟨own, false, .silent, none⟩ ∈ r.states) ∧
        (s.ctl.condition = .live → s.settings.drift ≤ ((s.light.filtered : Int) - s.light.announced).natAbs →
          256 ≤ satInc 65535 s.light.spacing → s.port.light = [] →
          t.port.light = [⟨BitVec.ofNat 4 own, .light epoch (BitVec.ofNat 16 s.light.filtered)⟩] ∧
            t.light.spacing = 0))

/-- The jobs and the cut of the one pending record at a frame start, when it is not due: within 3 frames its bounds job is
queued (R52); OPEN or BOUNDED and within 1 frame it is cut: its table holds the pairs received of the stations live at its
epoch, and last bounds as stand-ins, reported as STALE_BOUND for a peer (R12, R53; last bounds that came before the record
stood are a stand-in by log 23), its levels are their reduction (R13, R14), a collapse is reported, and its coefficient job is
queued or starts at once, unless one for a later epoch stands (R66, R76); that it replaces one whose epoch lies exactly 2^31 away
is the model's choice (log 24). -/
def Obligations.FrameStartCuts : Prop :=
  ∀ (r : EpochRecord) (first : Stamp) (s : State), s.working = true → s.line.running = true → s.agr.peers.length = 12 →
    s.ctl.selfSilence + 1 < s.settings.silenceTimeout → s.agr.epochs = [r] → (r.bounds.map (fun e => e.station)).Nodup →
    ∃ t, exec (.frameStart first) s = .next t ∧
      (isDue s.line.frameNo t.line.frameNo r = false →
        ∃ x, t.agr.epochs = [x] ∧ x.frame = r.frame ∧ x.states = r.states ∧ x.lights = r.lights ∧
        let near := notAfter r.frame (t.line.frameNo + 3)
        let cuts := (r.phase = .opened ∨ r.phase = .bounded) ∧ notAfter r.frame (t.line.frameNo + 1) = true
        let raw := reduceBounds x.bounds
        let job : Job := ⟨.coeff, r.frame, corrected raw⟩
        (x.jobQueued = true ↔ r.jobQueued = true ∨ near = true) ∧
        (∀ p, s.sol.running = some p → p.job.kind = .bounds → r.jobQueued = false → near = true →
          ⟨.bounds, r.frame, ⟨0, 16777215⟩⟩ ∈ t.sol.queue) ∧
        (¬cuts → x.bounds = r.bounds ∧ x.levels = r.levels) ∧
        (cuts → x.phase = .cut ∧ x.levels = some (corrected raw) ∧
          (∀ e, e ∈ x.bounds ↔
            e.station < 12 ∧ isMember (applyMemberships t.agr.live r.states) e.station = true ∧
            ((e ∈ r.bounds ∧ e.received = true) ∨
              ((∀ y ∈ r.bounds, y.station = e.station → y.received = false) ∧ e.received = false ∧
                (s.agr.peer e.station).bounds.map (fun b => (b.floor, b.ceiling)) = some (e.floor, e.ceiling)))) ∧
          ((∃ e ∈ x.bounds, e.received = false ∧ e.station ≠ s.own) → t.faults.pending.getLsbD 1 = true) ∧
          (raw.ceiling ≤ raw.floor → t.faults.pending.getLsbD 2 = true) ∧
          (s.sol.coeffAlive = none →
            (s.sol.running = none → t.sol.running.map (fun p => p.job) = some job ∧
              t.sol.spare.status = .spareFilling ∧ t.sol.spare.tag = some r.frame) ∧
            ∀ p, s.sol.running = some p → t.sol.running = some p ∧ job ∈ t.sol.queue) ∧
          ∀ p, s.sol.running = some p → p.job.kind = .coeff → s.sol.queue = [] →
            (after p.job.epoch r.frame = true → t.sol.running = some p) ∧
            (after p.job.epoch r.frame = false → t.sol.running.map (fun p => p.job) = some job)))

/-- The selection of a frame start: S is the earliest of the held content numbers of the members' last PULSEs, and absent when
there is none (R143); the latest READY frame that comes after what is shown and not after S becomes SHOWING, the slot shown
before and the READY slots not after it are FREE, and the restart mark is clear (R144, R147); with no such frame everything
stays, and a frame held back is reported as FRAME_REPEAT (R145); CONTENT_BEHIND is reported when what is shown is not S
(R145). That a candidate exactly 32768 from S counts as held back is the model's (log 24). -/
def Obligations.FrameStartSelects : Prop :=
  ∀ (first : Stamp) (s : State), s.working = true → s.line.running = true →
    ∃ t, exec (.frameStart first) s = .next t ∧
      let x := s.store
      let y := t.store
      let given := fun (c : ContentNo) => ∃ i < 12, isMember t.agr.live i = true ∧
        ∃ p, (t.agr.peer i).pulse = some p ∧ p.heldValid = true ∧ p.held = c
      let ready := fun (i : Nat) (c : ContentNo) => i < 4 ∧ (x.slot i).state = .ready ∧ (x.slot i).content = some c ∧
        (x.ordered = true → ∀ r, x.showingNumber = some r → contentAfter c r = true)
      let fits := fun (i : Nat) (c : ContentNo) => ready i c ∧ ∀ f, y.selection = some f → contentNotAfter c f = true
      (x.reference = none → y.selection = none ∧ y.slots = x.slots ∧ y.restartMark = x.restartMark) ∧
      ∀ r, x.reference = some r →
        ((∀ c, ¬ given c) → y.selection = none) ∧
        ((∃ c, given c) → ∃ f, y.selection = some f ∧ given f ∧ ∀ c, given c → contentKey f r ≤ contentKey c r) ∧
        ((∃ i c, fits i c) → ∃ j d, fits j d ∧ (∀ i c, fits i c → contentKey c r ≤ contentKey d r) ∧
          y.restartMark = false ∧ y.slot j = { x.slot j with state := .showing } ∧
          ∀ i, i ≠ j → ((x.slot i).state = .showing → y.slot i = freeSlot) ∧
            (∀ c, (x.slot i).state = .ready → (x.slot i).content = some c →
              y.slot i = if contentNotAfter c d then freeSlot else x.slot i) ∧
            ((x.slot i).state = .filling ∨ (x.slot i).state = .free → y.slot i = x.slot i)) ∧
        ((∀ i c, ¬ fits i c) → y.slots = x.slots ∧ y.restartMark = x.restartMark ∧
          (x.ordered = true → (∃ i c, ready i c) → t.faults.pending.getLsbD 36 = true)) ∧
        ∀ f c, y.selection = some f → y.showingNumber = some c → f ≠ c → t.faults.pending.getLsbD 37 = true

/-- The frame setup is taken at the frame start from what each owner then holds (R151). The codes of a pixel follow from it by
the first case of R157 that applies: raw code 0 outside JOINING, LIVE and DARK (R158), the patch (R159), the identify drive
(R160), the zero drive outside LIVE (R161), and the computed drive, in which K, A and the own share are the blends of R18 and L
is the picture value (R20, R162), each through the output table (R21). L is 0 without a source, and at a position that falls
exactly on a source pixel it is that pixel's value by the input tables, or 0 outside the source frame or where the word cannot be
corrected (R154 to R156). -/
def Obligations.FrameSetupTaken : Prop :=
  (∀ (first : Stamp) (s : State), s.working = true → s.line.running = true →
    ∃ t, exec (.frameStart first) s = .next t ∧
      t.pix.setup = some
        { frame := t.line.frameNo, patchOn := decide (t.line.frameNo.toNat % 8 < 4), identify := t.agr.onFrame
          condition := t.ctl.condition, bank := t.sol.activeNo, m := t.agr.fade.m, source := t.store.showing } ∧
      t.store.memory = s.store.memory ∧ t.store.errors = s.store.errors ∧ t.pix.mesh = s.pix.mesh ∧
      t.pix.grid = s.pix.grid ∧
      t = { s with ctl := t.ctl, agr := t.agr, sol := t.sol, line := t.line, port := t.port, link := t.link
                   store := t.store, pix := t.pix, light := t.light, faults := t.faults }) ∧
  (∀ (s : State) (x y : Nat),
    (s.working = false → pixelCodes s x y = ⟨0, 0, 0⟩) ∧
    ∀ f : Setup, s.working = true → s.pix.setup = some f →
      let st := s.settings
      let patch := (st.patchLeft ≤ x ∧ x < st.patchLeft + st.patchWidth) ∧
        (st.patchTop ≤ y ∧ y < st.patchTop + st.patchHeight)
      let sends := fun (red green blue : Nat) => pixelCodes s x y =
        ⟨outputCode s.pix.output red, outputCode s.pix.output green, outputCode s.pix.output blue⟩
      let blended := fun (g : Nat → Nat → Nat) =>
        ((16 - x % 16) * (16 - y % 16) * g (x / 16) (y / 16) + (x % 16) * (16 - y % 16) * g (x / 16 + 1) (y / 16) +
          (16 - x % 16) * (y % 16) * g (x / 16) (y / 16 + 1) + (x % 16) * (y % 16) * g (x / 16 + 1) (y / 16 + 1) + 128) / 256
      (patch → f.patchOn = true → sends 32768 32768 32768) ∧
      (patch → f.patchOn = false → sends 0 0 0) ∧
      (¬patch → f.identify = true → ∃ d, d = (blended (nodeShare s) + 1) / 2 ∧ sends d d d) ∧
      (¬patch → f.identify = false → f.condition ≠ .live → sends 0 0 0) ∧
      (¬patch → f.identify = false → f.condition = .live →
        let l := pixelLinear s f.source x y
        let drive := fun (v : Nat) => min 32768 (blended (nodeK s f.bank) +
          (f.m * blended (nodeA s f.bank) * v + 67108864) / 134217728)
        sends (drive l.red) (drive l.green) (drive l.blue))) ∧
  ∀ (s : State) (x y : Nat), pixelLinear s none x y = ⟨0, 0, 0⟩ ∧
    ∀ (slot : Nat) (column line : Int), sourceX s x y = 8 * column → sourceY s x y = 8 * line →
      let inside := (0 ≤ column ∧ column < s.settings.inWidth) ∧ (0 ≤ line ∧ line < s.settings.inHeight)
      let a := pixelAddress slot line.toNat column.toNat
      (inside → a ∉ s.store.errors → pixelLinear s (some slot) x y = ⟨s.pix.inputRed.getD (memRead s.store.memory a).red 0,
        s.pix.inputGreen.getD (memRead s.store.memory a).green 0,
        s.pix.inputBlue.getD (memRead s.store.memory a).blue 0⟩) ∧
      (¬inside ∨ a ∈ s.store.errors → pixelLinear s (some slot) x y = ⟨0, 0, 0⟩)

/-! ## The frame line -/

/-- FRAME_LINE_RELEASE 2000 stamps after the frame start (R84), and FRAME_LINE_EDGE, whose stamp a working station
collects (R79, R85). That the commands set the stamp counter to their moment is the model's (log 1), and so is that only a
working station collects edges, and that a release leaves the level seen on the line (log 19). -/
def Obligations.LineReleaseAndEdges : Prop :=
  ∀ s : State, s.settled →
    (s.line.pulling = true → exec .frameLineRelease s =
      .next { s with line := { s.line with pulling := false, stamp := s.line.startStamp + 2000 } }) ∧
    ∀ (falling : Bool) (stamp : Stamp), exec (.frameLineEdge falling stamp) s =
      .next { s with line := { s.line with
        stamp := stamp, low := falling
        edges := if s.working then s.line.edges ++ [⟨falling, stamp⟩] else s.line.edges } }

/-- WINDOW_COMPLETION records the measurement and changes neither trim, number nor driving flag. A window with no edge is a
line fault when the line was low (1) or the station drove it (3), and otherwise holds no edges; a fall without a rise is a line
fault (2); a fall and a rise give the span and the offset, or no edges when they lie less than a pulse apart (R85 to R87). Of
several pulses the first fall in the falling-edge part and the last rise in the rising-edge part after it count (R85, R86); the
last edge before the opening gives the level at the opening, and a line low there is low throughout when no rise follows (R87). A
line fault makes the lock state FREE with the near, quiet, inside, outside and good counts 0 and reports LINE_STUCK with its case
(R87, R88); during a jump wait this is the model's choice (log 25). The model's choices too are that the last measurement of case
2 holds its first fall as t_fall (log 33) and that the command sets the stamp counter to the frame start + Hw + 2000 (log 1). -/
def Obligations.WindowCompletes : Prop :=
  ∀ s : State, s.settled → s.working = true → s.line.windowPending = true →
    let opening := stampDiff s.line.windowOpen s.line.startStamp
    let hw : Int := s.tf / 2
    let rel := fun (x : Stamp) => stampDiff x s.line.startStamp
    ∃ t, exec .windowCompletion s = .next t ∧ t.line.windowPending = false ∧
      t.line.trim = s.line.trim ∧ t.line.frameNo = s.line.frameNo ∧ t.line.driving = s.line.driving ∧
      t.line.stamp = s.line.startStamp + BitVec.ofNat 32 (s.tf / 2 + 2000) ∧
      t = { s with line := t.line, faults := t.faults } ∧
      let stuck := fun (f : Option Stamp) (n : BitVec 16) => t.line.last = ⟨.lineFault, f, none, none⟩ ∧
        t.line.lock = .free ∧ t.line.near = 0 ∧ t.line.quiet = 0 ∧ t.line.inside = 0 ∧ t.line.outside = 0 ∧
        t.line.good = 0 ∧ t.line.staged = s.line.staged ∧ t.line.integral = s.line.integral ∧
        t.faults.last = some ⟨.lineStuck, s.line.frameNo, n⟩
      (s.line.edges = [] → s.line.baseLow = true → stuck none 1) ∧
      (s.line.edges = [] → s.line.baseLow = false → s.line.driving = true → stuck none 3) ∧
      (s.line.edges = [] → s.line.baseLow = false → s.line.driving = false →
        t.line.last = ⟨.noEdges, none, none, none⟩) ∧
      (∀ f, s.line.edges = [⟨true, f⟩] → opening ≤ rel f → rel f < hw → stuck (some f) 2) ∧
      (∀ f r, s.line.edges = [⟨true, f⟩, ⟨false, r⟩] → opening ≤ rel f → rel f < hw → opening ≤ rel r →
        rel r ≤ hw + 2000 →
        let width := rel r - 2000 - rel f
        (width < 0 → t.line.last = ⟨.noEdges, some f, some width, none⟩) ∧
        (0 ≤ width → t.line.last = ⟨.measured, some f, some width, some (-(rel f + width / 2))⟩)) ∧
      let within := fun (x : Edge) => opening ≤ rel x.stamp ∧ rel x.stamp ≤ hw + 2000
      let falls := fun (x : Edge) => x.falling = true ∧ opening ≤ rel x.stamp ∧ rel x.stamp < hw
      (∀ (before behind : List Edge) (f : Stamp), s.line.edges = before ++ ⟨true, f⟩ :: behind → (∀ x ∈ before, ¬falls x) →
        falls ⟨true, f⟩ →
        ((∀ x ∈ behind, x.falling = false → ¬within x) → stuck (some f) 2) ∧
        ∀ (more rest : List Edge) (r : Stamp), behind = more ++ ⟨false, r⟩ :: rest → within ⟨false, r⟩ →
          (∀ x ∈ rest, x.falling = false → ¬within x) →
          let width := rel r - 2000 - rel f
          (width < 0 → t.line.last = ⟨.noEdges, some f, some width, none⟩) ∧
          (0 ≤ width → t.line.last = ⟨.measured, some f, some width, some (-(rel f + width / 2))⟩)) ∧
      ∀ before behind : List Edge, s.line.edges = before ++ behind → (∀ x ∈ before, rel x.stamp < opening) →
        (∀ x ∈ behind, opening ≤ rel x.stamp ∧ ¬falls x) →
        let low := (before.getLast?.map (fun x => x.falling)).getD s.line.baseLow = true ∧
          ∀ x ∈ behind, x.falling = false → ¬within x
        (low → stuck none 1) ∧ (¬low → s.line.driving = true → stuck none 3) ∧
        (¬low → s.line.driving = false → t.line.last = ⟨.noEdges, none, none, none⟩)

/-- The moves of the lock state at a completion that is no line fault: those of LISTEN, with its near and quiet counts and its
jump wait (R89, R95), ALONE (R90), PULLING (R91), LOCKED (R92) and FREE (R93), the jump (R94), the steering of R96, with the
integral term and the staged trim within their limits (R97), and the reports FAR_PHASE, LOCK_LOST and FRAME_JUMP. That a
station that is LIVE in LISTEN jumps is the model's choice (log 25). -/
def Obligations.LockMoves : Prop :=
  ∀ s : State, s.settled → s.working = true → s.line.windowPending = true →
    let m := (measure s.line s.halfWidth).1
    let l := s.line
    let window := s.settings.lockWindow
    let live := s.ctl.condition = .live
    m.cls ≠ .lineFault →
    ∃ t, exec .windowCompletion s = .next t ∧ t.line.last = m ∧
      let far := fun (e : Int) => s.tf / 16 < e.natAbs
      let cleared := t.line.near = 0 ∧ t.line.quiet = 0 ∧ t.line.inside = 0 ∧ t.line.outside = 0 ∧ t.line.good = 0
      let goesTo := fun (x : LockState) => t.line.lock = x ∧ cleared
      let stays := t.line.lock = l.lock
      let holds := t.line.integral = l.integral ∧ t.line.staged = l.staged ∧ t.line.nextStart = l.nextStart ∧
        t.line.jumpWait = l.jumpWait
      let steers := fun (e : Int) =>
        let most : Int := roundDiv (s.settings.pullRange * 2 ^ 24) 1000000
        let u := roundDivInt (e * 2 ^ 24) s.tf
        let i := clampInt most (l.integral + truncDiv u 64)
        t.line.integral = i ∧ t.line.nextStart = l.nextStart ∧ t.line.jumpWait = l.jumpWait ∧
          t.line.staged = l.trim + clampInt s.settings.slew (clampInt most (i + truncDiv u 8) - l.trim)
      let told := fun (k : FaultKind) (e : Int) =>
        t.faults.last = some ⟨k, l.frameNo, BitVec.ofNat 16 (min (e.natAbs / 64) 65535)⟩
      let silent := t.faults = s.faults
      let jumps := fun (e : Int) => t.line.lock = .listen ∧ t.line.near = 0 ∧ t.line.quiet = 0 ∧ t.line.integral = 0 ∧
        t.line.staged = l.staged ∧ t.line.jumpWait = 2 + s.own ∧ told .frameJump e ∧
        t.line.nextStart = some (l.startStamp + BitVec.ofInt 32
          (if (s.tf : Int) - e ≤ s.tf / 2 + 2000 then 2 * s.tf - e else s.tf - e))
      (m.cls = .noEdges →
        holds ∧
        (l.lock = .listen → silent ∧
          (l.jumpWait = 0 ∧ 8 ≤ l.quiet + 1 → goesTo .alone) ∧
          (¬(l.jumpWait = 0 ∧ 8 ≤ l.quiet + 1) → stays ∧ t.line.quiet = l.quiet + 1 ∧ t.line.near = 0)) ∧
        (l.lock = .alone ∨ l.lock = .pulling ∨ l.lock = .locked →
          silent ∧ stays ∧ t.line.inside = 0 ∧ t.line.outside = 0)) ∧
      (l.lock = .free → holds ∧ silent ∧
        (8 ≤ l.good + 1 → live → goesTo .pulling) ∧ (8 ≤ l.good + 1 → ¬live → goesTo .listen) ∧
        (l.good + 1 < 8 → stays ∧ t.line.good = l.good + 1)) ∧
      ∀ (width e : Int), m.cls = .measured → m.span = some width → m.e = some e →
        (l.lock = .listen →
          (far e → jumps e) ∧
          (¬far e → holds ∧ silent ∧ (l.jumpWait = 0 ∧ 4 ≤ l.near + 1 → goesTo .pulling) ∧
            (¬(l.jumpWait = 0 ∧ 4 ≤ l.near + 1) → stays ∧ t.line.near = l.near + 1 ∧ t.line.quiet = 0))) ∧
        (l.lock = .alone →
          (width = 0 → steers e ∧ silent ∧ stays) ∧
          (width ≠ 0 → ¬far e → steers e ∧ silent ∧ goesTo .pulling) ∧
          (width ≠ 0 → far e → live → steers e ∧ told .farPhase e ∧ goesTo .pulling) ∧
          (width ≠ 0 → far e → ¬live → jumps e ∧ cleared)) ∧
        (l.lock = .pulling →
          (far e → live → steers e ∧ told .farPhase e ∧ stays ∧ t.line.inside = 0) ∧
          (far e → ¬live → jumps e ∧ cleared) ∧
          (¬far e → steers e ∧ silent ∧
            (e.natAbs ≤ window → 8 ≤ l.inside + 1 → goesTo .locked) ∧
            (e.natAbs ≤ window → l.inside + 1 < 8 → stays ∧ t.line.inside = l.inside + 1) ∧
            (window < e.natAbs → stays ∧ t.line.inside = 0))) ∧
        (l.lock = .locked → steers e ∧
          (e.natAbs ≤ window → silent ∧ stays ∧ t.line.outside = 0) ∧
          (window < e.natAbs → 3 ≤ l.outside + 1 ∨ 4 * window < e.natAbs → told .lockLost e ∧ goesTo .pulling) ∧
          (window < e.natAbs → ¬(3 ≤ l.outside + 1 ∨ 4 * window < e.natAbs) →
            silent ∧ stays ∧ t.line.outside = l.outside + 1))

/-- SEND_EVENT, once in each frame, queues the PULSE of the frame in progress, and the LEVELS in the station's slot (R59, R83,
R113, R114): with no message of its kind on the bus each stands alone in its place, and behind one on the bus the new one
displaces what waited there; a PULSE displaced is reported. In HALTED nothing is queued. That a second one in the frame, and one
before the first frame start, does nothing is the model's (log 2), and so is that the command sets the stamp counter to its
moment (log 1). -/
def Obligations.SendEventQueues : Prop :=
  ∀ s : State, s.line.running = true →
    let line := { s.line with stamp := s.line.startStamp + BitVec.ofNat 32 (s.tf / 8), sendPending := false }
    let pulse : Message := ⟨BitVec.ofNat 4 s.own, .pulse (pulseConditionNow s.ctl.condition) s.line.driving s.heldValid
      s.line.frameNo (s.store.heldValue.getD 0)⟩
    let levels : Message := ⟨BitVec.ofNat 4 s.own, .levels
      (BitVec.ofNat 16 (((s.agr.peer s.own).factor.map (fun f => f.lam)).getD 16384)) (BitVec.ofNat 16 s.agr.fade.m)
      (BitVec.ofNat 16 s.agr.fade.target) (BitVec.ofNat 16 s.agr.fade.remaining)⟩
    let slot := s.line.frameNo.toNat % 16 = s.own
    (s.settled → s.line.sendPending = false → exec .sendEvent s = .next s) ∧
    (s.settled → s.working = false → s.line.sendPending = true → exec .sendEvent s = .next { s with line := line }) ∧
    (s.working = true → s.port.state ≠ .disabled → s.line.sendPending = true → ∃ t, exec .sendEvent s = .next t ∧
      t.line = line ∧ t = { s with port := t.port, line := t.line, faults := t.faults } ∧
      (s.port.attempt = none → t.port = { s.port with
        pulse := [pulse], levels := if slot then [levels] else s.port.levels }) ∧
      ∀ m rest, s.port.attempt = some m → kindCode m.body = 3 → s.port.pulse = m :: rest →
        t.port = { s.port with pulse := [m, pulse], levels := if slot then [levels] else s.port.levels } ∧
        (rest ≠ [] → t.faults.pending.getLsbD 22 = true)) ∧
    (s.working = true → s.port.state ≠ .disabled → s.line.sendPending = true →
      (∀ m, s.port.attempt = some m → kindCode m.body ≠ 3) → ∃ t, exec .sendEvent s = .next t ∧
      t.port.pulse = [pulse] ∧ (s.port.pulse ≠ [] → t.faults.pending.getLsbD 22 = true) ∧
      (slot → ∀ m rest, s.port.attempt = some m → kindCode m.body = 6 → s.port.levels = m :: rest →
        t.port.levels = [m, levels]) ∧
      (slot → (∀ m, s.port.attempt = some m → kindCode m.body ≠ 6) → t.port.levels = [levels]) ∧
      (¬slot → t.port.levels = s.port.levels) ∧
      t = { s with port := { s.port with pulse := t.port.pulse, levels := t.port.levels }, line := line, faults := t.faults })

/-! ## The node solver -/

/-- BOUNDS_PASS_COMPLETE by the four courses of R52: while the record for the pass's epoch stands, a pass at whose epoch this
station is live queues its pair of R8 and R9 as BOUNDS, and one at whose epoch it is not queues nothing (R69); the record
becomes BOUNDED when it is OPEN, and keeps its phase when it has been cut; with the record removed nothing is queued.
NODE_DEGENERATE is reported in every course (R10). -/
def Obligations.BoundsPassCompletes : Prop :=
  ∀ (p : Pass) (s : State), s.sol.running = some p → p.job.kind = .bounds →
    ∃ t, exec .boundsPassComplete s = .next t ∧ t.agr.live = s.agr.live ∧
      t.agr.peers = s.agr.peers ∧ t.agr.levels = s.agr.levels ∧
      t = { s with port := t.port, agr := t.agr, sol := t.sol, faults := t.faults } ∧
      (0 < degenerateCount p s.own s.pix.grid → t.faults.pending.getLsbD (faultNumber .nodeDegenerate) = true) ∧
      (∀ r, s.agr.record p.job.epoch = some r →
        (p.ownLive s.own = true → s.port.state ≠ .disabled → s.port.bounds.length < 8 →
          t.port = { s.port with bounds := s.port.bounds ++ [⟨BitVec.ofNat 4 s.own, .bounds (p.job.epoch.setWidth 16)
            (BitVec.ofNat 24 (floorBound p s.own s.pix.grid)) (BitVec.ofNat 24 (ceilingBound p s.own s.pix.grid))⟩] }) ∧
        (p.ownLive s.own = false → t.port = s.port) ∧
        (r.phase = .opened → (t.agr.record p.job.epoch).map (fun x => x.phase) = some .bounded) ∧
        (r.phase = .cut ∨ r.phase = .banked → (t.agr.record p.job.epoch).map (fun x => x.phase) = some r.phase)) ∧
      (s.agr.record p.job.epoch = none → t.port = s.port ∧ t.agr.record p.job.epoch = none)

/-- COEFF_PASS_COMPLETE: the spare holds K and A of every node by R15 to R17 and is SPARE_READY with its tag; the ACTIVE
bank is untouched; a CUT record becomes BANKED (R71, R72). K is the quotient of R15 to nearest, halves up, 0 when the floor is
not above the black sum, and at most 32768; A is that of R16, 0 when the ceiling is not above the floor, and at most 32768 − K;
both are 0 at an empty and at a degenerate node and when this station is not live at the epoch (R17). -/
def Obligations.CoeffPassCompletes : Prop :=
  (∀ (p : Pass) (s : State), s.sol.running = some p → p.job.kind = .coeff → (∀ j ∈ s.sol.queue, j.kind = .bounds) →
    ∃ t, exec .coeffPassComplete s = .next t ∧
      t.sol.spare = ⟨s.pix.grid.map (nodeCoeff p s.own), some p.job.epoch, .spareReady⟩ ∧
      t.sol.active = s.sol.active ∧
      (∀ r, s.agr.record p.job.epoch = some r → r.phase = .cut →
        (t.agr.record p.job.epoch).map (fun x => x.phase) = some .banked) ∧
      t.agr.live = s.agr.live ∧ t.agr.peers = s.agr.peers ∧ t.agr.levels = s.agr.levels ∧
      t = { s with agr := t.agr, sol := t.sol, faults := t.faults }) ∧
  ∀ (p : Pass) (own : Nat) (n : NodeRecord),
    let l := stageOne p own n
    let levels := p.job.levels
    let coeff := nodeCoeff p own n
    let divisor := l.shareSum * (l.white - l.black)
    let nearest := fun (q num : Nat) => q * (2 * divisor) ≤ 2 * num + divisor ∧ 2 * num + divisor < (q + 1) * (2 * divisor)
    (isMember p.live own = true → 0 < n.share → l.black < l.white →
      (levels.floor ≤ l.blackSum → coeff.k = 0) ∧
      (l.blackSum < levels.floor →
        ∃ q, nearest q (32768 * n.share * (levels.floor - l.blackSum)) ∧ coeff.k = min q 32768) ∧
      (levels.ceiling ≤ levels.floor → coeff.a = 0) ∧
      (levels.floor < levels.ceiling →
        ∃ q, nearest q (32768 * n.share * (levels.ceiling - levels.floor)) ∧ coeff.a = min q (32768 - coeff.k))) ∧
    (isMember p.live own = false ∨ n.share = 0 ∨ l.white ≤ l.black → coeff = ⟨0, 0⟩)

/-- The floor bound is the largest black sum over the nodes with σ0 above 0, degenerate ones included, or 0; the ceiling
bound is the smallest ceiling term, bs + floor((Wa − Ba) × Σs ÷ σ0) saturated, over the nodes with σ0 above 0 and Wa above Ba, or
16,777,215 (R8, R9). -/
def Obligations.BoundsAreExtremes : Prop :=
  ∀ (p : Pass) (own : Nat) (grid : List NodeRecord),
    (∀ n ∈ grid, 0 < n.share → (stageOne p own n).blackSum ≤ floorBound p own grid) ∧
    (floorBound p own grid = 0 ∨
      ∃ n ∈ grid, 0 < n.share ∧ (stageOne p own n).blackSum = floorBound p own grid) ∧
    (∀ n ∈ grid, serves n (stageOne p own n) = true → ceilingBound p own grid ≤ ceilingTerm n (stageOne p own n)) ∧
    (ceilingBound p own grid = 16777215 ∨
      ∃ n ∈ grid, serves n (stageOne p own n) = true ∧ ceilingTerm n (stageOne p own n) = ceilingBound p own grid) ∧
    ∀ (n : NodeRecord) (l : NodeLight), (serves n l = true ↔ 0 < n.share ∧ l.black < l.white) ∧
      ceilingTerm n l = min (l.blackSum + (l.white - l.black) * l.shareSum / n.share) 16777215

/-- F_N is the largest floor bound and C_N the smallest ceiling bound of the pairs taken, and the correction of R14 makes
C at least F + 1, changing nothing where it already is (R13, R14). -/
def Obligations.CutLevelsOpen : Prop :=
  ∀ l : List BoundsEntry, (∀ e ∈ l, e.floor ≤ 16777215 ∧ e.ceiling ≤ 16777215) →
    let q := reduceBounds l
    (l = [] → q = ⟨0, 16777215⟩) ∧ (∀ e ∈ l, e.floor ≤ q.floor ∧ q.ceiling ≤ e.ceiling) ∧
    (l ≠ [] → (∃ e ∈ l, e.floor = q.floor) ∧ ∃ e ∈ l, e.ceiling = q.ceiling) ∧
    (corrected q).open ∧ (q.open → corrected q = q) ∧ (corrected q).ceiling ≤ 16777215 ∧
    (q.ceiling ≤ q.floor → q.floor < 16777215 → corrected q = ⟨q.floor, q.floor + 1⟩) ∧
    (q.ceiling ≤ q.floor → q.floor = 16777215 → corrected q = ⟨16777214, 16777215⟩)

/-- The output code lies between the table's two entries around the drive, so in 0 to 4095, and a larger drive never gives
a smaller code (R21). -/
def Obligations.OutputCodeMonotone : Prop :=
  ∀ (table : List Nat) (d e : Nat), table.length = 1025 → (∀ v ∈ table, v ≤ 4095) →
    (∀ i < 1024, table.getD i 0 ≤ table.getD (i + 1) 0) → d ≤ e → e ≤ 32768 →
    table.getD (d / 32) 0 ≤ outputCode table d ∧ (d < 32768 → outputCode table d ≤ table.getD (d / 32 + 1) 0) ∧
      outputCode table d ≤ 4095 ∧ outputCode table d ≤ outputCode table e

/-! ## The peer bus -/

/-- A message of a legal sender is carried by its frame: reading the frame of R103 to R105 back by the checks of R111
gives the message, whatever its fields. -/
def Obligations.MessageRoundTrip : Prop :=
  ∀ m : Message, (kindCode m.body = 2 ↔ 12 ≤ m.sender.toNat) →
    frameMessage (messageFrame m) = some m ∧ (messageFrame m).wellFormed = true

/-- STATION_CLASH: a base-format data frame with this station's number halts the station and goes no further (R31, R32,
R78, R84, R117, R119). The frame setup is set aside: of the frame in progress, the pixels whose time begins before the halt were
sent under it, and the rest, like every pixel of the frames that follow, is raw code 0 (R158). That the halt comes at the stamp
counter's value, and a pixel that begins at that stamp is the next one sent, is the model's (log 30). -/
def Obligations.ClashHalts : Prop :=
  ∀ (f : BusFrame) (s : State), s.settled → takesFrames s = true → f.extended = false → f.remote = false →
    (idSender f.identifier).toNat = s.own →
    ∃ t, exec (.stationClash f) s = .next t ∧ t.ctl = { s.ctl with condition := .halted } ∧ t.agr = s.agr ∧
      t.port.heads = [] ∧ (s.port.attempt = none → t.port.state = .disabled) ∧
      t.line = { s.line with pulling := false, haltPlace := t.line.haltPlace } ∧ t.pix.aside = s.pix.setup ∧
      (∀ x y, pixelCodes t x y = ⟨0, 0, 0⟩) ∧
      (s.line.running = true → s.line.firstDue = false → 0 < s.line.startFrac.den → 0 < s.line.raster.f0 →
        0 < 2 ^ 24 + s.line.trim → ∀ (x y : Nat),
          let begins := (s.line.startFrac.num : ℚ) / s.line.startFrac.den + ((y * s.line.raster.hTotal + x : Nat) : ℚ) *
            100000000 * 2 ^ 24 / (s.line.raster.f0 * (2 ^ 24 + (s.line.trim : ℚ)))
          let now := ((stampDiff s.line.stamp s.line.startStamp).toNat : ℚ)
          (begins < now → sentCodes t x y = pixelCodes s x y) ∧ (now ≤ begins → sentCodes t x y = ⟨0, 0, 0⟩)) ∧
      (s.line.running = false ∨ s.line.firstDue = true → t.line.haltPlace = none) ∧
      (∀ first, ∃ u, exec (.frameStart first) t = .next u ∧ ∀ x y, sentCodes u x y = ⟨0, 0, 0⟩) ∧
      t.sol.queue = [] ∧ t.sol.running = none ∧ t.sol.lateSwap = none ∧
      t.link.state = .down ∧ t.link.openFrame = none ∧ t.link.health = .failed ∧ t.pix.setup = none ∧
      t.light.held = none ∧ t.faults.last = some ⟨.stationClash, s.line.frameNo, f.identifier.setWidth 16⟩ ∧
      t = { s with ctl := t.ctl, port := t.port, line := t.line, sol := t.sol, link := t.link, store := t.store
                   pix := t.pix, light := t.light, faults := t.faults }

/-- A station that takes no frames changes nothing at any frame of the bus (R31, R106, R108). FOREIGN_MESSAGE: a frame that
fails a check of R111 is reported once and goes no further; a station outside the roster reports STRAY_STATION. -/
def Obligations.RefusedFrames : Prop :=
  (∀ s : State, s.settled → takesFrames s = false →
    (∀ f, exec (.stationClash f) s = .next s) ∧ (∀ f, exec (.foreignMessage f) s = .next s) ∧
    (∀ i l r j e x, exec (.receiveChange i l r j e x) s = .next s) ∧ (∀ i e x, exec (.receiveLight i e x) s = .next s) ∧
    (∀ i c d v n h, exec (.receivePulse i c d v n h) s = .next s) ∧
    (∀ i e f c, exec (.receiveBounds i e f c) s = .next s) ∧
    (∀ i a b c d, exec (.receiveLevels i a b c d) s = .next s) ∧ (∀ i a b c, exec (.showFade i a b c) s = .next s) ∧
    (∀ i a b c d, exec (.showIdentify i a b c d) s = .next s) ∧ ∀ i e, exec (.showIdentifyOff i e) s = .next s) ∧
  ∀ (f : BusFrame) (s : State), s.settled → takesFrames s = true → clashes s.own f = false →
    (frameMessage f = none → exec (.foreignMessage f) s = .next (reported .foreignMessage f.identifier.toNat s)) ∧
    ∀ m, frameMessage f = some m → m.sender.toNat < 12 → isMember s.settings.roster m.sender.toNat = false →
      exec (.foreignMessage f) s = .next (reported .strayStation m.sender.toNat s)

/-- RECEIVE_PULSE: the sender's record takes the PULSE with the own frame number, its silence count is 0, and the number
is considered for count adoption (R34, R98, R112). -/
def Obligations.PulseTaken : Prop :=
  ∀ (i : BitVec 4) (c : PulseCondition) (d v : Bool) (n : FrameNo) (h : ContentNo) (s : State),
    s.settled → takesFrames s = true → i.toNat < 12 → i.toNat ≠ s.own → isMember s.settings.roster i.toNat = true →
    s.agr.peers.length = 12 →
    let adopts := s.ctl.condition = .joining ∨ s.ctl.condition = .dark ∨
      (s.ctl.condition = .live ∧ s.line.lock = .locked ∧ c = .live ∧ d = true)
    ∃ t, exec (.receivePulse i c d v n h) s = .next t ∧
      s.agr.onlyPeer t.agr i.toNat { s.agr.peer i.toNat with
        heard := true, pulse := some ⟨n, h, v, c, d, s.line.frameNo⟩, silence := 0 } ∧
      t.agr.live = s.agr.live ∧ t.agr.epochs = s.agr.epochs ∧ t = { s with agr := t.agr, line := t.line } ∧
      (adopts ∧ after n (s.line.target.getD s.line.frameNo) = true → t.line = { s.line with target := some n }) ∧
      (¬(adopts ∧ after n (s.line.target.getD s.line.frameNo) = true) → t.line = s.line)

/-- RECEIVE_BOUNDS and RECEIVE_LEVELS: the sender's last bounds and last LEVELS are written; a BOUNDS of no pending epoch
reports STRAY_BOUND and one of a cut record leaves the record (R54). A LEVELS sets the light factor, with source LEVELS, in
JOINING, and in LIVE or DARK where the entry is absent or has source LEVELS (R48); it is adopted in JOINING or DARK from a member
of the live view with both values at most 4096, and is otherwise written alone (R60, R61). -/
def Obligations.BoundsAndLevelsTaken : Prop :=
  ∀ (i : BitVec 4) (s : State), s.settled → takesFrames s = true → i.toNat < 12 → i.toNat ≠ s.own →
    isMember s.settings.roster i.toNat = true → s.agr.peers.length = 12 →
    (∀ (e : BitVec 16) (f c : BitVec 24), ∃ t, exec (.receiveBounds i e f c) s = .next t ∧
      s.agr.onlyPeer t.agr i.toNat { s.agr.peer i.toNat with heard := true, bounds := some ⟨e, f.toNat, c.toNat⟩ } ∧
      t.agr.live = s.agr.live ∧ t.agr.levels = s.agr.levels ∧ t = { s with agr := t.agr, faults := t.faults } ∧
      boundsMatched i.toNat e f.toNat c.toNat s t) ∧
    (∀ (lam m g k : BitVec 16), ∃ t, exec (.receiveLevels i lam m g k) s = .next t ∧
      s.agr.onlyPeer t.agr i.toNat { s.agr.peer i.toNat with
        heard := true, levels := some ⟨lam.toNat, m.toNat, g.toNat, k.toNat⟩
        factor := if s.ctl.condition = .joining ∨ (∀ f, (s.agr.peer i.toNat).factor = some f → f.source = .levels)
          then some ⟨lam.toNat, .levels⟩ else (s.agr.peer i.toNat).factor } ∧
      t = { s with agr := t.agr } ∧ t.agr.epochs = s.agr.epochs ∧ t.agr.fade = s.agr.fade ∧
      ((s.ctl.condition = .joining ∨ s.ctl.condition = .dark) ∧ isMember s.agr.live i.toNat = true ∧
          m.toNat ≤ 4096 ∧ g.toNat ≤ 4096 →
        t.agr.adopted = some (if k = 0 then ⟨m.toNat, m.toNat, 0⟩ else ⟨m.toNat, g.toNat, k.toNat⟩)) ∧
      (¬((s.ctl.condition = .joining ∨ s.ctl.condition = .dark) ∧ isMember s.agr.live i.toNat = true ∧
          m.toNat ≤ 4096 ∧ g.toNat ≤ 4096) → t.agr.adopted = s.agr.adopted))

/-- RECEIVE_LIGHT: the light change of the sender is pending in one record alone, at its epoch after re-epoch, or in a full list
in the record that R43 names, with the LATE_CHANGE and EPOCH_MERGE reports of R40 and R43; no state change is touched (R42, R50).
That an epoch 2^31 − 3 to 2^31 after current + 3 is placed where it stands is the model's choice (log 24). -/
def Obligations.LightTaken : Prop :=
  ∀ (i : BitVec 4) (e : FrameNo) (lam : BitVec 16) (s : State), takesFrames s = true → i.toNat < 12 →
    i.toNat ≠ s.own → isMember s.settings.roster i.toNat = true →
    ∃ t, exec (.receiveLight i e lam) s = .next t ∧
      lightStands i.toNat lam.toNat e s t ∧
      (∀ c, c ∈ t.agr.epochs.flatMap (fun r => r.states) ↔ c ∈ s.agr.epochs.flatMap (fun r => r.states)) ∧
      t.agr.live = s.agr.live ∧ t = { s with agr := t.agr, sol := t.sol, faults := t.faults }

/-- RECEIVE_CHANGE about a station of the roster that its sender may announce: it withdraws what is pending when it matches
the subject's standing, and is otherwise pending in one record alone, at its epoch after re-epoch, or in a full list in the record
that R43 names, with the LATE_CHANGE and EPOCH_MERGE reports (R39 to R43); a subject outside the roster reports STRAY_STATION, and
a foreign LIVE change is ignored (R39). That an epoch 2^31 − 3 to 2^31 after current + 3 is placed where it stands is the model's
choice (log 24). -/
def Obligations.ChangeTaken : Prop :=
  ∀ (i : BitVec 4) (live : Bool) (why : Reason) (j : BitVec 8) (e : FrameNo) (lam : BitVec 16) (s : State),
    s.settled → takesFrames s = true → i.toNat < 12 → i.toNat ≠ s.own → isMember s.settings.roster i.toNat = true →
    ∃ t, exec (.receiveChange i live why j e lam) s = .next t ∧ t.agr.live = s.agr.live ∧
      t = { s with agr := t.agr, sol := t.sol, faults := t.faults } ∧
      (isMember s.settings.roster j.toNat = false →
        t.agr.epochs = s.agr.epochs ∧ t.faults.last = some ⟨.strayStation, s.line.frameNo, j.setWidth 16⟩) ∧
      (isMember s.settings.roster j.toNat = true → live = true → j.toNat ≠ i.toNat →
        t.agr.epochs = s.agr.epochs ∧ t.faults = s.faults) ∧
      (isMember s.settings.roster j.toNat = true → (live = true → j.toNat = i.toNat) →
        changeStands ⟨j.toNat, live, why, if live then some lam.toNat else none⟩ e s t)

/-- SHOW_FADE, SHOW_IDENTIFY and SHOW_IDENTIFY_OFF from a control node (R57, R62, R64). That a FADE whose start lies exactly 2^31
from current is taken as late is the model's choice (log 24). -/
def Obligations.ShowsTaken : Prop :=
  ∀ (i : BitVec 4) (s : State), s.settled → takesFrames s = true → 12 ≤ i.toNat → i.toNat ≠ s.own →
    s.agr.peers.length = 12 →
    (∀ (n : FrameNo) (g k : BitVec 16),
      (4096 < g.toNat → exec (.showFade i n g k) s = .next (reported .showRange 1 s)) ∧
      (g.toNat ≤ 4096 → after n s.line.frameNo = true → exec (.showFade i n g k) s =
        .next { s with agr := { s.agr with pendingFade := some ⟨n, g.toNat, k.toNat⟩ } }) ∧
      (g.toNat ≤ 4096 → after n s.line.frameNo = false → exec (.showFade i n g k) s =
        .next (reported .lateShow (n.setWidth 16).toNat
          { s with agr := { s.agr with pendingFade := some ⟨s.line.frameNo + 1, g.toNat, k.toNat⟩ } }))) ∧
    (∀ (n : FrameNo) (mask : BitVec 16) (p o : BitVec 8),
      (p = 0 ∨ p.toNat < o.toNat → exec (.showIdentify i n mask p o) s = .next (reported .showRange 2 s)) ∧
      (¬(p = 0 ∨ p.toNat < o.toNat) → exec (.showIdentify i n mask p o) s =
        .next (if mask.getLsbD s.own
          then { s with agr := { s.agr with identify := some ⟨n, p.toNat, o.toNat, none⟩ } } else s))) ∧
    ∀ n : FrameNo, exec (.showIdentifyOff i n) s = .next { s with agr := { s.agr with
      identify := s.agr.identify.map (fun x => { x with endFrame := some n }) } }

/-- BUS_IDLE_JOIN, BEGIN_ATTEMPT and LOST_ARBITRATION: an ACTIVE port takes part; it offers the head of lowest identifier;
losing arbitration keeps the message and the failure count (R102, R106, R115), and a newer message behind it in a single place
waits on (the model's, log 10). ATTEMPT_FAILED: the failure count increases by one and the message stays at the head; at 16
PORT_OFF is reported and the port is OFF with the off count at 0 (R107, R108); a failed PULSE with a newer one behind it is
displaced (R114). At a halted station the attempt ends with the port DISABLED (R117); a failure counts (R107), and that the
sixteenth reports PORT_OFF there too is the model's reading (log 27). -/
def Obligations.AttemptsBeginAndFail : Prop :=
  (∀ s : State, s.settled → s.working = true → s.port.state = .active →
    exec .busIdleJoin s = .next { s with port := { s.port with joined := true } } ∧
    (s.port.joined = true → s.port.attempt = none → s.port.heads ≠ [] → ∃ m ∈ s.port.heads,
      (∀ x ∈ s.port.heads, (identifier m).toNat ≤ (identifier x).toNat) ∧
      exec .beginAttempt s = .next { s with port := { s.port with attempt := some m } }) ∧
    (s.port.attempt ≠ none → exec .lostArbitration s = .next { s with port := { s.port with attempt := none } })) ∧
  (∀ (m : Message) (s : State), s.settled → s.working = true → s.port.attempt = some m →
    (s.port.displacedAtFailure m.body = false → s.port.failures + 1 < 16 → exec .attemptFailed s =
      .next { s with port := { s.port with attempt := none, failures := s.port.failures + 1 } }) ∧
    (s.port.displacedAtFailure m.body = false → s.port.failures + 1 = 16 → exec .attemptFailed s =
      .next (reported .portOff (identifier m).toNat { s with port := { s.port with
        attempt := none, failures := 16, state := .off, joined := false, offCount := 0 } })) ∧
    (∀ c d v n h, m.body = .pulse c d v n h → 1 < s.port.pulse.length → s.port.failures + 1 < 16 →
      exec .attemptFailed s = .next (reported .pulseSkipped (n.setWidth 16).toNat { s with port := { s.port with
        attempt := none, failures := s.port.failures + 1, pulse := s.port.pulse.drop 1 } }))) ∧
  ∀ (m : Message) (s : State), s.settled → s.working = false → s.port.attempt = some m →
    let off := { s.port with attempt := none, state := .disabled, joined := false }
    exec .lostArbitration s = .next { s with port := off } ∧
    (s.port.failures + 1 < 16 →
      exec .attemptFailed s = .next { s with port := { off with failures := s.port.failures + 1 } }) ∧
    (s.port.failures + 1 = 16 → exec .attemptFailed s =
      .next (reported .portOff (identifier m).toNat { s with port := { off with failures := 16 } }))

/-- MESSAGE_COMPLETE: the message leaves its queue, the failure count is 0, and the message is handed to the agreement unit
(R116): an own PULSE is written into the self record and sets the self-silence count to 0 (R34, R37); an own LIGHT gives the
announced factor (R170) and is pending, and an own CHANGE goes through R39 to R43, each as a received one, with an epoch 2^31 − 3
to 2^31 after current + 3 placed where it stands by the model's choice (log 24); an own BOUNDS becomes the last
bounds of the self record and enters the record of its epoch, or reports STRAY_BOUND (R54, R55); and an own LEVELS is written
into the self record alone (R60). In HALTED the failure count is 0, nothing is handed over and the port is DISABLED (R116,
R117). -/
def Obligations.MessageCompletes : Prop :=
  ∀ (m : Message) (s : State), s.port.attempt = some m →
    (s.working = true → ∃ t, exec .messageComplete s = .next t ∧
      t.port = { s.port.dropHead m.body with attempt := none, failures := 0 } ∧
      t = { s with port := t.port, agr := t.agr, ctl := t.ctl, sol := t.sol, light := t.light, faults := t.faults } ∧
      (∀ c d v n h, m.body = .pulse c d v n h → s.own < s.agr.peers.length →
        s.agr.onlyPeer t.agr s.own { s.agr.peer s.own with
          heard := true, pulse := some ⟨n, h, v, c, d, s.line.frameNo⟩, silence := 0 } ∧
        t.ctl = { s.ctl with selfSilence := 0 } ∧ t.agr.epochs = s.agr.epochs) ∧
      (∀ e lam, m.body = .light e lam → t.light = { s.light with announced := lam.toNat, spacing := 0 } ∧
        lightStands s.own lam.toNat e s t) ∧
      (∀ live why j e lam, m.body = .change live why j e lam → t.agr.live = s.agr.live ∧ t.ctl = s.ctl ∧
        (isMember s.settings.roster j.toNat = true → (live = true → j.toNat = s.own) →
          changeStands ⟨j.toNat, live, why, if live then some lam.toNat else none⟩ e s t)) ∧
      (∀ e f c, m.body = .bounds e f c → s.own < s.agr.peers.length → s.settled →
        s.agr.onlyPeer t.agr s.own { s.agr.peer s.own with bounds := some ⟨e, f.toNat, c.toNat⟩ } ∧
        t.agr.levels = s.agr.levels ∧ boundsMatched s.own e f.toNat c.toNat s t) ∧
      (∀ lam n g k, m.body = .levels lam n g k → s.settled → t = { s with
        port := t.port
        agr := s.agr.onPeer s.own (fun r => { r with levels := some ⟨lam.toNat, n.toNat, g.toNat, k.toNat⟩ }) })) ∧
    (s.settled → s.working = false → exec .messageComplete s =
      .next { s with port := { s.port with attempt := none, failures := 0, state := .disabled, joined := false } })

/-! ## The link receiver -/

/-- LANES_ACTIVE, SETTLE_EXPIRY and TRAINING_DECISION bring the link from DOWN to UP (R120 to R123): the decision passes when
every lane in use synced within 64 bit times with at least 65,536 bits checked and no more mismatches than the threshold. The data
that each lane has held since its sync is then read as lane words, and the lanes hunt on from there: idle words are passed over,
and any words are read as words held in UP are; the first word that comes after them completes the word whose first bits were held
(R123, R125; that a command brings that word whole is the model's, log 13). Otherwise the decision reports TRAINING_FAIL with the first test that fails, 3, 1 or 2, and its lane; of lanes that ended last together
the lowest (the model's, log 28). LANE_ACTIVITY_LOST and INPUT_TIMEOUT make the link DOWN with the training counts kept;
leaving UP, an open frame ends and its slot is FREE (R120, R124, R131, R133, R135). -/
def Obligations.LinkMoves : Prop :=
  (∀ s : State, s.settled → s.working = true →
    (s.link.state = .down → exec .lanesActive s =
      .next { s with link := { s.link with state := .settle, settleTimer := some s.line.stamp } }) ∧
    (s.link.state = .settle → exec .settleExpiry s =
      .next { s with link := { s.link with
        state := .training, settleTimer := none, lanes := s.link.lanes.map (fun _ => freshLane) } }) ∧
    (s.link.state = .training →
      let used := s.link.lanes.take s.settings.laneCount
      let fails := fun (test lane : Nat) => exec .trainingDecision s =
        .next (reported .trainingFail (256 * test + lane) { s with link := { s.link with state := .down } })
      let near := ∃ low, ∀ x ∈ used, ∃ b, x.syncAt = some b ∧ low ≤ b ∧ b ≤ low + 64
      (near → (∀ x ∈ used, 65536 ≤ x.checked ∧ x.mismatched ≤ s.settings.trainingThreshold) →
        let up := fun (readers : List LaneReader) => { s with link := { s.link with
          state := .up, inputTimer := if 0 < s.settings.inputTimeout then some s.line.stamp else none
          lanes := s.link.lanes.map (fun x => { x with held := [] }), readers := readers } }
        let holding := s.link.lanes.map (fun x => (⟨wholeWords x.held, restBits x.held, 0, none, false⟩ : LaneReader))
        ((∀ x ∈ used, ∀ w ∈ wholeWords x.held, isIdle w = true) → exec .trainingDecision s =
          .next (up (holding.mapIdx (fun i x =>
            if i < s.settings.laneCount then { x with words := [], used := x.words.length } else x)))) ∧
        exec .trainingDecision s = exec (.packetLost (List.replicate s.settings.laneCount [])) (up holding)) ∧
      (∀ x ∈ used, x.syncAt = none → exec .trainingDecision s = .next s) ∧
      (∀ (lane last : Nat), (∀ x ∈ used, ∃ b, x.syncAt = some b ∧ b ≤ last) → ¬near →
        used[lane]?.bind (fun x => x.syncAt) = some last →
        (∀ j < lane, used[j]?.bind (fun x => x.syncAt) ≠ some last) → fails 3 lane) ∧
      (∀ (lane : Nat) (x : Lane), near → used[lane]? = some x → x.checked < 65536 →
        (∀ j < lane, ∀ y, used[j]? = some y → 65536 ≤ y.checked) → fails 1 lane) ∧
      ∀ (lane : Nat) (x : Lane), near → (∀ y ∈ used, 65536 ≤ y.checked) → used[lane]? = some x →
        s.settings.trainingThreshold < x.mismatched →
        (∀ j < lane, ∀ y, used[j]? = some y → y.mismatched ≤ s.settings.trainingThreshold) → fails 2 lane)) ∧
  (∀ (words : List (List LaneWord)) (s : State), s.settled → s.reads = true → words.length = s.settings.laneCount →
    (∀ l ∈ words, l ≠ []) →
    let completed := words.mapIdx (fun i l =>
      completeWord (s.link.readers.getD i freshReader).part (l.headD 0) :: l.tail)
    exec (.packetLost words) s = exec (.packetLost completed) { s with link := { s.link with
      readers := s.link.readers.mapIdx (fun i x => if i < s.settings.laneCount then { x with part := [] } else x) } }) ∧
  ∀ s : State, s.working = true →
    (∀ lane < s.settings.laneCount, ∀ received, ∃ t, exec (.laneActivityLost lane received) s = .next t ∧
      t.link.state = .down ∧ t.link.health = s.link.health ∧
      t.link.lanes = (if s.link.state = .training then trainLanes s.settings.laneCount received s.link.lanes
        else s.link.lanes) ∧
      t = { s with link := t.link, store := t.store, faults := t.faults } ∧ (s.link.state ≠ .up → t.store = s.store) ∧
      (s.link.state = .up → t.link.openFrame = none ∧ t.link.cleanRun = 0 ∧
        ∀ i < s.store.slots.length, passedSlot s.link = some i → t.store.slot i = freeSlot)) ∧
    (s.link.state = .up → 0 < s.settings.inputTimeout → ∃ t, exec .inputTimeout s = .next t ∧
      t.link.state = .down ∧ t.link.openFrame = none ∧ t.link.cleanRun = 0 ∧ t.link.lanes = s.link.lanes ∧
      t = { s with link := t.link, store := t.store, faults := t.faults } ∧ t.faults.pending.getLsbD 24 = true ∧
      ∀ i < s.store.slots.length, passedSlot s.link = some i → t.store.slot i = freeSlot)

/-- SYNC_RECOGNISED: every lane in use trains on the bits it received, each by itself (R122, R123). The checker takes the first
seven bits, predicts each later bit from its own predictions, and counts the bits checked and those that differ (R122). A lane
recognises its sync at the first bit whose last sixteen differ from the sync word in at most one bit, has checked the bits
before those sixteen, checks no more, and holds every bit that follows, in order: whole lane words, and the first bits of the next
one, which that word completes (R123; the order of a word's bits is the model's, log 28). -/
def Obligations.LaneTraining : Prop :=
  (∀ (lane : Nat) (bits0 bits1 bits2 bits3 : List Bool) (s : State), s.settled → s.working = true →
    s.link.state = .training → lane < s.settings.laneCount →
    let trained := s.link.lanes.mapIdx (fun i x =>
      if i < s.settings.laneCount then laneBits x ([bits0, bits1, bits2, bits3].getD i []) else x)
    exec (.syncRecognised lane bits0 bits1 bits2 bits3) s = .next { s with link := { s.link with lanes := trained } }) ∧
  (∀ (bits : List Bool) (p : Nat → Bool), (∀ i < 7, ∀ b, bits[i]? = some b → p i = b) →
    (∀ i, p (i + 7) = (p (i + 1) != p i)) →
    let x := bits.foldl judgeBit freshLane
    x.checked = min 4294967295 (bits.length - 7) ∧
      x.mismatched = min 65535 ((List.range bits.length).filter (fun i => bits[i]? != some (p i))).length) ∧
  (∀ bits : List Bool, 16 ≤ bits.length →
    let last := fun (k : Nat) => wordOfBits ((bits.take k).drop (k - 16)).reverse
    (∀ k, 16 ≤ k → k < bits.length → 2 ≤ wordDistance (last k) syncWord) →
    wordDistance (last bits.length) syncWord ≤ 1 →
    let x := laneBits freshLane bits
    let y := (bits.take (bits.length - 16)).foldl judgeBit freshLane
    x.syncAt = some bits.length ∧ x.checked = y.checked ∧ x.mismatched = y.mismatched ∧
      ∀ more, laneBits x more = { x with held := more }) ∧
  ∀ (words : List LaneWord) (w : LaneWord) (k : Nat), k < 16 →
    let bitsOf := fun (v : LaneWord) => (List.range 16).map (fun i => v.getMsbD i)
    let part := (bitsOf w).take k
    wholeWords (words.flatMap bitsOf ++ part) = words ∧ restBits (words.flatMap bitsOf ++ part) = part ∧
      ∀ v : LaneWord, v.toNat % 2 ^ (16 - k) = w.toNat % 2 ^ (16 - k) → completeWord part v = w

/-- FRAME_START_PACKET. One that matches the input settings, with no frame open that holds a slot, opens a frame in the lowest
FREE slot, which becomes FILLING (R128, R138); with no FREE slot, under DROP_OLDEST, or for content far behind what is shown,
the earliest READY slot is taken with a STORE_OVERRUN report, and else the frame opens without a slot and with a STORE_REFUSED
report (R138). One that mismatches reports its first mismatching field as FORMAT_MISMATCH, and opens a frame poisoned with
cause 1 that asks for no slot (R128, R131). With a frame open, that frame ends poisoned, and its slot passes to the new frame
(R128, R139). The input timer restarts, or there is none with an input timeout of 0 (R124). -/
def Obligations.FrameStartOpens : Prop :=
  ∀ (content : ContentNo) (format : Byte) (width height : BitVec 16) (s : State), s.reads = true → s.lanesQuiet →
    let c : Instr := .frameStartPacket (syncHeads s) (bytes16 content ++ format :: bytes16 width ++ bytes16 height)
    let matching := format.toNat = s.settings.inFormat ∧ width.toNat = s.settings.inWidth ∧
      height.toNat = s.settings.inHeight
    let field := if format.toNat ≠ s.settings.inFormat then 1 else if width.toNat ≠ s.settings.inWidth then 2 else 3
    let x := s.store
    let opened := fun (slot poison : Option Nat) => { s.link with
      openFrame := some ⟨content, slot, 0, poison⟩, cleanRun := if s.link.openFrame = none then s.link.cleanRun else 0
      inputTimer := if 0 < s.settings.inputTimeout then some s.line.stamp else none
      readers := readersPast (laneWordCount s 7) s }
    let filling := fun (i : Nat) => { x with slots := x.slots.set i (fillingSlot content) }
    (∀ i, matching → passedSlot s.link = none → x.lowestFree = some i → ∃ t, exec c s = .next t ∧
      t = { s with link := opened (some i) none, store := filling i, faults := t.faults }) ∧
    (matching → s.link.openFrame = none → x.lowestFree = none → s.settled →
      let behind := x.ordered = true ∧ ∃ r, x.showingNumber = some r ∧ contentKey content r < -256
      let ready := fun (i : Nat) (d : ContentNo) =>
        i < 4 ∧ (x.slot i).state = .ready ∧ (x.slot i).content = some d
      (∀ r, s.settings.overrun = 1 ∨ behind → x.reference = some r → (∃ i d, ready i d) →
        ∃ i d, ready i d ∧ (∀ j e, ready j e → contentKey d r ≤ contentKey e r) ∧
          exec c s = .next (reported .storeOverrun d.toNat
            { s with link := opened (some i) none, store := filling i })) ∧
      (¬(s.settings.overrun = 1 ∨ behind) → exec c s =
        .next (reported .storeRefused content.toNat { s with link := opened none none }))) ∧
    (¬matching → s.link.openFrame = none → s.settled → exec c s =
      .next (reported .formatMismatch field { s with link := opened none (some 1) })) ∧
    (∀ f i, s.link.openFrame = some f → f.slot = some i → ∃ t, exec c s = .next t ∧
      t = { s with
        link := opened (some i) (if matching then none else some 1), store := filling i, faults := t.faults } ∧
      t.faults.pending.getLsbD (faultNumber .framePoisoned) = true ∧
      (¬matching → t.faults.pending.getLsbD (faultNumber .formatMismatch) = true ∧
        (s.settled → t.faults.last = some ⟨.formatMismatch, s.line.frameNo, BitVec.ofNat 16 field⟩)))

/-- LINE_PACKET while a frame is open: a line of wrong length is reported and poisons the frame with cause 3, one whose CRC does
not match with cause 2; in a frame that is not poisoned, a line out of order poisons with cause 4 and no report (R129, R131).
A line that fails no check increases the next line expected, and in a frame with a slot it is written pixel by pixel, every
other pixel of the frame memory reading as before (R129, R130); without a slot the frame memory stays. The address of a pixel is
the model's (log 7), and so is that the state lists the addresses whose word cannot be corrected, from which a written line takes
its own (log 20). -/
def Obligations.LineWritten : Prop :=
  ∀ (f : OpenFrame) (payload : List Byte) (s : State), s.settled → s.reads = true → s.lanesQuiet →
    s.link.openFrame = some f → payload.length ≤ 65535 →
    let c : Instr := .linePacket (syncHeads s) payload
    let after := fun (g : OpenFrame) => { s.link with
      openFrame := some g, inputTimer := if 0 < s.settings.inputTimeout then some s.line.stamp else none
      readers := readersPast (laneWordCount s payload.length) s }
    let fits := payload.length = lineLength s.settings.inFormat s.settings.inWidth
    let follows := lineNumber payload = f.nextLine ∧ f.nextLine < s.settings.inHeight
    (¬fits → exec c s =
      .next (reported .lineLength payload.length { s with link := after (poisonFrame 3 f) })) ∧
    (fits → lineCrcMatches payload = false → exec c s =
      .next (reported .lineCheck (lineNumber payload) { s with link := after (poisonFrame 2 f) })) ∧
    (fits → lineCrcMatches payload = true → f.poison ≠ none → exec c s = .next { s with link := after f }) ∧
    (fits → lineCrcMatches payload = true → f.poison = none → ¬follows →
      exec c s = .next { s with link := after (poisonFrame 4 f) }) ∧
    (fits → lineCrcMatches payload = true → f.poison = none → follows → f.slot = none →
      exec c s = .next { s with link := after { f with nextLine := f.nextLine + 1 } }) ∧
    ∀ i, fits → lineCrcMatches payload = true → f.poison = none → follows → f.slot = some i →
      memWf s.store.memory = true → (s.settings.inFormat = 1 ∨ s.settings.inFormat = 2) →
      let base := pixelAddress i f.nextLine 0
      let pixels := linePixels s.settings.inFormat payload
      ∃ t, exec c s = .next t ∧ t.link = after { f with nextLine := f.nextLine + 1 } ∧
        t.store = { s.store with memory := t.store.memory, errors := t.store.errors } ∧
        pixels.length = s.settings.inWidth ∧
        (∀ x < s.settings.inWidth, memRead t.store.memory (base + x) = pixels.getD x blankPixel) ∧
        (∀ a, a < base ∨ base + s.settings.inWidth ≤ a → memRead t.store.memory a = memRead s.store.memory a) ∧
        (∀ a, a ∈ t.store.errors ↔ a ∈ s.store.errors ∧ (a < base ∨ base + s.settings.inWidth ≤ a)) ∧
        t = { s with link := t.link, store := t.store }

/-- FRAME_END_PACKET while a frame is open. A poisoned frame, and one whose line counts are not the height (cause 6), ends with
FRAME_POISONED, its slot FREE and the clean run count 0 (R131, R132, R135). A clean one sets the flag and the run count (R132,
R135), and goes to the frame store: after what is shown it becomes READY with the frame in progress as its completion frame,
and READY copies of it are FREE; a repeat or one up to 256 behind is dropped; one further behind is dropped and counted, and
the eighth such restarts the content with a CONTENT_RESTART report (R140, R141). -/
def Obligations.FrameEndHandsOver : Prop :=
  ∀ (f : OpenFrame) (count : BitVec 16) (s : State), s.settled → s.reads = true → s.lanesQuiet →
    s.link.openFrame = some f →
    let c : Instr := .frameEndPacket (syncHeads s) (bytes16 count)
    let timer := if 0 < s.settings.inputTimeout then some s.line.stamp else none
    let poisoned := { s.link with
      openFrame := none, cleanRun := 0, inputTimer := timer, readers := readersPast (laneWordCount s 2) s }
    let clean := { s.link with
      openFrame := none, cleanFlag := true, cleanRun := satInc 255 s.link.cleanRun, inputTimer := timer
      readers := readersPast (laneWordCount s 2) s }
    let whole := count.toNat = s.settings.inHeight ∧ f.nextLine = s.settings.inHeight
    let released := match f.slot with
      | some i => { s.store with slots := s.store.slots.set i freeSlot }
      | none => s.store
    let ends := fun (cause : Nat) => exec c s = .next (reported .framePoisoned
      (256 * cause + (f.content.setWidth 8).toNat) { s with link := poisoned, store := released })
    let freed := fun (p : Slot → Prop) [DecidablePred p] (slots : List Slot) =>
      slots.map (fun v => if p v then freeSlot else v)
    (∀ cause, f.poison = some cause → ends cause) ∧
    (f.poison = none → ¬whole → ends 6) ∧
    (f.poison = none → whole → f.slot = none → exec c s = .next { s with link := clean }) ∧
    ∀ i, f.poison = none → whole → f.slot = some i →
      let x := s.store
      let keeps := exec c s = .next { s with link := clean, store := { x with
        slots := (freed (fun v => v.state = .ready ∧ v.content = some f.content) x.slots).set i
          (readySlot f.content s.line.frameNo)
        lastKept := some f.content, behind := if x.ordered then 0 else x.behind } }
      (x.ordered = false → keeps) ∧
      ∀ r, x.ordered = true → x.showingNumber = some r →
        let key := contentKey f.content r
        (0 < key → keeps) ∧
        (-256 ≤ key → key ≤ 0 → exec c s = .next { s with link := clean, store := { x with
          slots := x.slots.set i freeSlot, behind := 0 } }) ∧
        (key < -256 → x.behind + 1 < 8 → exec c s = .next { s with link := clean, store := { x with
          slots := x.slots.set i freeSlot, behind := x.behind + 1 } }) ∧
        (key < -256 → 8 ≤ x.behind + 1 → exec c s = .next (reported .contentRestart f.content.toNat
          { s with link := clean, store := { x with
            slots := (freed (fun v => v.state = .ready) x.slots).set i (readySlot f.content s.line.frameNo)
            lastKept := some f.content, behind := 0, restartMark := true } }))

/-- OTHER_PACKET and STRAY_LINE_PACKET change nothing but the input timer, which restarts (R124, R127, R133). PACKET_LOST and
LANE_SKEW: the lost packet is reported with its lane, poisons the open frame with cause 5, restarts no timer, and leaves every
lane looking for an idle word (R124, R125, R126, R131); until it reads one, a lane, here one that holds no part of a word, discards every word (R125). That a lane for
which no word comes has marked no start in time is the model's reading of the command (log 13). A FRAME_START or
FRAME_END of wrong length is lost too (R127); that its lanes then look for an idle word is the model's reading (log 14). -/
def Obligations.PacketsSkippedAndLost : Prop :=
  (∀ (payload : List Byte) (s : State), s.settled → s.reads = true → s.lanesQuiet → payload.length ≤ 65535 →
    let past := readersPast (laneWordCount s payload.length) s
    let t := { s with link := { s.link with
      inputTimer := if 0 < s.settings.inputTimeout then some s.line.stamp else none, readers := past } }
    let lost := { s with link := { s.link with
      openFrame := s.link.openFrame.map (poisonFrame 5)
      readers := past.mapIdx (fun i x => if i < s.settings.laneCount then { x with seeking := true } else x) } }
    (∀ kind : Byte, kind.toNat = 0 ∨ 4 ≤ kind.toNat → exec (.otherPacket (syncHeads s) kind payload) s = .next t) ∧
    (s.link.openFrame = none → exec (.strayLinePacket (syncHeads s) false payload) s = .next t ∧
      (payload.length = 2 → exec (.strayLinePacket (syncHeads s) true payload) s = .next t)) ∧
    (payload.length ≠ 7 → exec (.frameStartPacket (syncHeads s) payload) s = .next (reported .lineLength 256 lost)) ∧
    (payload.length ≠ 2 → exec (.frameEndPacket (syncHeads s) payload) s = .next (reported .lineLength 768 lost))) ∧
  (∀ (i : Nat) (s : State), s.settled → s.reads = true → s.lanesQuiet → i < s.settings.laneCount →
    let lost := fun (used : Nat → Nat) => { s with link := { s.link with
      openFrame := s.link.openFrame.map (poisonFrame 5)
      readers := s.link.readers.mapIdx (fun j x => if j < s.settings.laneCount then
        { x with used := x.used + used j, seeking := true } else x) } }
    (∀ w : LaneWord, startClass w = .bad → exec (.packetLost ((syncHeads s).set i [w])) s =
      .next (reported .laneUncorrectable i (lost (fun _ => 1)))) ∧
    (1 < s.settings.laneCount →
      exec (.laneSkew ((List.replicate s.settings.laneCount (syncWord :: List.replicate 5 0)).set i [])) s =
        .next (reported .laneSkew i (lost (fun j => if j = i then 0 else 6))))) ∧
  ∀ (words : List (List LaneWord)) (s : State), s.settled → s.reads = true → words.length = s.settings.laneCount →
    s.settings.laneCount ≤ 4 → s.link.lanes.length = 4 → s.link.readers.length = 4 →
    (∀ x ∈ s.usedReaders, x.words = [] ∧ x.mark = none ∧ x.seeking = true ∧ x.part = []) →
    (∀ l ∈ words, ∀ w ∈ l, isIdle w = false) →
    let read := s.link.readers.mapIdx (fun j x =>
      if j < s.settings.laneCount then { x with used := x.used + (words.getD j []).length } else x)
    exec (.packetLost words) s = .next { s with link := { s.link with readers := read } }

/-! ## Frame memory errors and the light sensor -/

/-- A saturated cycle reports SENSOR_SAT with detail 1, 2 or 3 and forms no estimate: the filtered factor, the light state
and the out count, like every other part of the state, keep their values (R166). -/
def Obligations.SaturatedCycle : Prop :=
  ∀ (v : BitVec 12) (on : Nat) (s : State), s.settled → s.working = true →
    reached s.line 0 s.settings.patchLine = true → s.line.frameNo.toNat % 8 = 7 →
    s.light.held = some ⟨on, s.line.frameNo - 4⟩ → on = 4095 ∨ v.toNat = 4095 →
    exec (.lightSample v false) s =
      .next (reported .sensorSat (if v.toNat ≠ 4095 then 1 else if on ≠ 4095 then 2 else 3)
        { s with light := { s.light with held := none, cycle := some ⟨on, v.toNat, s.line.frameNo⟩ } })

/-- LIGHT_SAMPLE: an on-sample is held with its frame; an off-sample four frames on forms a cycle (R164, R165), which gives,
when it is not saturated, the measured factor (R167), the filtered factor (R168), and the light state with its out count, and
the fourth low cycle of a LIT station reports LIGHT_OUT (R169). An off-sample with no on-sample, or with one of another frame,
forms no cycle: both are discarded without a fault (R165). A sample taken ahead of a frame start belongs to the frame it
begins, and a frame that a jump ends before the patch line gives none (R164, R165; the ahead operand is the model's,
log 17). -/
def Obligations.LightCycles : Prop :=
  ∀ (v : BitVec 12) (s : State), s.settled → s.working = true →
    (s.settings.patchLine = 0 → (nextFrameNo s.line).toNat % 8 = 3 → exec (.lightSample v true) s =
      .next { s with light := { s.light with held := some ⟨v.toNat, nextFrameNo s.line⟩ } }) ∧
    (reached s.line 0 s.settings.patchLine = false → exec (.lightSample v false) s = .next s) ∧
    (reached s.line 0 s.settings.patchLine = true →
      (s.line.frameNo.toNat % 8 = 3 → exec (.lightSample v false) s =
        .next { s with light := { s.light with held := some ⟨v.toNat, s.line.frameNo⟩ } }) ∧
      (s.line.frameNo.toNat % 8 ≠ 3 → s.line.frameNo.toNat % 8 ≠ 7 → exec (.lightSample v false) s = .next s) ∧
      (s.line.frameNo.toNat % 8 = 7 → (∀ h, s.light.held = some h → h.frame ≠ s.line.frameNo - 4) →
        exec (.lightSample v false) s = .next { s with light := { s.light with held := none } }) ∧
      ∀ on : Nat, s.line.frameNo.toNat % 8 = 7 → s.light.held = some ⟨on, s.line.frameNo - 4⟩ →
        let x := s.light
        let off := v.toNat
        let formed := { x with held := none, cycle := some ⟨on, off, s.line.frameNo⟩ }
        (on ≠ 4095 → off ≠ 4095 →
          let measured := if off < on then min 65535 (roundDiv (16384 * (on - off)) s.settings.sCal) else 0
          let filtered := if x.hadValid then ((x.filtered : Int) + Int.tdiv ((measured : Int) - x.filtered) 16).toNat
            else measured
          let becomes := fun (st : LightState) (n : Nat) => { s with light := { formed with
            measured := measured, filtered := filtered, hadValid := true, state := st, outCount := n } }
          (x.state ≠ .lit → exec (.lightSample v false) s = .next
            (becomes (if s.settings.lamOut + s.settings.lamOut / 8 ≤ filtered then .lit else .out) 0)) ∧
          (x.state = .lit → s.settings.lamOut ≤ filtered → exec (.lightSample v false) s = .next (becomes .lit 0)) ∧
          (x.state = .lit → filtered < s.settings.lamOut → x.outCount + 1 < 4 →
            exec (.lightSample v false) s = .next (becomes .lit (x.outCount + 1))) ∧
          (x.state = .lit → filtered < s.settings.lamOut → 4 ≤ x.outCount + 1 →
            exec (.lightSample v false) s = .next (reported .lightOut filtered (becomes .out 0)))))

/-- MEMORY_ECC: an uncorrectable read that the frame in progress makes is remembered for its pixel, and the frame reports once,
with the source line of the first of its reads, in the order of the walk, that cannot be corrected (R149); a pixel under the
patch, of an identify frame, outside LIVE or without a source reads nothing (R157). The pixel's linear values are 0 while its
error stands (R149, R155). A later frame that reads it reports once more, with its own number, by the time it ends (R149; the
moment of that report is the model's, log 20, and so are the numbering of the addresses, log 7, and the order of the reads of
one output pixel, log 20). -/
def Obligations.MemoryErrors : Prop :=
  ∀ s : State, s.settled → s.working = true →
    (∀ (f : Setup) (slot line column : Nat), s.pix.setup = some f → f.source = some slot →
      let c : Instr := .memoryEcc line column
      let a := pixelAddress slot line column
      let found := { s with store := { s.store with
        errors := if a ∈ s.store.errors then s.store.errors else s.store.errors ++ [a] } }
      ((line, column) ∈ frameReads s f → s.store.eccReported = false →
        ∃ (past rest : List (Nat × Nat)) (p : Nat × Nat), frameReads s f = past ++ p :: rest ∧
          (∀ q ∈ past, readFails found f q = false) ∧ readFails found f p = true ∧
          exec c s = .next (reported .memoryEcc p.1 { found with store := { found.store with eccReported := true } })) ∧
      ((line, column) ∈ frameReads s f → s.store.eccReported = true → exec c s = .next found) ∧
      ((line, column) ∉ frameReads s f → exec c s = .next s)) ∧
    (∀ f : Setup, (f.identify = true ∨ f.condition ≠ .live ∨ f.source = none ∨
        ∀ x < s.line.raster.width, ∀ y < s.line.raster.height, inPatch s.settings x y = true) → frameReads s f = []) ∧
    (∀ slot line column : Nat, pixelAddress slot line column ∈ s.store.errors →
      neighbour s (some slot) column line = ⟨0, 0, 0⟩) ∧
    (∀ first : Stamp, s.line.running = true → ∃ t, exec (.frameStart first) s = .next t ∧
      t.store.errors = s.store.errors ∧ t.store.eccReported = false ∧
      ∀ (f : Setup) (past rest : List (Nat × Nat)) (p : Nat × Nat), s.pix.setup = some f → s.store.eccReported = false →
        frameReads s f = past ++ p :: rest → (∀ q ∈ past, readFails s f q = false) → readFails s f p = true →
        t.faults.pending.getLsbD (faultNumber .memoryEcc) = true ∧
          t.faults.first = some (s.faults.first.getD ⟨.memoryEcc, s.line.frameNo, BitVec.ofNat 16 p.1⟩))

/-! ## The maintenance port -/

/-- A view selector makes its view the selected one, whatever bytes follow it, which are refused, and changes nothing else of
the part; a read then gives the bytes of that view, 0 past its end (R189, R190). CLEAR_FAULTS, RESTART and ATTN_MASK take
effect only with exactly the bytes they call for, and only when a reset does not break their write off; every byte called for
is acknowledged and every byte beyond is refused; a refused selector has no effect, and a write of another address none at
all. ATTN follows the mask and the pending set (R188, R189, R191, R192). That the state keeps the acknowledge bits of the last
write, also of one that a reset broke off, and that a write of another address leaves them, is the model's (log 21), and so is
that a SELECTOR_REFUSED whose byte is a selector is that selector's write, a RESTART by the straps sampled last (log 2). -/
def Obligations.MaintenanceCommands : Prop :=
  (∀ (data : List Byte) (cut : Bool) (s : State), s.settled →
    let w : I2cWrite := { wholeWrite data with brokenOff := cut }
    let acks := true :: true :: List.replicate data.length false
    ∀ x ∈ [(Instr.selectCondition w, 1, viewCondition s), (.selectInput w, 2, viewInput s),
        (.selectStore w, 3, viewStore s), (.selectLock w, 4, viewLock s), (.selectPeers w, 5, viewPeers s),
        (.selectEpochs w, 6, viewEpochs s), (.selectLevels w, 7, viewLevels s), (.selectFaults w, 8, viewFaults s),
        (.selectCounters w, 9, viewCounters s), (.selectImage w, 10, viewImage s)],
      exec x.1 s = .next { s with maint := ⟨x.2.1, acks⟩ } ∧
        ∀ i, State.readByte { s with maint := ⟨x.2.1, acks⟩ } i = x.2.2.getD i 0) ∧
  ∀ s : State, s.settled →
    let acked := fun (acks : List Bool) => { s with maint := { s.maint with acks := acks } }
    (∃ t, exec (.clearFaults (wholeWrite [])) s = .next t ∧ t = { s with
        faults := { s.faults with counters := List.replicate 44 0, first := none, last := none, pending := 0 }
        maint := { s.maint with acks := [true, true] } } ∧ t.attn = false) ∧
    (∀ (data : List Byte) (cut : Bool) (straps : BitVec 4), data ≠ [] ∨ cut = true →
      let w : I2cWrite := { wholeWrite data with brokenOff := cut }
      let acks := true :: true :: List.replicate data.length false
      exec (.clearFaults w) s = .next (acked acks) ∧ exec (.restart w straps) s = .next (acked acks)) ∧
    (∀ m : BitVec 64, ∃ t, exec (.attnMask (wholeWrite (beBytes 8 m.toNat))) s = .next t ∧ t = { s with
        faults := { s.faults with mask := m }, maint := { s.maint with acks := List.replicate 10 true } } ∧
      (t.attn = true ↔ ∃ i < 44, s.faults.pending.getLsbD i = true ∧ m.getLsbD i = true)) ∧
    (∀ (data : List Byte) (cut : Bool), data.length ≠ 8 ∨ cut = true →
      exec (.attnMask { wholeWrite data with brokenOff := cut }) s = .next (acked
        (List.replicate (2 + min 8 data.length) true ++ List.replicate (data.length - 8) false))) ∧
    (∀ (b : Byte) (w : I2cWrite), isSelector b = false → w.address = 0x46 →
      exec (.selectorRefused b w) s = .next (acked (true :: false :: List.replicate w.data.length false))) ∧
    (∀ w : I2cWrite, exec (.selectorRefused 64 w) s = exec (.clearFaults w) s ∧
      exec (.selectorRefused 65 w) s = exec (.restart w s.loader.strapped) s ∧
      exec (.selectorRefused 66 w) s = exec (.attnMask w) s) ∧
    ∀ (w : I2cWrite) (straps : BitVec 4) (b : Byte), w.address ≠ 0x46 →
      ∀ c ∈ [Instr.selectCondition w, .selectInput w, .selectStore w, .selectLock w, .selectPeers w, .selectEpochs w,
          .selectLevels w, .selectFaults w, .selectCounters w, .selectImage w, .clearFaults w, .restart w straps,
          .attnMask w, .selectorRefused b w], exec c s = .next s
end

