-- ==== Sys2Proof/Laws/Bytes.lean ====
section
/-!
SUPPORT. Laws/Bytes.lean: the fields of a payload read back from their bytes (R105), the identifier's parts (R103), and the
levels of the bits that an attempt sends (R100).
-/
namespace Sys2Proof.Machine

/-- The number of two bit strings side by side. -/
theorem toNat_beside {n m : Nat} (a : BitVec n) (b : BitVec m) : (a ++ b).toNat = a.toNat * 2 ^ m + b.toNat := by
  rw [BitVec.toNat_append, ← Nat.shiftLeft_add_eq_or_of_lt b.isLt, Nat.shiftLeft_eq]

/-- A 16-bit field is what its two bytes join to. -/
@[simp] theorem join16_extract (x : BitVec 16) : join16 (x.extractLsb' 8 8) (x.extractLsb' 0 8) = x := by
  apply BitVec.eq_of_toNat_eq
  simp only [join16, toNat_beside, BitVec.extractLsb'_toNat, Nat.shiftRight_eq_div_pow]
  have := x.isLt
  omega

/-- A 24-bit field is what its three bytes join to. -/
@[simp] theorem join24_extract (x : BitVec 24) :
    join24 (x.extractLsb' 16 8) (x.extractLsb' 8 8) (x.extractLsb' 0 8) = x := by
  apply BitVec.eq_of_toNat_eq
  simp only [join24, toNat_beside, BitVec.extractLsb'_toNat, Nat.shiftRight_eq_div_pow]
  have := x.isLt
  omega

/-- A 32-bit field is what its four bytes join to. -/
@[simp] theorem join32_extract (x : BitVec 32) :
    join32 (x.extractLsb' 24 8) (x.extractLsb' 16 8) (x.extractLsb' 8 8) (x.extractLsb' 0 8) = x := by
  apply BitVec.eq_of_toNat_eq
  simp only [join32, toNat_beside, BitVec.extractLsb'_toNat, Nat.shiftRight_eq_div_pow]
  have := x.isLt
  omega

/-- The kind code of a message's identifier (R103). -/
@[simp] theorem idKind_identifier (m : Message) : idKind (identifier m) = kindCode m.body := by
  apply BitVec.eq_of_toNat_eq
  simp only [idKind, identifier, BitVec.extractLsb'_toNat, toNat_beside, Nat.shiftRight_eq_div_pow]
  have h1 := m.sender.isLt
  have h2 := (subcode m.body).isLt
  have h3 := (kindCode m.body).isLt
  omega

/-- The sender of a message's identifier (R103). -/
@[simp] theorem idSender_identifier (m : Message) : idSender (identifier m) = m.sender := by
  apply BitVec.eq_of_toNat_eq
  simp only [idSender, identifier, BitVec.extractLsb'_toNat, toNat_beside, Nat.shiftRight_eq_div_pow]
  have h1 := m.sender.isLt
  have h2 := (subcode m.body).isLt
  omega

/-- The subcode of a message's identifier (R103). -/
@[simp] theorem idSubcode_identifier (m : Message) : idSubcode (identifier m) = subcode m.body := by
  apply BitVec.eq_of_toNat_eq
  simp only [idSubcode, identifier, BitVec.extractLsb'_toNat, toNat_beside, Nat.shiftRight_eq_div_pow]
  have h2 := (subcode m.body).isLt
  omega

/-- The stuffed bits stand where `stuffBits` puts them. -/
theorem stuffSent_level : ∀ (last : Bool) (run : Nat) (l : List SentBit),
    (stuffSent last run l).map (fun x => x.level) = stuffBits last run (l.map (fun x => x.level))
  | _, _, [] => rfl
  | last, run, x :: rest => by
    have h := fun l r => stuffSent_level l r rest
    simp only [stuffSent, List.map_cons, stuffBits]
    split_ifs <;> simp [h]

/-- The levels that an attempt sends are those of its frame (R100). -/
@[simp] theorem sentBits_level (f : BusFrame) : (sentBits f).map (fun x => x.level) = wireBits f := by
  have h : ∀ (g : Nat → BitPlace) (l : List Bool), (l.mapIdx (fun i b => SentBit.mk b (g i))).map (fun x => x.level) = l :=
    fun g l => List.ext_getElem (by simp) (by simp)
  rw [sentBits, List.map_append, List.map_append, stuffSent_level, h]
  simp [wireBits, List.replicate_succ]

end Sys2Proof.Machine
end

