-- ==== Sys2Proof/Laws/State.lean ====
section
/-!
SUPPORT. Laws/State.lean: one lemma for each field under each update of one block of the state, so that no proof unfolds an
update.
-/
namespace Sys2Proof.Machine.State

variable (s : State)

@[simp] theorem withCtl_pending (x : Controller) : (s.withCtl x).pending = s.pending := rfl
@[simp] theorem withCtl_ctl (x : Controller) : (s.withCtl x).ctl = x := rfl
@[simp] theorem withCtl_agr (x : Controller) : (s.withCtl x).agr = s.agr := rfl
@[simp] theorem withCtl_sol (x : Controller) : (s.withCtl x).sol = s.sol := rfl
@[simp] theorem withCtl_line (x : Controller) : (s.withCtl x).line = s.line := rfl
@[simp] theorem withCtl_port (x : Controller) : (s.withCtl x).port = s.port := rfl
@[simp] theorem withCtl_link (x : Controller) : (s.withCtl x).link = s.link := rfl
@[simp] theorem withCtl_store (x : Controller) : (s.withCtl x).store = s.store := rfl
@[simp] theorem withCtl_pix (x : Controller) : (s.withCtl x).pix = s.pix := rfl
@[simp] theorem withCtl_light (x : Controller) : (s.withCtl x).light = s.light := rfl
@[simp] theorem withCtl_loader (x : Controller) : (s.withCtl x).loader = s.loader := rfl
@[simp] theorem withCtl_settings (x : Controller) : (s.withCtl x).settings = s.settings := rfl
@[simp] theorem withCtl_faults (x : Controller) : (s.withCtl x).faults = s.faults := rfl
@[simp] theorem withCtl_maint (x : Controller) : (s.withCtl x).maint = s.maint := rfl

@[simp] theorem withAgr_pending (x : Agreement) : (s.withAgr x).pending = s.pending := rfl
@[simp] theorem withAgr_ctl (x : Agreement) : (s.withAgr x).ctl = s.ctl := rfl
@[simp] theorem withAgr_agr (x : Agreement) : (s.withAgr x).agr = x := rfl
@[simp] theorem withAgr_sol (x : Agreement) : (s.withAgr x).sol = s.sol := rfl
@[simp] theorem withAgr_line (x : Agreement) : (s.withAgr x).line = s.line := rfl
@[simp] theorem withAgr_port (x : Agreement) : (s.withAgr x).port = s.port := rfl
@[simp] theorem withAgr_link (x : Agreement) : (s.withAgr x).link = s.link := rfl
@[simp] theorem withAgr_store (x : Agreement) : (s.withAgr x).store = s.store := rfl
@[simp] theorem withAgr_pix (x : Agreement) : (s.withAgr x).pix = s.pix := rfl
@[simp] theorem withAgr_light (x : Agreement) : (s.withAgr x).light = s.light := rfl
@[simp] theorem withAgr_loader (x : Agreement) : (s.withAgr x).loader = s.loader := rfl
@[simp] theorem withAgr_settings (x : Agreement) : (s.withAgr x).settings = s.settings := rfl
@[simp] theorem withAgr_faults (x : Agreement) : (s.withAgr x).faults = s.faults := rfl
@[simp] theorem withAgr_maint (x : Agreement) : (s.withAgr x).maint = s.maint := rfl

@[simp] theorem withSol_pending (x : Solver) : (s.withSol x).pending = s.pending := rfl
@[simp] theorem withSol_ctl (x : Solver) : (s.withSol x).ctl = s.ctl := rfl
@[simp] theorem withSol_agr (x : Solver) : (s.withSol x).agr = s.agr := rfl
@[simp] theorem withSol_sol (x : Solver) : (s.withSol x).sol = x := rfl
@[simp] theorem withSol_line (x : Solver) : (s.withSol x).line = s.line := rfl
@[simp] theorem withSol_port (x : Solver) : (s.withSol x).port = s.port := rfl
@[simp] theorem withSol_link (x : Solver) : (s.withSol x).link = s.link := rfl
@[simp] theorem withSol_store (x : Solver) : (s.withSol x).store = s.store := rfl
@[simp] theorem withSol_pix (x : Solver) : (s.withSol x).pix = s.pix := rfl
@[simp] theorem withSol_light (x : Solver) : (s.withSol x).light = s.light := rfl
@[simp] theorem withSol_loader (x : Solver) : (s.withSol x).loader = s.loader := rfl
@[simp] theorem withSol_settings (x : Solver) : (s.withSol x).settings = s.settings := rfl
@[simp] theorem withSol_faults (x : Solver) : (s.withSol x).faults = s.faults := rfl
@[simp] theorem withSol_maint (x : Solver) : (s.withSol x).maint = s.maint := rfl

@[simp] theorem withLine_pending (x : FrameLine) : (s.withLine x).pending = s.pending := rfl
@[simp] theorem withLine_ctl (x : FrameLine) : (s.withLine x).ctl = s.ctl := rfl
@[simp] theorem withLine_agr (x : FrameLine) : (s.withLine x).agr = s.agr := rfl
@[simp] theorem withLine_sol (x : FrameLine) : (s.withLine x).sol = s.sol := rfl
@[simp] theorem withLine_line (x : FrameLine) : (s.withLine x).line = x := rfl
@[simp] theorem withLine_port (x : FrameLine) : (s.withLine x).port = s.port := rfl
@[simp] theorem withLine_link (x : FrameLine) : (s.withLine x).link = s.link := rfl
@[simp] theorem withLine_store (x : FrameLine) : (s.withLine x).store = s.store := rfl
@[simp] theorem withLine_pix (x : FrameLine) : (s.withLine x).pix = s.pix := rfl
@[simp] theorem withLine_light (x : FrameLine) : (s.withLine x).light = s.light := rfl
@[simp] theorem withLine_loader (x : FrameLine) : (s.withLine x).loader = s.loader := rfl
@[simp] theorem withLine_settings (x : FrameLine) : (s.withLine x).settings = s.settings := rfl
@[simp] theorem withLine_faults (x : FrameLine) : (s.withLine x).faults = s.faults := rfl
@[simp] theorem withLine_maint (x : FrameLine) : (s.withLine x).maint = s.maint := rfl

@[simp] theorem withPort_pending (x : Port) : (s.withPort x).pending = s.pending := rfl
@[simp] theorem withPort_ctl (x : Port) : (s.withPort x).ctl = s.ctl := rfl
@[simp] theorem withPort_agr (x : Port) : (s.withPort x).agr = s.agr := rfl
@[simp] theorem withPort_sol (x : Port) : (s.withPort x).sol = s.sol := rfl
@[simp] theorem withPort_line (x : Port) : (s.withPort x).line = s.line := rfl
@[simp] theorem withPort_port (x : Port) : (s.withPort x).port = x := rfl
@[simp] theorem withPort_link (x : Port) : (s.withPort x).link = s.link := rfl
@[simp] theorem withPort_store (x : Port) : (s.withPort x).store = s.store := rfl
@[simp] theorem withPort_pix (x : Port) : (s.withPort x).pix = s.pix := rfl
@[simp] theorem withPort_light (x : Port) : (s.withPort x).light = s.light := rfl
@[simp] theorem withPort_loader (x : Port) : (s.withPort x).loader = s.loader := rfl
@[simp] theorem withPort_settings (x : Port) : (s.withPort x).settings = s.settings := rfl
@[simp] theorem withPort_faults (x : Port) : (s.withPort x).faults = s.faults := rfl
@[simp] theorem withPort_maint (x : Port) : (s.withPort x).maint = s.maint := rfl

@[simp] theorem withLink_pending (x : Link) : (s.withLink x).pending = s.pending := rfl
@[simp] theorem withLink_ctl (x : Link) : (s.withLink x).ctl = s.ctl := rfl
@[simp] theorem withLink_agr (x : Link) : (s.withLink x).agr = s.agr := rfl
@[simp] theorem withLink_sol (x : Link) : (s.withLink x).sol = s.sol := rfl
@[simp] theorem withLink_line (x : Link) : (s.withLink x).line = s.line := rfl
@[simp] theorem withLink_port (x : Link) : (s.withLink x).port = s.port := rfl
@[simp] theorem withLink_link (x : Link) : (s.withLink x).link = x := rfl
@[simp] theorem withLink_store (x : Link) : (s.withLink x).store = s.store := rfl
@[simp] theorem withLink_pix (x : Link) : (s.withLink x).pix = s.pix := rfl
@[simp] theorem withLink_light (x : Link) : (s.withLink x).light = s.light := rfl
@[simp] theorem withLink_loader (x : Link) : (s.withLink x).loader = s.loader := rfl
@[simp] theorem withLink_settings (x : Link) : (s.withLink x).settings = s.settings := rfl
@[simp] theorem withLink_faults (x : Link) : (s.withLink x).faults = s.faults := rfl
@[simp] theorem withLink_maint (x : Link) : (s.withLink x).maint = s.maint := rfl

@[simp] theorem withStore_pending (x : Store) : (s.withStore x).pending = s.pending := rfl
@[simp] theorem withStore_ctl (x : Store) : (s.withStore x).ctl = s.ctl := rfl
@[simp] theorem withStore_agr (x : Store) : (s.withStore x).agr = s.agr := rfl
@[simp] theorem withStore_sol (x : Store) : (s.withStore x).sol = s.sol := rfl
@[simp] theorem withStore_line (x : Store) : (s.withStore x).line = s.line := rfl
@[simp] theorem withStore_port (x : Store) : (s.withStore x).port = s.port := rfl
@[simp] theorem withStore_link (x : Store) : (s.withStore x).link = s.link := rfl
@[simp] theorem withStore_store (x : Store) : (s.withStore x).store = x := rfl
@[simp] theorem withStore_pix (x : Store) : (s.withStore x).pix = s.pix := rfl
@[simp] theorem withStore_light (x : Store) : (s.withStore x).light = s.light := rfl
@[simp] theorem withStore_loader (x : Store) : (s.withStore x).loader = s.loader := rfl
@[simp] theorem withStore_settings (x : Store) : (s.withStore x).settings = s.settings := rfl
@[simp] theorem withStore_faults (x : Store) : (s.withStore x).faults = s.faults := rfl
@[simp] theorem withStore_maint (x : Store) : (s.withStore x).maint = s.maint := rfl

@[simp] theorem withPix_pending (x : PixelPath) : (s.withPix x).pending = s.pending := rfl
@[simp] theorem withPix_ctl (x : PixelPath) : (s.withPix x).ctl = s.ctl := rfl
@[simp] theorem withPix_agr (x : PixelPath) : (s.withPix x).agr = s.agr := rfl
@[simp] theorem withPix_sol (x : PixelPath) : (s.withPix x).sol = s.sol := rfl
@[simp] theorem withPix_line (x : PixelPath) : (s.withPix x).line = s.line := rfl
@[simp] theorem withPix_port (x : PixelPath) : (s.withPix x).port = s.port := rfl
@[simp] theorem withPix_link (x : PixelPath) : (s.withPix x).link = s.link := rfl
@[simp] theorem withPix_store (x : PixelPath) : (s.withPix x).store = s.store := rfl
@[simp] theorem withPix_pix (x : PixelPath) : (s.withPix x).pix = x := rfl
@[simp] theorem withPix_light (x : PixelPath) : (s.withPix x).light = s.light := rfl
@[simp] theorem withPix_loader (x : PixelPath) : (s.withPix x).loader = s.loader := rfl
@[simp] theorem withPix_settings (x : PixelPath) : (s.withPix x).settings = s.settings := rfl
@[simp] theorem withPix_faults (x : PixelPath) : (s.withPix x).faults = s.faults := rfl
@[simp] theorem withPix_maint (x : PixelPath) : (s.withPix x).maint = s.maint := rfl

@[simp] theorem withLight_pending (x : LightMonitor) : (s.withLight x).pending = s.pending := rfl
@[simp] theorem withLight_ctl (x : LightMonitor) : (s.withLight x).ctl = s.ctl := rfl
@[simp] theorem withLight_agr (x : LightMonitor) : (s.withLight x).agr = s.agr := rfl
@[simp] theorem withLight_sol (x : LightMonitor) : (s.withLight x).sol = s.sol := rfl
@[simp] theorem withLight_line (x : LightMonitor) : (s.withLight x).line = s.line := rfl
@[simp] theorem withLight_port (x : LightMonitor) : (s.withLight x).port = s.port := rfl
@[simp] theorem withLight_link (x : LightMonitor) : (s.withLight x).link = s.link := rfl
@[simp] theorem withLight_store (x : LightMonitor) : (s.withLight x).store = s.store := rfl
@[simp] theorem withLight_pix (x : LightMonitor) : (s.withLight x).pix = s.pix := rfl
@[simp] theorem withLight_light (x : LightMonitor) : (s.withLight x).light = x := rfl
@[simp] theorem withLight_loader (x : LightMonitor) : (s.withLight x).loader = s.loader := rfl
@[simp] theorem withLight_settings (x : LightMonitor) : (s.withLight x).settings = s.settings := rfl
@[simp] theorem withLight_faults (x : LightMonitor) : (s.withLight x).faults = s.faults := rfl
@[simp] theorem withLight_maint (x : LightMonitor) : (s.withLight x).maint = s.maint := rfl

@[simp] theorem withLoader_pending (x : Loader) : (s.withLoader x).pending = s.pending := rfl
@[simp] theorem withLoader_ctl (x : Loader) : (s.withLoader x).ctl = s.ctl := rfl
@[simp] theorem withLoader_agr (x : Loader) : (s.withLoader x).agr = s.agr := rfl
@[simp] theorem withLoader_sol (x : Loader) : (s.withLoader x).sol = s.sol := rfl
@[simp] theorem withLoader_line (x : Loader) : (s.withLoader x).line = s.line := rfl
@[simp] theorem withLoader_port (x : Loader) : (s.withLoader x).port = s.port := rfl
@[simp] theorem withLoader_link (x : Loader) : (s.withLoader x).link = s.link := rfl
@[simp] theorem withLoader_store (x : Loader) : (s.withLoader x).store = s.store := rfl
@[simp] theorem withLoader_pix (x : Loader) : (s.withLoader x).pix = s.pix := rfl
@[simp] theorem withLoader_light (x : Loader) : (s.withLoader x).light = s.light := rfl
@[simp] theorem withLoader_loader (x : Loader) : (s.withLoader x).loader = x := rfl
@[simp] theorem withLoader_settings (x : Loader) : (s.withLoader x).settings = s.settings := rfl
@[simp] theorem withLoader_faults (x : Loader) : (s.withLoader x).faults = s.faults := rfl
@[simp] theorem withLoader_maint (x : Loader) : (s.withLoader x).maint = s.maint := rfl

@[simp] theorem withSettings_pending (x : Settings) : (s.withSettings x).pending = s.pending := rfl
@[simp] theorem withSettings_ctl (x : Settings) : (s.withSettings x).ctl = s.ctl := rfl
@[simp] theorem withSettings_agr (x : Settings) : (s.withSettings x).agr = s.agr := rfl
@[simp] theorem withSettings_sol (x : Settings) : (s.withSettings x).sol = s.sol := rfl
@[simp] theorem withSettings_line (x : Settings) : (s.withSettings x).line = s.line := rfl
@[simp] theorem withSettings_port (x : Settings) : (s.withSettings x).port = s.port := rfl
@[simp] theorem withSettings_link (x : Settings) : (s.withSettings x).link = s.link := rfl
@[simp] theorem withSettings_store (x : Settings) : (s.withSettings x).store = s.store := rfl
@[simp] theorem withSettings_pix (x : Settings) : (s.withSettings x).pix = s.pix := rfl
@[simp] theorem withSettings_light (x : Settings) : (s.withSettings x).light = s.light := rfl
@[simp] theorem withSettings_loader (x : Settings) : (s.withSettings x).loader = s.loader := rfl
@[simp] theorem withSettings_settings (x : Settings) : (s.withSettings x).settings = x := rfl
@[simp] theorem withSettings_faults (x : Settings) : (s.withSettings x).faults = s.faults := rfl
@[simp] theorem withSettings_maint (x : Settings) : (s.withSettings x).maint = s.maint := rfl

@[simp] theorem withFaults_pending (x : FaultUnit) : (s.withFaults x).pending = s.pending := rfl
@[simp] theorem withFaults_ctl (x : FaultUnit) : (s.withFaults x).ctl = s.ctl := rfl
@[simp] theorem withFaults_agr (x : FaultUnit) : (s.withFaults x).agr = s.agr := rfl
@[simp] theorem withFaults_sol (x : FaultUnit) : (s.withFaults x).sol = s.sol := rfl
@[simp] theorem withFaults_line (x : FaultUnit) : (s.withFaults x).line = s.line := rfl
@[simp] theorem withFaults_port (x : FaultUnit) : (s.withFaults x).port = s.port := rfl
@[simp] theorem withFaults_link (x : FaultUnit) : (s.withFaults x).link = s.link := rfl
@[simp] theorem withFaults_store (x : FaultUnit) : (s.withFaults x).store = s.store := rfl
@[simp] theorem withFaults_pix (x : FaultUnit) : (s.withFaults x).pix = s.pix := rfl
@[simp] theorem withFaults_light (x : FaultUnit) : (s.withFaults x).light = s.light := rfl
@[simp] theorem withFaults_loader (x : FaultUnit) : (s.withFaults x).loader = s.loader := rfl
@[simp] theorem withFaults_settings (x : FaultUnit) : (s.withFaults x).settings = s.settings := rfl
@[simp] theorem withFaults_faults (x : FaultUnit) : (s.withFaults x).faults = x := rfl
@[simp] theorem withFaults_maint (x : FaultUnit) : (s.withFaults x).maint = s.maint := rfl

@[simp] theorem withMaint_pending (x : Maintenance) : (s.withMaint x).pending = s.pending := rfl
@[simp] theorem withMaint_ctl (x : Maintenance) : (s.withMaint x).ctl = s.ctl := rfl
@[simp] theorem withMaint_agr (x : Maintenance) : (s.withMaint x).agr = s.agr := rfl
@[simp] theorem withMaint_sol (x : Maintenance) : (s.withMaint x).sol = s.sol := rfl
@[simp] theorem withMaint_line (x : Maintenance) : (s.withMaint x).line = s.line := rfl
@[simp] theorem withMaint_port (x : Maintenance) : (s.withMaint x).port = s.port := rfl
@[simp] theorem withMaint_link (x : Maintenance) : (s.withMaint x).link = s.link := rfl
@[simp] theorem withMaint_store (x : Maintenance) : (s.withMaint x).store = s.store := rfl
@[simp] theorem withMaint_pix (x : Maintenance) : (s.withMaint x).pix = s.pix := rfl
@[simp] theorem withMaint_light (x : Maintenance) : (s.withMaint x).light = s.light := rfl
@[simp] theorem withMaint_loader (x : Maintenance) : (s.withMaint x).loader = s.loader := rfl
@[simp] theorem withMaint_settings (x : Maintenance) : (s.withMaint x).settings = s.settings := rfl
@[simp] theorem withMaint_faults (x : Maintenance) : (s.withMaint x).faults = s.faults := rfl
@[simp] theorem withMaint_maint (x : Maintenance) : (s.withMaint x).maint = x := rfl

end Sys2Proof.Machine.State
end

