-- ==== Sys2Proof/Laws/Report.lean ====
section
/-!
SUPPORT. Laws/Report.lean: everything a fault report and the taking of reports can do: they change the fault unit alone
(R184 to R187).
-/
namespace Sys2Proof.Machine

/-- A report changes the fault unit alone. -/
theorem report_eq (b : Block) (k : FaultKind) (d : Nat) (s : State) :
    report b k d s = s.withFaults (report b k d s).faults := rfl

@[simp] theorem report_pending (b : Block) (k : FaultKind) (d : Nat) (s : State) : (report b k d s).pending = s.pending := rfl
@[simp] theorem report_ctl (b : Block) (k : FaultKind) (d : Nat) (s : State) : (report b k d s).ctl = s.ctl := rfl
@[simp] theorem report_agr (b : Block) (k : FaultKind) (d : Nat) (s : State) : (report b k d s).agr = s.agr := rfl
@[simp] theorem report_sol (b : Block) (k : FaultKind) (d : Nat) (s : State) : (report b k d s).sol = s.sol := rfl
@[simp] theorem report_line (b : Block) (k : FaultKind) (d : Nat) (s : State) : (report b k d s).line = s.line := rfl
@[simp] theorem report_port (b : Block) (k : FaultKind) (d : Nat) (s : State) : (report b k d s).port = s.port := rfl
@[simp] theorem report_link (b : Block) (k : FaultKind) (d : Nat) (s : State) : (report b k d s).link = s.link := rfl
@[simp] theorem report_store (b : Block) (k : FaultKind) (d : Nat) (s : State) : (report b k d s).store = s.store := rfl
@[simp] theorem report_pix (b : Block) (k : FaultKind) (d : Nat) (s : State) : (report b k d s).pix = s.pix := rfl
@[simp] theorem report_light (b : Block) (k : FaultKind) (d : Nat) (s : State) : (report b k d s).light = s.light := rfl
@[simp] theorem report_loader (b : Block) (k : FaultKind) (d : Nat) (s : State) : (report b k d s).loader = s.loader := rfl
@[simp] theorem report_settings (b : Block) (k : FaultKind) (d : Nat) (s : State) : (report b k d s).settings = s.settings := rfl
@[simp] theorem report_maint (b : Block) (k : FaultKind) (d : Nat) (s : State) : (report b k d s).maint = s.maint := rfl

@[simp] theorem report_counters (b : Block) (k : FaultKind) (d : Nat) (s : State) :
    (report b k d s).faults.counters = s.faults.counters.modify (faultNumber k) (satInc 65535) := rfl

@[simp] theorem report_pendingSet (b : Block) (k : FaultKind) (d : Nat) (s : State) :
    (report b k d s).faults.pending = s.faults.pending ||| (1#64 <<< faultNumber k) := rfl

@[simp] theorem report_mask (b : Block) (k : FaultKind) (d : Nat) (s : State) :
    (report b k d s).faults.mask = s.faults.mask := rfl

@[simp] theorem report_moment (b : Block) (k : FaultKind) (d : Nat) (s : State) :
    (report b k d s).faults.moment = s.faults.moment ++ [(b, ⟨k, s.line.frameNo, BitVec.ofNat 16 d⟩)] := rfl

@[simp] theorem report_first (b : Block) (k : FaultKind) (d : Nat) (s : State) :
    (report b k d s).faults.first = s.faults.first := rfl

@[simp] theorem report_last (b : Block) (k : FaultKind) (d : Nat) (s : State) :
    (report b k d s).faults.last = s.faults.last := rfl

@[simp] theorem report_freeCount (b : Block) (k : FaultKind) (d : Nat) (s : State) :
    (report b k d s).faults.freeCount = s.faults.freeCount := rfl

/-- A conditional report changes the fault unit alone. -/
theorem reportIf_eq (c : Bool) (b : Block) (k : FaultKind) (d : Nat) (s : State) :
    reportIf c b k d s = s.withFaults (reportIf c b k d s).faults := by cases c <;> rfl

@[simp] theorem reportIf_pending (c : Bool) (b : Block) (k : FaultKind) (d : Nat) (s : State) :
    (reportIf c b k d s).pending = s.pending := by cases c <;> rfl
@[simp] theorem reportIf_ctl (c : Bool) (b : Block) (k : FaultKind) (d : Nat) (s : State) :
    (reportIf c b k d s).ctl = s.ctl := by cases c <;> rfl
@[simp] theorem reportIf_agr (c : Bool) (b : Block) (k : FaultKind) (d : Nat) (s : State) :
    (reportIf c b k d s).agr = s.agr := by cases c <;> rfl
@[simp] theorem reportIf_sol (c : Bool) (b : Block) (k : FaultKind) (d : Nat) (s : State) :
    (reportIf c b k d s).sol = s.sol := by cases c <;> rfl
@[simp] theorem reportIf_line (c : Bool) (b : Block) (k : FaultKind) (d : Nat) (s : State) :
    (reportIf c b k d s).line = s.line := by cases c <;> rfl
@[simp] theorem reportIf_port (c : Bool) (b : Block) (k : FaultKind) (d : Nat) (s : State) :
    (reportIf c b k d s).port = s.port := by cases c <;> rfl
@[simp] theorem reportIf_link (c : Bool) (b : Block) (k : FaultKind) (d : Nat) (s : State) :
    (reportIf c b k d s).link = s.link := by cases c <;> rfl
@[simp] theorem reportIf_store (c : Bool) (b : Block) (k : FaultKind) (d : Nat) (s : State) :
    (reportIf c b k d s).store = s.store := by cases c <;> rfl
@[simp] theorem reportIf_pix (c : Bool) (b : Block) (k : FaultKind) (d : Nat) (s : State) :
    (reportIf c b k d s).pix = s.pix := by cases c <;> rfl
@[simp] theorem reportIf_light (c : Bool) (b : Block) (k : FaultKind) (d : Nat) (s : State) :
    (reportIf c b k d s).light = s.light := by cases c <;> rfl
@[simp] theorem reportIf_loader (c : Bool) (b : Block) (k : FaultKind) (d : Nat) (s : State) :
    (reportIf c b k d s).loader = s.loader := by cases c <;> rfl
@[simp] theorem reportIf_settings (c : Bool) (b : Block) (k : FaultKind) (d : Nat) (s : State) :
    (reportIf c b k d s).settings = s.settings := by cases c <;> rfl
@[simp] theorem reportIf_maint (c : Bool) (b : Block) (k : FaultKind) (d : Nat) (s : State) :
    (reportIf c b k d s).maint = s.maint := by cases c <;> rfl

/-- Taking the reports changes the fault unit alone. -/
theorem takeReports_eq (s : State) : takeReports s = s.withFaults (takeReports s).faults := by
  unfold takeReports; split <;> rfl

@[simp] theorem takeReports_pending (s : State) : (takeReports s).pending = s.pending := by unfold takeReports; split <;> rfl
@[simp] theorem takeReports_ctl (s : State) : (takeReports s).ctl = s.ctl := by unfold takeReports; split <;> rfl
@[simp] theorem takeReports_agr (s : State) : (takeReports s).agr = s.agr := by unfold takeReports; split <;> rfl
@[simp] theorem takeReports_sol (s : State) : (takeReports s).sol = s.sol := by unfold takeReports; split <;> rfl
@[simp] theorem takeReports_line (s : State) : (takeReports s).line = s.line := by unfold takeReports; split <;> rfl
@[simp] theorem takeReports_port (s : State) : (takeReports s).port = s.port := by unfold takeReports; split <;> rfl
@[simp] theorem takeReports_link (s : State) : (takeReports s).link = s.link := by unfold takeReports; split <;> rfl
@[simp] theorem takeReports_store (s : State) : (takeReports s).store = s.store := by unfold takeReports; split <;> rfl
@[simp] theorem takeReports_pix (s : State) : (takeReports s).pix = s.pix := by unfold takeReports; split <;> rfl
@[simp] theorem takeReports_light (s : State) : (takeReports s).light = s.light := by unfold takeReports; split <;> rfl
@[simp] theorem takeReports_loader (s : State) : (takeReports s).loader = s.loader := by unfold takeReports; split <;> rfl
@[simp] theorem takeReports_settings (s : State) : (takeReports s).settings = s.settings := by unfold takeReports; split <;> rfl
@[simp] theorem takeReports_maint (s : State) : (takeReports s).maint = s.maint := by unfold takeReports; split <;> rfl

@[simp] theorem takeReports_counters (s : State) : (takeReports s).faults.counters = s.faults.counters := by
  unfold takeReports; split <;> rfl

@[simp] theorem takeReports_pendingSet (s : State) : (takeReports s).faults.pending = s.faults.pending := by
  unfold takeReports; split <;> rfl

@[simp] theorem takeReports_mask (s : State) : (takeReports s).faults.mask = s.faults.mask := by
  unfold takeReports; split <;> rfl

/-- No report is left once the reports are taken. -/
@[simp] theorem takeReports_moment (s : State) : (takeReports s).faults.moment = [] := by
  unfold takeReports; split <;> first | rfl | assumption

/-- Reports once taken are not taken again. -/
@[simp] theorem takeReports_takeReports (s : State) : takeReports (takeReports s) = takeReports s := by
  rw [takeReports.eq_def (takeReports s), takeReports_moment]

/-- Taking the reports looks at the fault unit alone: it goes before or after a change of the link receiver. -/
theorem takeReports_withLink (s : State) (l : Link) : takeReports (s.withLink l) = (takeReports s).withLink l := by
  unfold takeReports
  rw [State.withLink_faults]
  split <;> rfl

/-- With no report in the step, nothing is taken. -/
@[simp] theorem takeReports_of_settled {s : State} (h : s.faults.moment = []) : takeReports s = s := by
  unfold takeReports; rw [h]

/-- A command answers the next state that `finish` gives, and nothing else. -/
@[simp] theorem finish_eq_next {s t : State} : finish s = .next t ↔ takeReports s = t := by
  simp [finish]

/-- The reports of one block are taken in the order in which it made them (R184). -/
theorem takenOrder_one_block {b : Block} {l : List (Block × FaultRecord)} (n c : Nat) (hn : l.length ≤ n)
    (h : ∀ x ∈ l, x.1 = b) : takenOrder n c l = l.map Prod.snd := by
  cases n with
  | zero => cases l with
    | nil => rfl
    | cons x r => simp at hn
  | succ n =>
    cases l with
    | nil => simp [takenOrder]
    | cons x r =>
      have hd : ((x :: r).map Prod.fst).dedup = [b] := by
        have e : (x :: r).map Prod.fst = List.replicate (r.length + 1) b := by
          refine List.eq_replicate_iff.2 ⟨by simp, fun y hy => ?_⟩
          obtain ⟨z, hz, rfl⟩ := List.mem_map.1 hy
          exact h z hz
        rw [e]
        exact List.replicate_dedup (by simp)
      simp only [takenOrder, hd]

/-- A step with one report: FIRST takes it when it was absent, and LAST takes it (R186). -/
theorem takeReports_single {s : State} {b : Block} {r : FaultRecord} (h : s.faults.moment = [(b, r)]) :
    (takeReports s).faults = { s.faults with
      first := s.faults.first.or (some r), last := some r, moment := [], freeCount := s.faults.freeCount + 1 } := by
  have ho : takenOrder 1 s.faults.freeCount [(b, r)] = [r] := by
    rw [takenOrder_one_block (b := b) 1 _ (by simp) (by simp)]; rfl
  simp [takeReports, h, ho]

end Sys2Proof.Machine
end

