-- ==== Sys2Proof/Laws/Frames.lean ====
section
/-!
SUPPORT. Laws/Frames.lean: for each shared operation, which blocks of the state it can change: everything else stays. A
proof cites these in place of unfolding the operation.
-/
namespace Sys2Proof.Machine

/-! ## Reports, one after another -/

/-- A list of operations that each change the fault unit alone changes the fault unit alone. -/
theorem foldl_faults {α : Type} (f : State → α → State) (hf : ∀ s a, ∃ x, f s a = { s with faults := x })
    (l : List α) (s : State) : ∃ x, l.foldl f s = { s with faults := x } := by
  induction l generalizing s with
  | nil => exact ⟨s.faults, rfl⟩
  | cons a rest ih =>
    obtain ⟨x, hx⟩ := hf s a
    obtain ⟨y, hy⟩ := ih (f s a)
    exact ⟨y, by rw [List.foldl_cons, hy, hx]⟩

/-- A report changes the fault unit alone. -/
theorem report_frame (b : Block) (k : FaultKind) (d : Nat) (s : State) :
    ∃ x, report b k d s = { s with faults := x } := ⟨_, rfl⟩

/-- A conditional report changes the fault unit alone. -/
theorem reportIf_frame (c : Bool) (b : Block) (k : FaultKind) (d : Nat) (s : State) :
    ∃ x, reportIf c b k d s = { s with faults := x } := by
  cases c
  · exact ⟨s.faults, rfl⟩
  · exact ⟨_, rfl⟩

/-- Taking the reports changes the fault unit alone. -/
theorem takeReports_frame (s : State) : ∃ x, takeReports s = { s with faults := x } := ⟨_, takeReports_eq s⟩

/-! ## The port -/

/-- An arrival at a queue changes the port and the fault unit alone. -/
theorem enqueue_frame (b : Body) (s : State) : ∃ p x, enqueue b s = { s with port := p, faults := x } := by
  unfold enqueue
  dsimp only
  split
  · exact ⟨s.port, s.faults, rfl⟩
  · cases b with
    | change live reason subject epoch lam =>
      dsimp only
      split
      · exact ⟨_, s.faults, rfl⟩
      · exact ⟨s.port, _, rfl⟩
    | pulse condition driving heldValid frame held =>
      obtain ⟨x, hx⟩ := foldl_faults (fun t m => report .port .pulseSkipped (pulseDetail m) t) (fun _ _ => ⟨_, rfl⟩)
        (singleDisplaced (s.port.onBus 3) s.port.pulse)
        (s.withPort { s.port with
          pulse := singlePlace (s.port.onBus 3) s.port.pulse ⟨BitVec.ofNat 4 s.own,
            .pulse condition driving heldValid frame held⟩ })
      exact ⟨_, x, hx⟩
    | light epoch lam => exact ⟨_, s.faults, rfl⟩
    | bounds epochLow floor ceiling => exact ⟨_, s.faults, rfl⟩
    | levels lam mNow target remaining => exact ⟨_, s.faults, rfl⟩
    | fade start target duration => exact ⟨s.port, s.faults, rfl⟩
    | identify start mask period on => exact ⟨s.port, s.faults, rfl⟩
    | identifyOff endFrame => exact ⟨s.port, s.faults, rfl⟩

/-! ## The agreement unit and the solver -/

/-- Dropping queued bounds jobs changes the solver alone. -/
theorem foldl_dropBoundsJob_frame (l : List EpochRecord) (s : State) :
    ∃ y, l.foldl (fun t r => dropBoundsJob r.frame t) s = { s with sol := y } := by
  induction l generalizing s with
  | nil => exact ⟨s.sol, rfl⟩
  | cons a rest ih =>
    obtain ⟨y, hy⟩ := ih (dropBoundsJob a.frame s)
    exact ⟨y, by rw [List.foldl_cons, hy]; rfl⟩

/-- Replacement changes the pending epoch list and the solver's queue alone. -/
theorem removePending_frame (c : Change) (s : State) : ∃ y, removePending c s = { s with
    agr := { s.agr with epochs := (s.agr.epochs.filter (fun r => !removedFor c r)).map (withoutChange c) }
    sol := y } := by
  obtain ⟨y, hy⟩ := foldl_dropBoundsJob_frame (s.agr.epochs.filter (removedFor c)) (s.withAgr { s.agr with
    epochs := (s.agr.epochs.filter (fun r => !removedFor c r)).map (withoutChange c) })
  exact ⟨y, hy⟩

/-- Placing changes the pending epoch list and the fault unit alone. -/
theorem placeChange_frame (c : Change) (n : FrameNo) (s : State) :
    ∃ e x, placeChange c n s = { s with agr := { s.agr with epochs := e }, faults := x } := by
  unfold placeChange
  split
  · exact ⟨_, s.faults, rfl⟩
  · split
    · exact ⟨_, s.faults, rfl⟩
    · exact ⟨_, _, rfl⟩

/-- A change taken touches the pending epoch list, the solver's queue and the fault unit alone. -/
theorem takeChange_frame (c : Change) (n : FrameNo) (s : State) :
    ∃ e y x, takeChange c n s = { s with agr := { s.agr with epochs := e }, sol := y, faults := x } := by
  unfold takeChange
  dsimp only
  obtain ⟨x, hx⟩ := reportIf_frame (notAfter n (s.current + 3)) .agreement .lateChange (changeSubject c) s
  rw [hx]
  obtain ⟨y, hy⟩ := removePending_frame c { s with faults := x }
  split
  · split
    · exact ⟨_, y, x, hy⟩
    · exact ⟨s.agr.epochs, s.sol, x, rfl⟩
  · obtain ⟨e, z, hz⟩ := placeChange_frame c (reEpoch s.current n) (removePending c { s with faults := x })
    rw [hz, hy]
    exact ⟨e, y, z, rfl⟩

/-- A bounds completion changes the pending epoch list, the port and the fault unit alone. -/
theorem takeBoundsResult_frame (n : FrameNo) (pair : Option LevelPair) (s : State) :
    ∃ e p x, takeBoundsResult n pair s = { s with agr := { s.agr with epochs := e }, port := p, faults := x } := by
  unfold takeBoundsResult
  split
  · exact ⟨s.agr.epochs, s.port, s.faults, rfl⟩
  · dsimp only
    cases pair with
    | none => split <;> exact ⟨_, s.port, s.faults, rfl⟩
    | some q =>
      obtain ⟨p, x, h⟩ := enqueue_frame (.bounds (n.setWidth 16) (BitVec.ofNat 24 q.floor) (BitVec.ofNat 24 q.ceiling)) s
      simp only [h]
      split <;> exact ⟨_, p, x, rfl⟩

/-- The completion of a bounds pass changes the pending epoch list, the solver, the port and the fault unit alone. -/
theorem completeBounds_frame (q : Pass) (s : State) : ∃ e y p x, completeBounds q s =
    { s with agr := { s.agr with epochs := e }, sol := y, port := p, faults := x } := by
  unfold completeBounds
  dsimp only
  obtain ⟨x, hx⟩ := reportIf_frame (decide (0 < degenerateCount q s.own s.pix.grid)) .solver .nodeDegenerate
    (degenerateCount q s.own s.pix.grid) (s.withSol { s.sol with running := none })
  rw [hx]
  obtain ⟨e, p, z, h⟩ := takeBoundsResult_frame q.job.epoch (boundsPair q s.own s.pix.grid)
    { s.withSol { s.sol with running := none } with faults := x }
  exact ⟨e, _, p, z, h⟩

/-- A pass that starts changes the solver alone. -/
theorem startPass_frame (j : Job) (s : State) : ∃ y, startPass j s = { s with sol := y } := by
  unfold startPass
  dsimp only
  split <;> exact ⟨_, rfl⟩

/-- The solver's choices change the pending epoch list, the solver, the port and the fault unit alone. -/
theorem chooseJobs_frame (n : Nat) (s : State) : ∃ e y p x, chooseJobs n s =
    { s with agr := { s.agr with epochs := e }, sol := y, port := p, faults := x } := by
  induction n generalizing s with
  | zero => exact ⟨s.agr.epochs, s.sol, s.port, s.faults, rfl⟩
  | succ n ih =>
    unfold chooseJobs
    split
    · exact ⟨s.agr.epochs, s.sol, s.port, s.faults, rfl⟩
    · split
      · exact ⟨s.agr.epochs, s.sol, s.port, s.faults, rfl⟩
      · rename_i j _
        dsimp only
        obtain ⟨y, hy⟩ := startPass_frame j s
        split
        · obtain ⟨e, z, p, x, h⟩ := completeBounds_frame (makePass s.agr j) (startPass j s)
          obtain ⟨e', z', p', x', h'⟩ := ih (completeBounds (makePass s.agr j) (startPass j s))
          exact ⟨e', z', p', x', by rw [h', h, hy]⟩
        · exact ⟨s.agr.epochs, y, s.port, s.faults, hy⟩

/-- The solver's choices at a completion or a frame start. -/
theorem startJobs_frame (s : State) : ∃ e y p x, startJobs s =
    { s with agr := { s.agr with epochs := e }, sol := y, port := p, faults := x } := chooseJobs_frame _ s

/-- The answer to a swap request changes the solver and the fault unit alone. -/
theorem answerSwap_frame (r : EpochRecord) (s : State) : ∃ y x, answerSwap r s = { s with sol := y, faults := x } := by
  unfold answerSwap
  dsimp only
  split
  · exact ⟨_, s.faults, rfl⟩
  · split <;> exact ⟨_, _, rfl⟩

/-- The state changes of a record set the memberships, and beside them change the peer table and the controller alone. -/
theorem foldl_applyState_frame (cs : List StateChange) (s : State) : ∃ ps k, cs.foldl applyState s =
    { s with agr := { s.agr with live := applyMemberships s.agr.live cs, peers := ps }, ctl := k } := by
  induction cs generalizing s with
  | nil => exact ⟨s.agr.peers, s.ctl, rfl⟩
  | cons c rest ih =>
    have hc : ∃ ps k, applyState s c =
        { s with agr := { s.agr with live := setMember s.agr.live c.subject c.live, peers := ps }, ctl := k } := by
      unfold applyState
      dsimp only
      split
      · exact ⟨s.agr.peers, s.ctl, rfl⟩
      · exact ⟨_, _, rfl⟩
    obtain ⟨ps, k, hc⟩ := hc
    obtain ⟨qs, j, h⟩ := ih (applyState s c)
    exact ⟨qs, j, by rw [List.foldl_cons, h, hc]; rfl⟩

/-- A record that takes effect sets the memberships and the levels, and beside them changes the peer table, the solver, the
controller and the fault unit alone. -/
theorem applyRecord_frame (s : State) (r : EpochRecord) : ∃ ps y k x, applyRecord s r =
    { s with
      agr := { s.agr with
        live := applyMemberships s.agr.live r.states, peers := ps, levels := r.levels.getD s.agr.levels }
      sol := y, ctl := k, faults := x } := by
  obtain ⟨ps, k, h⟩ := foldl_applyState_frame r.states s
  obtain ⟨y, x, ha⟩ := answerSwap_frame r (applyLights r (r.states.foldl applyState s))
  unfold applyRecord
  rw [ha, h]
  exact ⟨_, _, k, x, rfl⟩

/-- A cut changes the pending epoch list, the solver and the fault unit alone. -/
theorem cutRecord_frame (s : State) (r : EpochRecord) : ∃ e y x, cutRecord s r =
    { s with agr := { s.agr with epochs := e }, sol := y, faults := x } := by
  unfold cutRecord
  dsimp only
  obtain ⟨x, hx⟩ := foldl_faults (fun u e => report .agreement .staleBound e.station u) (fun _ _ => ⟨_, rfl⟩)
    ((cutTable s.agr r).filter (fun e => !e.received && !(e.station == s.own))) s
  rw [hx]
  obtain ⟨z, hz⟩ := reportIf_frame (collapses (reduceBounds (cutTable s.agr r))) .agreement .levelCollapse
    (r.frame.setWidth 16).toNat { s with faults := x }
  rw [hz]
  exact ⟨_, _, z, rfl⟩

/-! ## The link receiver and the frame store -/

/-- Poisoning the open frame changes the link receiver alone. -/
theorem poison_frame (cause : Nat) (s : State) : ∃ l, poison cause s = { s with link := l } := ⟨_, rfl⟩

/-- A poisoned frame that ends changes the link receiver, the frame store and the fault unit alone. -/
theorem endPoisoned_frame (f : OpenFrame) (s : State) :
    ∃ l y x, endPoisoned f s = { s with link := l, store := y, faults := x } := by
  unfold endPoisoned releaseFrameSlot
  split
  · exact ⟨_, _, _, rfl⟩
  · exact ⟨_, s.store, _, rfl⟩

/-- The link leaving UP changes the link receiver, the frame store and the fault unit alone. -/
theorem leaveUp_frame (s : State) : ∃ l y x, leaveUp s = { s with link := l, store := y, faults := x } := by
  unfold leaveUp poisonAndEnd
  split
  · obtain ⟨l, y, x, h⟩ := endPoisoned_frame _ _
    exact ⟨l, y, x, h⟩
  · exact ⟨_, s.store, s.faults, rfl⟩

/-- A selection changes the frame store and the fault unit alone. -/
theorem selectContent_frame (s : State) : ∃ y x, selectContent s = { s with store := y, faults := x } := by
  have key : ∀ (c c' : Bool) (d d' : Nat) (y : Store), ∃ x, reportIf c .store .contentBehind d
      (reportIf c' .store .frameRepeat d' (s.withStore y)) = { s with store := y, faults := x } := by
    intro c c' d d' y
    cases c <;> cases c' <;> exact ⟨_, rfl⟩
  obtain ⟨x, h⟩ := key _ _ _ _ _
  exact ⟨_, x, h⟩

/-! ## The bus -/

/-- A frame that the port does not take changes nothing. -/
theorem receiveFrame_of_not_takes {f : BusFrame} {s : State} (h : takesFrames s = false) : receiveFrame f s = s := by
  simp [receiveFrame, h]

/-- A frame that holds the message `m` of a station that is neither this one nor stray is accepted (R110 to R112). -/
theorem receiveFrame_of_message {f : BusFrame} {m : Message} {s : State} (ht : takesFrames s = true)
    (hc : clashes s.own f = false) (hm : frameMessage f = some m) (hs : strayed s m = false) :
    receiveFrame f s = acceptMessage m s := by
  simp [receiveFrame, ht, hc, hm, hs]

end Sys2Proof.Machine
end

