-- ==== Sys2Proof/Laws/FrameStart.lean ====
section
/-!
SUPPORT. Laws/FrameStart.lean: for each part of a frame start, which blocks of the state it can change, and the frame start
of a working station as the sequence of its parts.
-/
namespace Sys2Proof.Machine

/-! ## The raster and the counts -/

/-- The raster's part changes the frame line unit and the fault unit alone. -/
theorem rasterFrameStart_frame (first : Stamp) (s : State) :
    ∃ x, rasterFrameStart first s = { s with line := lineFrameStart first s.halfWidth s.line, faults := x } := by
  obtain ⟨x, h⟩ := reportIf_frame (adoptsCount s.line) .frameLine .countAdopt
    ((nextFrameNo s.line).setWidth 16).toNat (s.withLine (lineFrameStart first s.halfWidth s.line))
  exact ⟨x, h⟩

/-- The off count of a frame start changes the port alone. -/
theorem portFrameStart_frame (s : State) : ∃ p, portFrameStart s = { s with port := p } := by
  unfold portFrameStart
  dsimp only
  repeat' split
  all_goals exact ⟨_, rfl⟩

/-- Input health changes the link receiver and the fault unit alone. -/
theorem inputHealthStep_frame (s : State) : ∃ l x, inputHealthStep s = { s with link := l, faults := x } := by
  unfold inputHealthStep
  dsimp only
  repeat' split
  all_goals first | exact ⟨_, s.faults, rfl⟩ | exact ⟨_, _, rfl⟩

/-- The peers after the silence counts of a frame start (R35). -/
def silencedPeers (s : State) : List PeerRecord := (silenceStep s).agr.peers

/-- The silence counts change the peer table alone. -/
theorem silenceStep_frame (s : State) : silenceStep s = { s with agr := { s.agr with peers := silencedPeers s } } := by
  unfold silencedPeers silenceStep
  split <;> rfl

/-- The counts of a frame start change, beside the port and the link receiver, the spacing count, the peers' silence counts
and the station controller's counts. -/
theorem frameCounts_frame (s : State) : ∃ p l x,
    frameCounts s = { s with
      port := p, link := l, faults := x
      light := { s.light with spacing := satInc 65535 s.light.spacing }
      agr := { s.agr with peers := silencedPeers { s with port := p } }
      ctl := { s.ctl with
        listen := if s.ctl.condition = .joining ∧ p.state = .active then satInc 65535 s.ctl.listen else s.ctl.listen
        aligned := if alignedNow s then satInc 65535 s.ctl.aligned else 0
        selfSilence := satInc 65535 s.ctl.selfSilence } } := by
  obtain ⟨p, hp⟩ := portFrameStart_frame s
  obtain ⟨l, x, hl⟩ := inputHealthStep_frame (portFrameStart s)
  refine ⟨p, l, x, ?_⟩
  unfold frameCounts
  rw [hl, hp, silenceStep_frame]
  unfold silencedPeers silenceStep countStep spacingStep alignedNow
  by_cases h : p.state = .active <;> simp [h, State.withCtl, State.withAgr, State.withLight] <;> first | rfl | exact ⟨rfl, rfl⟩

/-! ## The agreement part -/

/-- A held swap that is made changes the solver alone. -/
theorem lateSwapStep_frame (s : State) : ∃ y, lateSwapStep s = { s with sol := y } := by
  unfold lateSwapStep
  split
  · exact ⟨s.sol, rfl⟩
  · split
    · exact ⟨_, rfl⟩
    · exact ⟨s.sol, rfl⟩

/-- The records due change the agreement unit, the solver, the station controller and the fault unit alone. -/
theorem applyDue_frame (old : FrameNo) (s : State) : ∃ a y k x,
    applyDue old s = { s with agr := a, sol := y, ctl := k, faults := x } := by
  have key : ∀ (l : List EpochRecord) (u : State), ∃ a y k x,
      l.foldl applyRecord u = { u with agr := a, sol := y, ctl := k, faults := x } := by
    intro l
    induction l with
    | nil => exact fun u => ⟨u.agr, u.sol, u.ctl, u.faults, rfl⟩
    | cons r rest ih =>
      intro u
      obtain ⟨ps, y, k, x, h⟩ := applyRecord_frame u r
      obtain ⟨a', y', k', x', h'⟩ := ih (applyRecord u r)
      exact ⟨a', y', k', x', by rw [List.foldl_cons, h', h]⟩
  obtain ⟨a, y, k, x, h⟩ := key (s.agr.epochs.filter (isDue old s.current))
    (s.withAgr { s.agr with epochs := s.agr.epochs.filter (fun r => !isDue old s.current r) })
  exact ⟨a, y, k, x, h⟩

/-- The repairs change the live view, the peer table and the fault unit alone. -/
theorem foldl_repairPeer_frame (l : List Nat) (s : State) : ∃ v ps x,
    l.foldl repairPeer s = { s with agr := { s.agr with live := v, peers := ps }, faults := x } := by
  induction l generalizing s with
  | nil => exact ⟨s.agr.live, s.agr.peers, s.faults, rfl⟩
  | cons i rest ih =>
    obtain ⟨v, ps, x, h⟩ := ih (repairPeer s i)
    exact ⟨v, ps, x, by rw [List.foldl_cons, h]; rfl⟩

/-- The agreement part of a frame start changes the agreement unit, the solver, the station controller and the fault unit
alone. -/
theorem frameAgreement_frame (joining : Bool) (old : FrameNo) (s : State) : ∃ a y k x,
    frameAgreement joining old s = { s with agr := a, sol := y, ctl := k, faults := x } := by
  have hv : ∃ a, viewStep joining old s = { s with agr := a } := by
    unfold viewStep
    split
    · exact ⟨_, rfl⟩
    · exact ⟨_, rfl⟩
  obtain ⟨a, hv⟩ := hv
  obtain ⟨y, hy⟩ := lateSwapStep_frame (viewStep joining old s)
  obtain ⟨b, z, k, x, hb⟩ := applyDue_frame old (lateSwapStep (viewStep joining old s))
  obtain ⟨v, ps, w, hr⟩ := foldl_repairPeer_frame (if joining then [] else repairDue s)
    (applyDue old (lateSwapStep (viewStep joining old s)))
  unfold frameAgreement
  dsimp only
  rw [hr, hb, hy, hv]
  unfold showStep dwellStep lightSourceStep
  cases joining <;> simp only [Bool.false_eq_true, if_false, if_true] <;> split <;> exact ⟨_, _, _, _, rfl⟩

/-! ## Changes, jobs, selection and setup -/

/-- The own announcement changes the port, the light monitor and the fault unit alone. -/
theorem announceStep_frame (s : State) : ∃ p w x, announceStep s = { s with port := p, light := w, faults := x } := by
  unfold announceStep
  split
  · unfold announceLive
    dsimp only
    obtain ⟨p, x, h⟩ := enqueue_frame
      (.change true .join (BitVec.ofNat 8 s.own) s.leadEpoch (field16 s.light.filtered)) s
    rw [h]
    split
    · exact ⟨p, _, x, rfl⟩
    · exact ⟨p, s.light, x, rfl⟩
  · split
    · obtain ⟨p, x, h⟩ := enqueue_frame
        (.change false (if s.link.health = .failed then .input else .light) (BitVec.ofNat 8 s.own) s.leadEpoch 0) s
      exact ⟨p, s.light, x, h⟩
    · exact ⟨s.port, s.light, s.faults, rfl⟩

/-- Peer silence changes the port and the fault unit alone. -/
theorem peerSilenceStep_frame (s : State) : ∃ p x, peerSilenceStep s = { s with port := p, faults := x } := by
  have key : ∀ (l : List Nat) (u : State), ∃ p x, l.foldl announceSilence u = { u with port := p, faults := x } := by
    intro l
    induction l with
    | nil => exact fun u => ⟨u.port, u.faults, rfl⟩
    | cons i rest ih =>
      intro u
      obtain ⟨p, x, h⟩ := enqueue_frame (.change false .silence (BitVec.ofNat 8 i) u.leadEpoch 0) u
      obtain ⟨y, hy⟩ := reportIf_frame u.port.takesChange .agreement .peerSilent i
        (enqueue (.change false .silence (BitVec.ofNat 8 i) u.leadEpoch 0) u)
      have ha : announceSilence u i = { u with port := p, faults := y } := by
        unfold announceSilence
        dsimp only
        rw [hy, h]
      obtain ⟨p', x', h'⟩ := ih (announceSilence u i)
      exact ⟨p', x', by rw [List.foldl_cons, h', ha]⟩
  exact key _ s

/-- Self-silence changes the pending epoch list, the solver's queue and the fault unit alone. -/
theorem selfSilenceStep_frame (s : State) : ∃ e y x,
    selfSilenceStep s = { s with agr := { s.agr with epochs := e }, sol := y, faults := x } := by
  unfold selfSilenceStep
  split
  · obtain ⟨e, y, x, h⟩ := takeChange_frame (.state { subject := s.own, live := false, reason := .silent, lam := none })
      s.leadEpoch s
    rw [h]
    exact ⟨e, y, _, rfl⟩
  · exact ⟨s.agr.epochs, s.sol, s.faults, rfl⟩

/-- The LIGHT request changes the port, the light monitor and the fault unit alone. -/
theorem lightRequestStep_frame (s : State) : ∃ p w x,
    lightRequestStep s = { s with port := p, light := w, faults := x } := by
  unfold lightRequestStep
  split
  · dsimp only
    obtain ⟨p, x, h⟩ := enqueue_frame (.light s.leadEpoch (field16 s.light.filtered)) s
    rw [h]
    exact ⟨p, _, x, rfl⟩
  · exact ⟨s.port, s.light, s.faults, rfl⟩

/-- The changes of a frame start touch the pending epoch list, the solver's queue, the port, the light monitor and the fault
unit alone. -/
theorem frameChanges_frame (s : State) : ∃ e y p w x,
    frameChanges s = { s with agr := { s.agr with epochs := e }, sol := y, port := p, light := w, faults := x } := by
  obtain ⟨p, w, x, h⟩ := announceStep_frame s
  unfold frameChanges
  dsimp only
  rw [h]
  have key : ∃ q z, (if s.ctl.condition = .joining then ({ s with port := p, light := w, faults := x } : State)
      else peerSilenceStep { s with port := p, light := w, faults := x }) =
      { s with port := q, light := w, faults := z } := by
    split
    · exact ⟨p, x, rfl⟩
    · obtain ⟨q, z, hq⟩ := peerSilenceStep_frame { s with port := p, light := w, faults := x }
      exact ⟨q, z, hq⟩
  obtain ⟨q, z, hq⟩ := key
  rw [hq]
  obtain ⟨e, y, x', hs⟩ := selfSilenceStep_frame { s with port := q, light := w, faults := z }
  rw [hs]
  obtain ⟨p', w', x'', hl⟩ := lightRequestStep_frame
    { s with agr := { s.agr with epochs := e }, sol := y, port := q, light := w, faults := x' }
  exact ⟨e, y, p', w', x'', hl⟩

/-- The cuts of a frame start change the pending epoch list, the solver and the fault unit alone. -/
theorem cutStep_frame (s : State) : ∃ e y x,
    cutStep s = { s with agr := { s.agr with epochs := e }, sol := y, faults := x } := by
  have key : ∀ (l : List EpochRecord) (u : State), ∃ e y x,
      l.foldl cutRecord u = { u with agr := { u.agr with epochs := e }, sol := y, faults := x } := by
    intro l
    induction l with
    | nil => exact fun u => ⟨u.agr.epochs, u.sol, u.faults, rfl⟩
    | cons r rest ih =>
      intro u
      obtain ⟨e, y, x, h⟩ := cutRecord_frame u r
      obtain ⟨e', y', x', h'⟩ := ih (cutRecord u r)
      exact ⟨e', y', x', by rw [List.foldl_cons, h', h]⟩
  exact key _ s

/-- The jobs of a frame start change the pending epoch list, the solver, the port and the fault unit alone. -/
theorem frameJobs_frame (s : State) : ∃ e y p x,
    frameJobs s = { s with agr := { s.agr with epochs := e }, sol := y, port := p, faults := x } := by
  unfold frameJobs
  obtain ⟨e, y, x, h⟩ := cutStep_frame (queueBoundsJobs s)
  rw [h]
  obtain ⟨e', y', p', x', h'⟩ := startJobs_frame
    { queueBoundsJobs s with agr := { (queueBoundsJobs s).agr with epochs := e }, sol := y, faults := x }
  exact ⟨e', y', p', x', h'⟩

/-- The setup of a frame start changes the frame setup and the MEMORY_ECC mark alone. -/
theorem setupStep_frame (s : State) : setupStep s = { s with
    pix := { s.pix with setup := some (frameSetup s) }, store := { s.store with eccReported := false } } := rfl

/-- The end of a frame changes the MEMORY_ECC mark and the fault unit alone. -/
theorem endFrameReads_frame (s : State) : ∃ b x,
    endFrameReads s = { s with store := { s.store with eccReported := b }, faults := x } := by
  unfold endFrameReads eccReport
  split
  · rw [takeReports_eq]; exact ⟨true, _, rfl⟩
  · rw [takeReports_eq]; exact ⟨s.store.eccReported, _, rfl⟩

/-! ## The whole frame start -/

/-- The frame start of a working station is the sequence of its parts, and then the reports are taken (R80, log 8). -/
theorem exec_frameStart {first : Stamp} {s : State} (hw : s.working = true) (hr : s.line.running = true) :
    exec (.frameStart first) s = .next (takeReports (setupStep (selectContent (frameJobs (frameChanges (frameAgreement
      (s.ctl.condition == .joining) s.line.frameNo (frameCounts (rasterFrameStart first (endFrameReads s))))))))) := by
  simp [exec, execFrameStart, hw, hr, finish, workingFrameStart]

end Sys2Proof.Machine
end

