-- ==== Sys2Proof/Laws/Lanes.lean ====
section
/-!
SUPPORT. Laws/Lanes.lean: reading a packet back from its lane words: where the lanes in use are quiet and read the sync word,
the lanes give exactly the packet, and no lane is left holding a word (`takeWords_packet`).
-/
namespace Sys2Proof.Machine

/-! ## Bytes and words -/

theorem join16_toNat (a b : Byte) : (join16 a b).toNat = a.toNat * 256 + b.toNat := toNat_beside a b

@[simp] theorem bytes16_join16 (a b : Byte) : bytes16 (join16 a b) = [a, b] := by
  have h := join16_toNat a b
  have ha := a.isLt
  have hb := b.isLt
  simp only [bytes16, List.cons.injEq, and_true]
  constructor <;> apply BitVec.eq_of_toNat_eq <;>
    simp only [BitVec.extractLsb'_toNat, h, Nat.shiftRight_eq_div_pow] <;> omega

theorem laneData_wordsOfBytes : ∀ l : List Byte, l.length % 2 = 0 → laneData (wordsOfBytes l) = l
  | [], _ => rfl
  | [_], h => by simp at h
  | a :: b :: rest, h => by
    have ih := laneData_wordsOfBytes rest (by simp at h; omega)
    rw [wordsOfBytes, laneData, List.flatMap_cons, bytes16_join16, ← laneData, ih]
    rfl

theorem length_wordsOfBytes : ∀ l : List Byte, (wordsOfBytes l).length = l.length / 2
  | [] => rfl
  | [_] => by simp [wordsOfBytes]
  | a :: b :: rest => by simp [wordsOfBytes, length_wordsOfBytes rest]; omega

theorem length_laneBytes (n i : Nat) (packet : List Byte) : (laneBytes n i packet).length = laneByteCount n packet.length := by
  simp [laneBytes]

theorem laneByteCount_even (n b : Nat) : laneByteCount n b % 2 = 0 := by simp [laneByteCount]

/-- The lane words of a packet's part give the part back. -/
theorem laneData_laneBytes (n i : Nat) (packet : List Byte) :
    laneData (wordsOfBytes (laneBytes n i packet)) = laneBytes n i packet :=
  laneData_wordsOfBytes _ (by rw [length_laneBytes]; exact laneByteCount_even _ _)

/-! ## The packet from its lanes (R118, R126, R127) -/

theorem place_lt {n b j : Nat} (hn : 0 < n) (hj : j < b) : j / n < laneByteCount n b := by
  unfold laneByteCount
  have h2 : (b + 2 * n - 1) / (2 * n) = (b - 1) / (2 * n) + 1 := by
    have : b + 2 * n - 1 = (b - 1) + 2 * n := by omega
    rw [this, Nat.add_div_right _ (by omega)]
  rw [h2]
  have h1 : j / n ≤ (b - 1) / n := Nat.div_le_div_right (by omega)
  have h3 : (b - 1) / n / 2 = (b - 1) / (2 * n) := by rw [Nat.div_div_eq_div_mul, Nat.mul_comm]
  omega

theorem packetByte_lanes {n : Nat} (hn : 0 < n) (packet : List Byte) {j : Nat} (hj : j < packet.length) :
    packetByte ((List.range n).map (fun i => laneBytes n i packet)) j = some packet[j] := by
  have hm : j % n < n := Nat.mod_lt _ hn
  have hd := place_lt hn hj
  have e : j / n * n + j % n = j := by rw [Nat.mul_comm]; exact Nat.div_add_mod j n
  simp only [packetByte, List.length_map, List.length_range]
  rw [List.getD_eq_getElem?_getD, List.getElem?_map, List.getElem?_range hm]
  simp [laneBytes, List.getElem?_map, List.getElem?_range hd, e, List.getElem?_eq_getElem hj]

theorem mapM_some {α β : Type} {f : α → Option β} {g : α → β} :
    ∀ {l : List α}, (∀ a ∈ l, f a = some (g a)) → l.mapM f = some (l.map g)
  | [], _ => rfl
  | a :: l, h => by
    have ih := mapM_some (l := l) (fun x hx => h x (List.mem_cons_of_mem _ hx))
    simp [List.mapM_cons, h a (List.mem_cons_self), ih]

theorem packetPrefix_lanes {n : Nat} (hn : 0 < n) (packet : List Byte) {count : Nat} (hc : count ≤ packet.length) :
    packetPrefix ((List.range n).map (fun i => laneBytes n i packet)) count = some (packet.take count) := by
  have h : ∀ j ∈ List.range count,
      packetByte ((List.range n).map (fun i => laneBytes n i packet)) j = some (packet.getD j 0) := by
    intro j hj
    have hj' : j < packet.length := by simp at hj; omega
    rw [packetByte_lanes hn packet hj', List.getD_eq_getElem _ _ hj']
  rw [packetPrefix, mapM_some h]
  congr 1
  apply List.ext_getElem
  · simp; omega
  · intro i h1 h2
    simp at h1 h2
    simp [List.getElem?_eq_getElem h2.2]

/-- The lanes of a packet give it back. -/
theorem wholePacket_lanes {n : Nat} (hn : 0 < n) (kind : Byte) (payload : List Byte) (hp : payload.length ≤ 65535) :
    wholePacket ((List.range n).map (fun i => laneBytes n i (packetBytes kind payload))) = some ⟨kind, payload⟩ := by
  have hl : (packetBytes kind payload).length = 3 + payload.length := by simp [packetBytes, beBytes]; omega
  have h3 := packetPrefix_lanes hn (packetBytes kind payload) (count := 3) (by omega)
  have hall := packetPrefix_lanes hn (packetBytes kind payload) (count := 3 + payload.length) (by omega)
  have hjoin : (join16 (BitVec.ofNat 8 (payload.length / 256)) (BitVec.ofNat 8 payload.length)).toNat = payload.length := by
    rw [join16_toNat, BitVec.toNat_ofNat, BitVec.toNat_ofNat]
    omega
  have e3 : (packetBytes kind payload).take 3 =
      [kind, BitVec.ofNat 8 (payload.length / 256), BitVec.ofNat 8 payload.length] := by
    simp [packetBytes, beBytes]
  have eall : (packetBytes kind payload).take (3 + payload.length) = packetBytes kind payload := by
    rw [← hl, List.take_length]
  rw [e3] at h3
  rw [eall] at hall
  simp only [wholePacket, h3, hjoin, hall]
  rw [if_pos]
  · simp [packetBytes, beBytes]
  · simp [length_laneBytes, hl]

/-! ## Marks (R126) -/

theorem earliest_mem : ∀ {i : Nat} {l : List (Option Nat)} {t j : Nat}, earliest i l = some (t, j) →
    ∃ k, j = i + k ∧ l[k]? = some (some t)
  | _, [], _, _, h => by simp [earliest] at h
  | i, none :: l, t, j, h => by
    obtain ⟨k, hk, hl⟩ := earliest_mem (i := i + 1) (l := l) (by simpa [earliest] using h)
    exact ⟨k + 1, by omega, by simpa using hl⟩
  | i, some u :: l, t, j, h => by
    have first : ∀ {v : Nat}, some (v, i) = some (t, j) → u = v → ∃ k, j = i + k ∧ (some u :: l)[k]? = some (some t) := by
      intro v hv huv
      simp only [Option.some.injEq, Prod.mk.injEq] at hv
      exact ⟨0, by omega, by simp [huv, hv.1]⟩
    rw [earliest] at h
    split at h
    · rename_i v k hv
      split at h
      · exact first h rfl
      · obtain ⟨k', hk, hl⟩ := earliest_mem hv
        simp only [Option.some.injEq, Prod.mk.injEq] at h
        exact ⟨k' + 1, by omega, by simpa [h.1] using hl⟩
    · exact first h rfl

theorem earliest_none : ∀ {i : Nat} {l : List (Option Nat)}, (∀ x ∈ l, x = none) → earliest i l = none
  | _, [], _ => rfl
  | i, x :: l, h => by
    rw [h x List.mem_cons_self, earliest]
    exact earliest_none (fun y hy => h y (List.mem_cons_of_mem _ hy))

theorem earliest_isSome : ∀ {i : Nat} {l : List (Option Nat)} {k u : Nat}, l[k]? = some (some u) →
    ∃ t j, earliest i l = some (t, j)
  | _, [], _, _, h => by simp at h
  | i, none :: l, 0, _, h => by simp at h
  | i, none :: l, k + 1, u, h => by
    obtain ⟨t, j, hl⟩ := earliest_isSome (i := i + 1) (l := l) (by simpa using h)
    exact ⟨t, j, by simpa [earliest] using hl⟩
  | i, some v :: l, _, _, _ => by
    rw [earliest]
    split
    · split
      · exact ⟨_, _, rfl⟩
      · exact ⟨_, _, rfl⟩
    · exact ⟨_, _, rfl⟩

/-- The first mark is a lane's mark, at that lane's time. -/
theorem firstMark_mem {times : List Nat} {readers : List LaneReader} {t j : Nat} (h : firstMark times readers = some (t, j)) :
    ∃ x, times[j]? = some t ∧ readers[j]? = some x ∧ x.mark.isSome = true := by
  obtain ⟨k, hk, hl⟩ := earliest_mem h
  have hk' : j = k := by omega
  subst hk'
  simp only [List.getElem?_zipWith] at hl
  split at hl
  · rename_i t' x ht hx
    simp only [Option.some.injEq, markTime] at hl
    split at hl
    · exact ⟨x, by rw [ht]; exact hl, hx, by assumption⟩
    · exact absurd hl (by simp)
  · exact absurd hl (by simp)

/-- The next word is one of a lane that has marked no start, 16 bit times after the lane's time. -/
theorem nextWord_mem {times : List Nat} {readers : List LaneReader} {t j : Nat} (h : nextWord times readers = some (t, j)) :
    ∃ u x, times[j]? = some u ∧ readers[j]? = some x ∧ t = u + 16 ∧ x.mark = none := by
  obtain ⟨k, hk, hl⟩ := earliest_mem h
  have hk' : j = k := by omega
  subst hk'
  simp only [List.getElem?_zipWith] at hl
  split at hl
  · rename_i u x hu hx
    simp only [Option.some.injEq, wordTime] at hl
    split at hl
    · rename_i hc
      simp only [Option.some.injEq, Bool.and_eq_true, Option.isNone_iff_eq_none] at hl hc
      exact ⟨u, x, hu, hx, hl.symm, hc.1⟩
    · exact absurd hl (by simp)
  · exact absurd hl (by simp)

theorem firstMark_none_of_unmarked {times : List Nat} {readers : List LaneReader} (h : ∀ x ∈ readers, x.mark = none) :
    firstMark times readers = none := by
  cases hf : firstMark times readers with
  | none => rfl
  | some f =>
    obtain ⟨t, j⟩ := f
    obtain ⟨x, -, hx, hm⟩ := firstMark_mem hf
    rw [h x (List.mem_of_getElem? hx)] at hm
    exact absurd hm (by simp)

/-- Lanes of which some have marked no start and hold a word, and the others the sync word, with no such word past the spread,
go on with a word of one of the former. -/
theorem gather_reads {times : List Nat} {readers : List LaneReader} {k : Nat} (hlen : times.length = readers.length)
    (hk : ∃ x : LaneReader, readers[k]? = some x ∧ x.mark = none ∧ x.words ≠ [])
    (hs : ∀ (i j a b : Nat) (x : LaneReader), times[i]? = some a → times[j]? = some b → readers[i]? = some x →
      x.mark = none → (∃ y : LaneReader, readers[j]? = some y ∧ y.mark.isSome = true) → a + 16 < b + 72) :
    ∃ j x, gather times readers = .reads j ∧ readers[j]? = some x ∧ x.mark = none := by
  obtain ⟨x, hx, hm, hw⟩ := hk
  have hkl : k < readers.length := (List.getElem?_eq_some_iff.mp hx).1
  have ht : times[k]? = some times[k] := List.getElem?_eq_getElem (by omega)
  obtain ⟨t, j, hn⟩ : ∃ t j, nextWord times readers = some (t, j) := by
    apply earliest_isSome (k := k) (u := times[k] + 16)
    rw [List.getElem?_zipWith, ht, hx]
    simp [wordTime, hm, hw]
  obtain ⟨u, y, hu, hy, rfl, hym⟩ := nextWord_mem hn
  refine ⟨j, y, ?_, hy, hym⟩
  cases hf : firstMark times readers with
  | none => simp only [gather, hf, hn]
  | some f =>
    obtain ⟨first, l⟩ := f
    obtain ⟨z, hl, hz, hzm⟩ := firstMark_mem hf
    have hlt := hs j l u first y hu hl hy hym ⟨z, hz, hzm⟩
    have hc : (marksInTime first times readers).contains none = true := by
      rw [List.contains_iff_mem]
      apply List.mem_of_getElem? (i := k)
      rw [marksInTime, List.getElem?_zipWith, ht, hx]
      simp [markInTime, hm]
    simp only [gather, hf, hn, hc, hlt, if_true]

theorem marksInTime_sync {first : Nat} : ∀ {times : List Nat} {readers : List LaneReader},
    (∀ t ∈ times, t < first + 72) → (∀ x ∈ readers, x.mark = some .sync) →
    ∀ m ∈ marksInTime first times readers, m = some .sync
  | [], [], _, _, m, hm => by simp [marksInTime] at hm
  | [], _ :: _, _, _, m, hm => by simp [marksInTime] at hm
  | _ :: _, [], _, _, m, hm => by simp [marksInTime] at hm
  | t :: times, x :: readers, ht, hx, m, hm => by
    simp only [marksInTime, List.zipWith_cons_cons, List.mem_cons] at hm
    rcases hm with rfl | hm
    · simp [markInTime, ht t List.mem_cons_self, hx x List.mem_cons_self]
    · exact marksInTime_sync (fun a ha => ht a (List.mem_cons_of_mem _ ha)) (fun a ha => hx a (List.mem_cons_of_mem _ ha)) m hm

/-- Lanes that have all marked the sync word, no more than 8 lane bytes apart, give the packet that they hold whole. -/
theorem gather_whole {times : List Nat} {readers : List LaneReader} {p : Packet} (hlen : times.length = readers.length)
    (hr : readers ≠ []) (hs : ∀ a ∈ times, ∀ b ∈ times, a < b + 72) (hx : ∀ x ∈ readers, x.mark = some .sync)
    (hw : wholePacket (readers.map (fun x => laneData x.words)) = some p) : gather times readers = .whole p := by
  have h0 : 0 < readers.length := List.length_pos_iff.mpr hr
  obtain ⟨t, j, h⟩ : ∃ t j, firstMark times readers = some (t, j) := by
    apply earliest_isSome (k := 0) (u := times[0])
    rw [List.getElem?_zipWith, List.getElem?_eq_getElem (by omega), List.getElem?_eq_getElem h0]
    simp [markTime, hx _ (List.getElem_mem h0)]
  have hm := marksInTime_sync (fun a ha => hs a ha t (List.mem_of_getElem? (firstMark_mem h).choose_spec.1)) hx
  have h1 : (marksInTime t times readers).contains none = false := by
    rw [Bool.eq_false_iff]; intro hc
    have := hm none (by simpa using hc); simp at this
  have h2 : (marksInTime t times readers).contains (some .bad) = false := by
    rw [Bool.eq_false_iff]; intro hc
    have := hm (some .bad) (by simpa using hc); simp at this
  simp only [gather, h, h1, h2, hw, Bool.false_eq_true, if_false]

/-! ## The readers of the lanes in use -/

theorem usedReaders_onReaders (f : Nat → LaneReader → LaneReader) (s : State) :
    (onReaders f s).usedReaders = s.usedReaders.mapIdx f := by
  apply List.ext_getElem
  · simp [State.usedReaders, onReaders, Link.onReaders, State.lanesInUse]
  · intro i h1 h2
    have hi : i < s.lanesInUse := by simp [State.usedReaders, onReaders, Link.onReaders, State.lanesInUse] at h1 ⊢; omega
    simp [State.usedReaders, onReaders, Link.onReaders, State.lanesInUse] at hi ⊢
    simp [hi]

/-- Taking the reports goes before or after a change of the readers. -/
theorem takeReports_onReaders (f : Nat → LaneReader → LaneReader) (s : State) :
    takeReports (onReaders f s) = onReaders f (takeReports s) := by
  simp only [onReaders, takeReports_withLink, State.lanesInUse, takeReports_link, takeReports_settings]

theorem usedReaders_takeReports (s : State) : (takeReports s).usedReaders = s.usedReaders := by
  simp [State.usedReaders, State.lanesInUse]

theorem usedTimes_takeReports (s : State) : (takeReports s).usedTimes = s.usedTimes := by
  simp [State.usedTimes, usedReaders_takeReports, State.usedLanes, State.lanesInUse]

theorem onReaders_onReaders (f g : Nat → LaneReader → LaneReader) (s : State) :
    onReaders g (onReaders f s) = onReaders (fun i x => g i (f i x)) s := by
  unfold onReaders
  simp only [Link.onReaders, State.withLink_link, State.lanesInUse, State.withLink_settings]
  unfold State.withLink
  congr 2
  apply List.ext_getElem
  · simp
  · intro i a b
    by_cases hi : i < s.settings.laneCount <;> simp [hi]

theorem onReaders_congr {f g : Nat → LaneReader → LaneReader} {s : State}
    (h : ∀ i (hi : i < s.usedReaders.length), f i s.usedReaders[i] = g i s.usedReaders[i]) : onReaders f s = onReaders g s := by
  unfold onReaders
  congr 1
  unfold Link.onReaders
  congr 1
  apply List.ext_getElem
  · simp
  · intro i a b
    simp only [List.getElem_mapIdx]
    split
    · rename_i hi
      simp only [List.length_mapIdx] at a
      have hl : i < s.usedReaders.length := by simp [State.usedReaders]; omega
      simpa [State.usedReaders] using h i hl
    · rfl

/-- Lanes that hunt with no word held give nothing. -/
theorem readLanes_quiet (fuel : Nat) {s : State} (h : ∀ x ∈ s.usedReaders, LaneReader.quiet x) :
    readLanes fuel s = s := by
  cases fuel with
  | zero => rfl
  | succ fuel =>
    have hf : firstMark s.usedTimes s.usedReaders = none := firstMark_none_of_unmarked (fun x hx => (h x hx).2.1)
    have hn : nextWord s.usedTimes s.usedReaders = none := by
      apply earliest_none
      intro w hw
      obtain ⟨i, hi, rfl⟩ := List.mem_iff_getElem.mp hw
      simp only [List.length_zipWith] at hi
      obtain ⟨h1, h2, h3, h4⟩ := h _ (List.getElem_mem (by omega : i < s.usedReaders.length))
      simp [wordTime, h1]
    simp only [readLanes, gather, hf, hn]

/-! ## Words brought (R123) -/

@[simp] theorem completeWord_nil (w : LaneWord) : completeWord [] w = w := by
  apply BitVec.eq_of_toNat_eq
  have := w.isLt
  simp [completeWord, wordOfBits]
  omega

/-- A lane that held no part of a word takes the words as they come. -/
theorem bring_of_no_part {x : LaneReader} (h : x.part = []) (ws : List LaneWord) :
    x.bring ws = { x with words := x.words ++ ws } := by
  cases ws with
  | nil => simp [LaneReader.bring]
  | cons w rest => simp [LaneReader.bring, h]

@[simp] theorem wholeWords_nil : wholeWords [] = [] := rfl

@[simp] theorem restBits_nil : restBits [] = [] := rfl

/-- A lane that has held nothing hunts with no word read. -/
theorem readerOf_of_held_nil {x : Lane} (h : x.held = []) : readerOf x = freshReader := by
  simp [readerOf, h, freshReader]

/-! ## Lanes that seek -/

/-- A change that changes no reader in use. -/
theorem onReaders_of_same {s : State} {f : Nat → LaneReader → LaneReader}
    (h : ∀ i (hi : i < s.usedReaders.length), f i s.usedReaders[i] = s.usedReaders[i]) :
    onReaders f s = s := by
  rw [onReaders_congr (g := fun _ x => x) h]
  unfold onReaders Link.onReaders State.withLink
  have : s.link.readers.mapIdx (fun i x => if i < s.lanesInUse then x else x) = s.link.readers := by
    apply List.ext_getElem <;> simp
  rw [this]

/-- A lane past every word that it holds. -/
def readOut (_ : Nat) (x : LaneReader) : LaneReader := { x with words := [], used := x.used + x.words.length }

/-- Lanes that seek an idle word and hold none discard every word they hold, with no other effect (R125). -/
theorem readLanes_seeking : ∀ (n fuel : Nat) (s : State), s.settled → s.link.lanes.length = 4 →
    s.link.readers.length = 4 → s.settings.laneCount ≤ 4 →
    (∀ x ∈ s.usedReaders, x.mark = none ∧ x.seeking = true ∧ ∀ w ∈ x.words, isIdle w = false) → s.wordsHeld = n →
    readLanes (fuel + n) s = onReaders readOut s := by
  intro n
  induction n with
  | zero =>
    intro fuel s hs hl hr hc hx hn
    have he : ∀ x ∈ s.usedReaders, x.words = [] := by
      intro x hxx
      have : (x.words.length) ≤ s.wordsHeld := by
        unfold State.wordsHeld
        exact List.single_le_sum (by simp) _ (List.mem_map_of_mem hxx)
      rw [hn] at this
      exact List.length_eq_zero_iff.mp (by omega)
    rw [onReaders_of_same]
    · cases fuel with
      | zero => rfl
      | succ fuel =>
        have hf : firstMark s.usedTimes s.usedReaders = none := firstMark_none_of_unmarked (fun x h => (hx x h).1)
        have hn : nextWord s.usedTimes s.usedReaders = none := by
          apply earliest_none
          intro w hw
          obtain ⟨i, hi, rfl⟩ := List.mem_iff_getElem.mp hw
          simp only [List.length_zipWith] at hi
          simp [wordTime, he _ (List.getElem_mem (by omega : i < s.usedReaders.length))]
        simp only [readLanes, gather, hf, hn]
    · intro i hi
      have := he _ (List.getElem_mem hi)
      unfold readOut
      cases h : s.usedReaders[i]
      rw [h] at this; simp at this; simp [this]
  | succ n ih =>
    intro fuel s hs hl hr hc hx hn
    have hul : s.usedReaders.length = s.settings.laneCount := by simp [State.usedReaders, State.lanesInUse, hr]; omega
    have hut : s.usedTimes.length = s.settings.laneCount := by
      simp [State.usedTimes, readTimes, State.usedLanes, hul, State.lanesInUse, hl]; omega
    obtain ⟨k, hk, hkw⟩ : ∃ k, ∃ hk : k < s.usedReaders.length, (s.usedReaders[k]).words ≠ [] := by
      by_contra hcon
      push Not at hcon
      have : s.wordsHeld = 0 := by
        unfold State.wordsHeld
        apply List.sum_eq_zero
        intro y hy
        obtain ⟨x, hx', rfl⟩ := List.mem_map.mp hy
        obtain ⟨i, hi, rfl⟩ := List.mem_iff_getElem.mp hx'
        simp [hcon i hi]
      omega
    have hf : firstMark s.usedTimes s.usedReaders = none := firstMark_none_of_unmarked (fun x h => (hx x h).1)
    obtain ⟨t, j, hnx⟩ : ∃ t j, nextWord s.usedTimes s.usedReaders = some (t, j) := by
      apply earliest_isSome (k := k) (u := s.usedTimes[k] + 16)
      rw [List.getElem?_zipWith, List.getElem?_eq_getElem (by omega), List.getElem?_eq_getElem hk]
      simp [wordTime, hkw, (hx _ (List.getElem_mem hk)).1]
    have hg : gather s.usedTimes s.usedReaders = .reads j := by simp only [gather, hf, hnx]
    -- lane j has a word
    obtain ⟨x, w, rest, hxj, hwr⟩ : ∃ x w rest, s.usedReaders[j]? = some x ∧ x.words = w :: rest := by
      obtain ⟨q, hq, hl'⟩ := earliest_mem hnx
      have : j = q := by omega
      subst this
      simp only [List.getElem?_zipWith] at hl'
      split at hl'
      · rename_i u x hu hx'
        simp only [Option.some.injEq, wordTime] at hl'
        split at hl'
        · rename_i hc'
          cases hw : x.words with
          | nil => simp [hw] at hc'
          | cons w rest => exact ⟨x, w, rest, hx', hw⟩
        · exact absurd hl' (by simp)
      · exact absurd hl' (by simp)
    have hj : j < s.usedReaders.length := (List.getElem?_eq_some_iff.mp hxj).1
    have hxe : s.usedReaders[j] = x := (List.getElem?_eq_some_iff.mp hxj).2
    have hxm := hx x (List.mem_of_getElem? hxj)
    have hrd : x.readWord = { x with words := rest, used := x.used + 1, mark := none, seeking := true } := by
      unfold LaneReader.readWord; rw [hwr]; simp [hxm.2.1, hxm.2.2 w (by simp [hwr])]
    have hrw : readWord j s = onReaders (fun i x => if i = j then x.readWord else x) s := by
      unfold readWord
      have : ((onReaders (fun i x => if i = j then x.readWord else x) s).usedReaders.getD j freshReader).mark = none := by
        rw [usedReaders_onReaders, List.getD_eq_getElem _ _ (by simpa using hj)]
        simp [hxe, hrd]
      simp only [this]; rfl
    rw [← Nat.add_assoc, readLanes]
    simp only [hg, hrw]
    rw [takeReports_of_settled (by exact hs), ih]
    · rw [onReaders_onReaders]
      apply onReaders_congr
      intro i hi
      by_cases hij : i = j
      · subst hij
        simp only [if_true, hxe, hrd, readOut, hwr, hxm.1, hxm.2.1, List.length_cons]; rw [Nat.add_assoc, Nat.add_comm 1]
      · simp [hij]
    · exact hs
    · exact hl
    · simp [onReaders, Link.onReaders, hr]
    · exact hc
    · rw [usedReaders_onReaders]
      intro y hy
      obtain ⟨i, hi, rfl⟩ := List.mem_mapIdx.mp hy
      by_cases hij : i = j
      · subst hij
        simp only [if_true, hxe, hrd]
        refine ⟨trivial, trivial, ?_⟩
        intro v hv; exact hxm.2.2 v (by rw [hwr]; exact List.mem_cons_of_mem _ hv)
      · simp only [hij, if_false]; exact hx _ (List.getElem_mem hi)
    · have : (onReaders (fun i x => if i = j then x.readWord else x) s).usedReaders = s.usedReaders.set j x.readWord := by
        rw [usedReaders_onReaders]
        apply List.ext_getElem
        · simp
        · intro i h1 h2
          simp only [List.getElem_mapIdx, List.getElem_set]
          by_cases hij : i = j
          · subst hij; simp [hxe]
          · simp [hij, Ne.symm hij]
      unfold State.wordsHeld at hn ⊢
      rw [this, List.map_set, List.sum_set]
      have h2 := List.sum_take_add_sum_drop (s.usedReaders.map (fun x => x.words.length)) j
      have h3 : (s.usedReaders.map (fun x => x.words.length)).drop j =
          (rest.length + 1) :: (s.usedReaders.map (fun x => x.words.length)).drop (j + 1) := by
        rw [List.drop_eq_getElem_cons (by simpa using hj)]
        simp [hxe, hwr]
      rw [h3] at h2
      simp [hrd, hj] at h2 hn ⊢
      omega

/-! ## A whole packet -/

/-- The link receiver keeps its lanes: what a packet does leaves their words alone. -/
def KeepsLanes (s t : State) : Prop := ∃ l y x, t = { s with link := l, store := y, faults := x } ∧
  l.readers = s.link.readers ∧ l.lanes = s.link.lanes

theorem KeepsLanes.refl (s : State) : KeepsLanes s s := ⟨s.link, s.store, s.faults, rfl, rfl, rfl⟩

theorem KeepsLanes.trans {s t u : State} (h : KeepsLanes s t) (k : KeepsLanes t u) : KeepsLanes s u := by
  obtain ⟨l, y, x, rfl, hr, hl⟩ := h
  obtain ⟨l', y', x', rfl, hr', hl'⟩ := k
  exact ⟨l', y', x', rfl, hr'.trans hr, hl'.trans hl⟩

theorem report_keepsLanes (b : Block) (k : FaultKind) (d : Nat) (s : State) : KeepsLanes s (report b k d s) :=
  ⟨s.link, s.store, _, rfl, rfl, rfl⟩

theorem withStore_keepsLanes (y : Store) (s : State) : KeepsLanes s (s.withStore y) :=
  ⟨s.link, y, s.faults, rfl, rfl, rfl⟩

theorem poison_keepsLanes (c : Nat) (s : State) : KeepsLanes s (poison c s) := ⟨_, s.store, s.faults, rfl, rfl, rfl⟩

theorem restartTimer_keepsLanes (s : State) : KeepsLanes s (restartTimer s) := ⟨_, s.store, s.faults, rfl, rfl, rfl⟩

theorem endPoisonedKeepSlot_keepsLanes (f : OpenFrame) (s : State) : KeepsLanes s (endPoisonedKeepSlot f s) :=
  ⟨_, s.store, _, rfl, rfl, rfl⟩

theorem endPoisoned_keepsLanes (f : OpenFrame) (s : State) : KeepsLanes s (endPoisoned f s) := by
  show KeepsLanes s (releaseFrameSlot f (endPoisonedKeepSlot f s))
  refine (endPoisonedKeepSlot_keepsLanes f s).trans ?_
  unfold releaseFrameSlot
  split
  · exact withStore_keepsLanes _ _
  · exact KeepsLanes.refl _

theorem requestSlot_keepsLanes (c : ContentNo) (s : State) : KeepsLanes s (requestSlot c s).2 := by
  unfold requestSlot
  dsimp only
  split
  · exact withStore_keepsLanes _ _
  · split
    · split
      · exact (withStore_keepsLanes _ _).trans (report_keepsLanes _ _ _ _)
      · exact KeepsLanes.refl _
    · exact report_keepsLanes _ _ _ _

theorem handOver_keepsLanes (i : Nat) (c : ContentNo) (s : State) : KeepsLanes s (handOver i c s) := by
  unfold handOver
  dsimp only
  split
  · split
    · exact withStore_keepsLanes _ _
    · split
      · split
        · exact (withStore_keepsLanes _ _).trans (report_keepsLanes _ _ _ _)
        · exact withStore_keepsLanes _ _
      · exact withStore_keepsLanes _ _
  · exact withStore_keepsLanes _ _

theorem endByFrameStart_keepsLanes (s : State) : KeepsLanes s (endByFrameStart s) := by
  unfold endByFrameStart
  split
  · exact endPoisonedKeepSlot_keepsLanes _ _
  · exact KeepsLanes.refl _

theorem withOpen_keepsLanes (f : Option OpenFrame) (s : State) :
    KeepsLanes s (s.withLink { s.link with openFrame := f }) := ⟨_, s.store, s.faults, rfl, rfl, rfl⟩

theorem openNewFrame_keepsLanes (c : ContentNo) (f w h : Nat) (s : State) : KeepsLanes s (openNewFrame c f w h s) := by
  unfold openNewFrame
  dsimp only
  refine (endByFrameStart_keepsLanes s).trans ?_
  have hm : ∀ t : State, KeepsLanes t (match formatMismatch s.settings f w h with
      | some field => report .link .formatMismatch field t
      | none => t) := by
    intro t; split
    · exact report_keepsLanes _ _ _ _
    · exact KeepsLanes.refl _
  split
  · exact (hm _).trans ((withStore_keepsLanes _ _).trans (withOpen_keepsLanes _ _))
  · split
    · exact (report_keepsLanes _ _ _ _).trans (withOpen_keepsLanes _ _)
    · exact (requestSlot_keepsLanes _ _).trans (withOpen_keepsLanes _ _)

theorem checkLine_keepsLanes (f : OpenFrame) (p : List Byte) (s : State) : KeepsLanes s (checkLine f p s) := by
  unfold checkLine
  repeat' split
  · exact (report_keepsLanes _ _ _ _).trans (poison_keepsLanes _ _)
  · exact (report_keepsLanes _ _ _ _).trans (poison_keepsLanes _ _)
  · exact KeepsLanes.refl _
  · exact poison_keepsLanes _ _
  · unfold writeLine
    dsimp only
    split
    · exact (withOpen_keepsLanes _ _).trans (withStore_keepsLanes _ _)
    · exact withOpen_keepsLanes _ _

theorem endFrame_keepsLanes (f : OpenFrame) (n : Nat) (s : State) : KeepsLanes s (endFrame f n s) := by
  unfold endFrame
  repeat' split
  · exact endPoisoned_keepsLanes _ _
  · unfold completeClean
    dsimp only
    have h : KeepsLanes s (s.withLink { s.link with
        openFrame := none, cleanFlag := true, cleanRun := satInc 255 s.link.cleanRun }) :=
      ⟨_, s.store, s.faults, rfl, rfl, rfl⟩
    split
    · exact h.trans (handOver_keepsLanes _ _ _)
    · exact h
  · exact endPoisoned_keepsLanes _ _

/-- A packet whose length suits its kind leaves the lanes as they are (R127). -/
theorem readPacket_keepsLanes {p : Packet} (h1 : p.kind = 1 → p.payload.length = 7)
    (h3 : p.kind = 3 → p.payload.length = 2) (s : State) : KeepsLanes s (readPacket p s) := by
  unfold readPacket
  split
  · rename_i hk
    have hl := h1 hk
    unfold readFrameStart
    split
    · exact (openNewFrame_keepsLanes _ _ _ _ _).trans (restartTimer_keepsLanes _)
    · rename_i hne
      match p.payload, hl, hne with
      | [a, b, c, d, e, f, g], _, hne => exact absurd rfl (hne a b c d e f g)
  · split
    · unfold readLine
      refine KeepsLanes.trans ?_ (restartTimer_keepsLanes _)
      split
      · exact checkLine_keepsLanes _ _ _
      · exact KeepsLanes.refl _
    · split
      · rename_i hk
        have hl := h3 hk
        unfold readFrameEnd
        split
        · refine KeepsLanes.trans ?_ (restartTimer_keepsLanes _)
          split
          · exact endFrame_keepsLanes _ _ _
          · exact KeepsLanes.refl _
        · rename_i hne
          match p.payload, hl, hne with
          | [a, b], _, hne => exact absurd rfl (hne a b)
      · exact restartTimer_keepsLanes _

/-- Lane `i` on the way through the start words of a packet: past its sync word when `m` holds of it, and else with the word
before it. -/
def partly (m : Nat → Bool) (part : Nat → List LaneWord) (i : Nat) (x : LaneReader) : LaneReader :=
  if m i then { x with words := part i, used := x.used + 1, mark := some .sync, seeking := false }
  else { x with words := syncWord :: part i, mark := none, seeking := false }

/-- A lane that stands before its sync word reads it. -/
theorem readWord_partly {m : Nat → Bool} {part : Nat → List LaneWord} {j : Nat} {s : State} (hj : j < s.usedReaders.length)
    (hm : m j = false) :
    readWord j (onReaders (partly m part) s) = onReaders (partly (fun i => m i || i == j) part) s := by
  have e1 : isIdle syncWord = false := by decide
  have e2 : startClass syncWord = .sync := by decide
  have h : onReaders (fun i x => if i = j then x.readWord else x) (onReaders (partly m part) s) =
      onReaders (partly (fun i => m i || i == j) part) s := by
    rw [onReaders_onReaders]
    apply onReaders_congr
    intro i hi
    by_cases hij : i = j
    · subst hij
      simp [partly, hm, LaneReader.readWord, e1, e2]
    · have : (i == j) = false := by simpa using hij
      simp [partly, hij]
  have hr : ((onReaders (partly (fun i => m i || i == j) part) s).usedReaders.getD j freshReader).mark = some .sync := by
    rw [usedReaders_onReaders, List.getD_eq_getElem _ _ (by simpa using hj)]
    simp [partly]
  simp only [readWord, h, hr]
  rfl

/-- The lanes read their sync words, in the order in which these end, within the spread; reports that stood before the first
are taken with it. -/
theorem readLanes_partly {part : Nat → List LaneWord} (fuel : Nat) :
    ∀ (k : Nat) (m : Nat → Bool) (s : State), s.usedTimes.length = s.usedReaders.length →
      (∀ a ∈ s.usedTimes, ∀ b ∈ s.usedTimes, a < b + 72) →
      ((Finset.range s.usedReaders.length).filter (fun i => m i = false)).card = k →
      readLanes (fuel + k) (onReaders (partly m part) s) =
        readLanes fuel (onReaders (partly (fun _ => true) part) (if k = 0 then s else takeReports s)) := by
  intro k
  induction k with
  | zero =>
    intro m s hlen hs hk
    rw [Nat.add_zero, if_pos rfl]
    congr 1
    apply onReaders_congr
    intro i hi
    have : m i = true := by
      rw [Finset.card_eq_zero, Finset.filter_eq_empty_iff] at hk
      simpa using hk (Finset.mem_range.mpr hi)
    simp [partly, this]
  | succ k ih =>
    intro m s hlen hs hk
    have hR := usedReaders_onReaders (partly m part) s
    have hat : ∀ i x, (onReaders (partly m part) s).usedReaders[i]? = some x →
        ∃ hi : i < s.usedReaders.length, x = partly m part i s.usedReaders[i] := by
      intro i x hx
      rw [hR, List.getElem?_eq_some_iff] at hx
      obtain ⟨hi, rfl⟩ := hx
      exact ⟨by simpa using hi, by simp⟩
    have hT : ∀ i a, (onReaders (partly m part) s).usedTimes[i]? = some a →
        ∃ t ∈ s.usedTimes, a = if m i then t + 16 else t := by
      intro i a ha
      rw [List.getElem?_eq_some_iff] at ha
      obtain ⟨hi, rfl⟩ := ha
      have hL : (onReaders (partly m part) s).usedLanes = s.usedLanes := rfl
      simp only [State.usedTimes, readTimes, hR, hL, List.length_zipWith, List.length_mapIdx] at hi
      have hi' : i < s.usedTimes.length := by simp [State.usedTimes, readTimes]; omega
      refine ⟨s.usedTimes[i], List.getElem_mem hi', ?_⟩
      simp only [State.usedTimes, readTimes, hR, hL, List.getElem_zipWith, List.getElem_mapIdx, partly]
      split <;> simp; omega
    have hlen' : (onReaders (partly m part) s).usedTimes.length = (onReaders (partly m part) s).usedReaders.length := by
      have : s.usedLanes.length = (onReaders (partly m part) s).usedLanes.length := rfl
      simp only [State.usedTimes, readTimes, List.length_zipWith, hR, List.length_mapIdx] at hlen ⊢
      omega
    obtain ⟨i, hi⟩ := Finset.card_pos.mp (by rw [hk]; exact Nat.succ_pos k)
    rw [Finset.mem_filter, Finset.mem_range] at hi
    obtain ⟨j, x, hg, hx, hxm⟩ := gather_reads (k := i) hlen'
      ⟨partly m part i s.usedReaders[i], by rw [hR, List.getElem?_mapIdx, List.getElem?_eq_getElem hi.1]; rfl,
        by simp [partly, hi.2], by simp [partly, hi.2]⟩
      (by
        intro i j a b x ha hb hx hxm ⟨y, hy, hym⟩
        obtain ⟨t, ht, rfl⟩ := hT i a ha
        obtain ⟨u, hu, rfl⟩ := hT j b hb
        obtain ⟨hi, rfl⟩ := hat i x hx
        obtain ⟨hj, rfl⟩ := hat j y hy
        have hmi : m i = false := by
          cases h : m i with
          | false => rfl
          | true => simp [partly, h] at hxm
        have hmj : m j = true := by
          cases h : m j with
          | true => rfl
          | false => simp [partly, h] at hym
        have := hs t ht u hu
        simp [hmi, hmj]
        omega)
    obtain ⟨hj, rfl⟩ := hat j x hx
    have hmj : m j = false := by
      cases h : m j with
      | false => rfl
      | true => simp [partly, h] at hxm
    rw [← Nat.add_assoc, readLanes]
    simp only [hg]
    rw [readWord_partly hj hmj, takeReports_onReaders, if_neg (Nat.succ_ne_zero k),
      ih _ (takeReports s) (by rw [usedTimes_takeReports, usedReaders_takeReports, hlen])
        (by rw [usedTimes_takeReports]; exact hs), takeReports_takeReports, ite_self]
    rw [usedReaders_takeReports]
    have : (Finset.range s.usedReaders.length).filter (fun i => (m i || i == j) = false) =
        ((Finset.range s.usedReaders.length).filter (fun i => m i = false)).erase j := by
      ext i
      simp only [Finset.mem_filter, Finset.mem_erase, Finset.mem_range, Bool.or_eq_false_iff, beq_eq_false_iff_ne]
      tauto
    rw [this, Finset.card_erase_of_mem (by simp [hj, hmj]), hk]
    rfl

/-- Quiet lanes that read the sync word and the words of a packet give the packet to its reader, and are quiet again: the
spec of reading a packet (R118, R125 to R127). The reports that stood before, and those of the packet, are taken (R184). -/
theorem takeWords_packet {s : State} (hr : s.reads = true) (hq : s.lanesQuiet) {kind : Byte} {payload : List Byte}
    (hp : payload.length ≤ 65535) (h1 : kind = 1 → payload.length = 7) (h3 : kind = 3 → payload.length = 2) :
    takeWords (packetWords s.usedReaders (syncHeads s) kind payload) s = takeReports (readPacket ⟨kind, payload⟩
      ((takeReports s).withLink { s.link with readers := readersPast (laneWordCount s payload.length) s })) := by
  obtain ⟨hn, hlanes, hreaders, hquiet, hspread⟩ := hq
  have hn0 : 0 < s.settings.laneCount := by omega
  have hn4 : s.settings.laneCount ≤ 4 := by omega
  set n := s.settings.laneCount with hn_def
  have hU : s.usedReaders.length = n := by simp [State.usedReaders, State.lanesInUse, hreaders]; omega
  have hTl : s.usedTimes.length = s.usedReaders.length := by
    simp [State.usedTimes, readTimes, State.usedLanes, hU, State.lanesInUse, hlanes, ← hn_def]; omega
  let part : Nat → List LaneWord := fun i => wordsOfBytes (laneBytes n i (packetBytes kind payload))
  have hb : (packetBytes kind payload).length = 3 + payload.length := by simp [packetBytes, beBytes]; omega
  have hpart : ∀ i, (part i).length = laneByteCount n (3 + payload.length) / 2 := by
    intro i; simp [part, length_wordsOfBytes, length_laneBytes, hb]
  have hwords : packetWords s.usedReaders (syncHeads s) kind payload = (List.range n).map (fun i => syncWord :: part i) := by
    apply List.ext_getElem
    · simp [packetWords, syncHeads, ← hn_def]
    · intro i a b
      simp [packetWords, partHeld, syncHeads, ← hn_def, part]
  -- every lane stands before its sync word
  have happend : onReaders (fun i x => x.bring ((packetWords s.usedReaders (syncHeads s) kind payload).getD i [])) s =
      onReaders (partly (fun _ => false) part) s := by
    apply onReaders_congr
    intro i hi
    obtain ⟨hw, hm, hs, hp⟩ := hquiet _ (List.getElem_mem hi)
    have hg : (packetWords s.usedReaders (syncHeads s) kind payload).getD i [] = syncWord :: part i := by
      rw [hwords, List.getD_eq_getElem?_getD, List.getElem?_map, List.getElem?_range (by omega)]; rfl
    rw [hg, bring_of_no_part hp, hw]
    cases hx : s.usedReaders[i]
    rw [hx] at hw hm hs
    simp only at hw hm hs
    subst hw hm hs
    rfl
  -- every lane has read it
  set marked := onReaders (partly (fun _ => true) part) s with hmarked
  have hR : marked.usedReaders = s.usedReaders.mapIdx (partly (fun _ => true) part) := usedReaders_onReaders _ _
  have hT : marked.usedTimes = s.usedTimes.map (· + 16) := by
    rw [State.usedTimes, hR]
    apply List.ext_getElem
    · simp [State.usedTimes, readTimes, State.usedLanes, marked, onReaders, State.lanesInUse, Link.onReaders]
    · intro i a b
      simp [State.usedTimes, readTimes, State.usedLanes, marked, onReaders, State.lanesInUse, Link.onReaders, partly]
      omega
  have hmark : ∀ x ∈ marked.usedReaders, x.mark = some .sync := by
    rw [hR]
    intro x hx
    obtain ⟨i, hi, rfl⟩ := List.mem_mapIdx.mp hx
    rfl
  have hspread' : ∀ a ∈ marked.usedTimes, ∀ b ∈ marked.usedTimes, a < b + 72 := by
    rw [hT]
    intro a ha b hb
    obtain ⟨a', ha', rfl⟩ := List.mem_map.mp ha
    obtain ⟨b', hb', rfl⟩ := List.mem_map.mp hb
    have := hspread a' ha' b' hb'
    omega
  have hwhole : wholePacket (marked.usedReaders.map (fun x => laneData x.words)) = some ⟨kind, payload⟩ := by
    have : marked.usedReaders.map (fun x => laneData x.words) =
        (List.range n).map (fun i => laneBytes n i (packetBytes kind payload)) := by
      rw [hR]
      apply List.ext_getElem
      · simp [hU]
      · intro i a b
        simp [partly, part, laneData_laneBytes]
    rw [this]
    exact wholePacket_lanes hn0 kind payload hp
  have hgather := gather_whole (by rw [hT, hR]; simpa using hTl)
    (by rw [hR]; intro h; have h0 := congrArg List.length h; simp [hU] at h0; omega) hspread' hmark hwhole
  have hresume : onReaders (fun _ => LaneReader.resume (packetWordCount marked.lanesInUse ⟨kind, payload⟩)) marked =
      s.withLink { s.link with readers := readersPast (laneWordCount s payload.length) s } := by
    rw [hmarked, onReaders_onReaders, show packetWordCount (onReaders _ s).lanesInUse ⟨kind, payload⟩ =
      laneByteCount n (3 + payload.length) / 2 from rfl]
    unfold onReaders
    congr 1
    unfold Link.onReaders
    congr 1
    apply List.ext_getElem
    · simp [readersPast]
    · intro i a b
      simp at a
      simp only [List.getElem_mapIdx, readersPast, ← hn_def, State.lanesInUse]
      split
      · rename_i hi
        obtain ⟨qw, qm, qs, qp⟩ := hquiet s.link.readers[i] (by
          rw [State.usedReaders, List.mem_take_iff_getElem]; exact ⟨i, by simp [State.lanesInUse, ← hn_def]; omega, rfl⟩)
        cases hx : s.link.readers[i]
        rw [hx] at qw qm qs
        simp only at qw qm qs
        subst qw qm qs
        simp [LaneReader.resume, partly, hpart, laneWordCount, ← hn_def, List.drop_eq_nil_of_le]
        omega
      · rfl
  have hlen : (packetWords s.usedReaders (syncHeads s) kind payload).length = s.lanesInUse := by
    rw [hwords]; simp [State.lanesInUse, ← hn_def]
  have hcard : ((Finset.range s.usedReaders.length).filter (fun i => (fun _ => false) i = false)).card = n := by simp [hU]
  rw [takeWords, if_pos (by simp [hr, hlen]), happend, readOn]
  rw [show ∀ w : Nat, 2 * w + State.lanesInUse (onReaders (partly (fun _ => false) part) s) + 1 = (2 * w + 1) + n from
    fun w => by rw [show State.lanesInUse (onReaders _ s) = n from rfl]; omega,
    readLanes_partly _ n _ s hTl hspread hcard, if_neg hn0.ne', ← takeReports_onReaders, ← hmarked, readLanes]
  simp only [usedTimes_takeReports, usedReaders_takeReports, hgather]
  rw [← takeReports_onReaders, show (takeReports marked).lanesInUse = marked.lanesInUse by simp [State.lanesInUse],
    hresume, takeReports_withLink]
  apply readLanes_quiet
  rw [usedReaders_takeReports]
  obtain ⟨l, y, x, he, hlr, hll⟩ := readPacket_keepsLanes (p := ⟨kind, payload⟩) h1 h3
    ((takeReports s).withLink { s.link with readers := readersPast (laneWordCount s payload.length) s })
  rw [he]
  intro z hz
  simp only [State.usedReaders, State.lanesInUse, State.withLink_settings, State.withLink_link] at hz hlr
  rw [hlr, List.mem_take_iff_getElem] at hz
  obtain ⟨i, hi, rfl⟩ := hz
  have hi' : i < n ∧ i < s.link.readers.length := by simp [readersPast, ← hn_def] at hi; omega
  obtain ⟨qw, qm, qs, qp⟩ := hquiet s.link.readers[i] (by
    rw [State.usedReaders, List.mem_take_iff_getElem]; exact ⟨i, by simp [State.lanesInUse, ← hn_def]; omega, rfl⟩)
  simp [readersPast, ← hn_def, hi'.1, LaneReader.quiet, qw, qm, qs, qp]

end Sys2Proof.Machine
end

