-- ==== Sys2Proof/Laws/Memory.lean ====
section
/-!
SUPPORT. Laws/Memory.lean: the frame memory: a read after a write, and the canonical form that every write keeps (log 7).
-/
namespace Sys2Proof.Machine

/-- The form holds above a bound only if it holds above every lower one. -/
theorem memWfFrom_mono {l k : Nat} (h : l ≤ k) {m : List (Nat × Rgb)} (hm : memWfFrom (some k) m = true) :
    memWfFrom (some l) m = true := by
  cases m with
  | nil => rfl
  | cons x r =>
    simp only [memWfFrom, Bool.and_eq_true, decide_eq_true_eq] at hm ⊢
    exact ⟨⟨by omega, hm.1.2⟩, hm.2⟩

/-- An address below every key reads as an unlisted one. -/
theorem memRead_below {l a : Nat} {m : List (Nat × Rgb)} (hm : memWfFrom (some l) m = true) (ha : a ≤ l) :
    memRead m a = blankPixel := by
  induction m generalizing l with
  | nil => rfl
  | cons x r ih =>
    simp only [memWfFrom, Bool.and_eq_true, decide_eq_true_eq] at hm
    simp only [memRead]
    rw [if_neg (by omega)]
    exact ih hm.2 (by omega)

/-- A write above a bound keeps the canonical form above it. -/
theorem memWrite_wfFrom {l a : Nat} {x : Rgb} {m : List (Nat × Rgb)} (hm : memWfFrom (some l) m = true) (ha : l < a) :
    memWfFrom (some l) (memWrite m a x) = true := by
  induction m generalizing l with
  | nil => simp only [memWrite]; split <;> simp_all [memWfFrom]
  | cons y r ih =>
    obtain ⟨k, v⟩ := y
    simp only [memWfFrom, Bool.and_eq_true, decide_eq_true_eq] at hm
    simp only [memWrite]
    split_ifs with h1 h2 h3 h4
    · simpa [memWfFrom] using hm
    · simp only [memWfFrom, Bool.and_eq_true, decide_eq_true_eq]
      exact ⟨⟨ha, by simpa using h2⟩, ⟨h1, hm.1.2⟩, hm.2⟩
    · exact memWfFrom_mono (by omega) hm.2
    · simp only [memWfFrom, Bool.and_eq_true, decide_eq_true_eq]
      exact ⟨⟨ha, by simpa using h4⟩, h3 ▸ hm.2⟩
    · simp only [memWfFrom, Bool.and_eq_true, decide_eq_true_eq]
      exact ⟨hm.1, ih hm.2 (by omega)⟩

/-- Every write keeps the canonical form. -/
theorem memWrite_wf {m : List (Nat × Rgb)} (a : Nat) (x : Rgb) (hm : memWf m = true) : memWf (memWrite m a x) = true := by
  unfold memWf at *
  cases m with
  | nil => simp only [memWrite]; split <;> simp_all [memWfFrom]
  | cons y r =>
    obtain ⟨k, v⟩ := y
    simp only [memWfFrom, Bool.and_eq_true, Bool.true_and] at hm
    simp only [memWrite]
    split_ifs with h1 h2 h3 h4
    · simpa [memWfFrom] using hm
    · simp only [memWfFrom, Bool.and_eq_true, decide_eq_true_eq, Bool.true_and]
      exact ⟨by simpa using h2, ⟨h1, hm.1⟩, hm.2⟩
    · cases r with
      | nil => rfl
      | cons z r' =>
        simp only [memWfFrom, Bool.and_eq_true, Bool.true_and] at hm ⊢
        exact ⟨hm.2.1.2, hm.2.2⟩
    · simp only [memWfFrom, Bool.and_eq_true, Bool.true_and]
      exact ⟨by simpa using h4, h3 ▸ hm.2⟩
    · simp only [memWfFrom, Bool.and_eq_true, Bool.true_and]
      exact ⟨hm.1, memWrite_wfFrom hm.2 (by omega)⟩

/-- A line of writes keeps the canonical form. -/
theorem memWriteLine_wf (slot line : Nat) (ps : List Rgb) :
    ∀ (column : Nat) {m : List (Nat × Rgb)}, memWf m = true → memWf (memWriteLine slot line column ps m) = true := by
  induction ps with
  | nil => intro _ _ h; exact h
  | cons x rest ih => intro column m h; exact ih (column + 1) (memWrite_wf _ x h)

/-- A read after a write above a bound. -/
theorem memRead_memWrite_from {l a : Nat} {x : Rgb} {m : List (Nat × Rgb)} (b : Nat)
    (hm : memWfFrom (some l) m = true) : memRead (memWrite m a x) b = if b = a then x else memRead m b := by
  induction m generalizing l with
  | nil =>
    by_cases h1 : x = blankPixel <;> by_cases h2 : b = a <;> simp [memWrite, memRead, h1, h2, Ne.symm]
  | cons y r ih =>
    obtain ⟨k, v⟩ := y
    simp only [memWfFrom, Bool.and_eq_true, decide_eq_true_eq] at hm
    have hb : b ≤ k → memRead r b = blankPixel := fun h => memRead_below hm.2 h
    simp only [memWrite]
    split_ifs with h1 h2 h3 h4 h5 <;> (try simp only [memRead]) <;> (try rw [ih hm.2]) <;> (try split_ifs) <;>
      first | rfl | omega | (rw [hb (by omega)]; simp_all)

/-- A read after a write to a memory in canonical form gives the value written at its address, and elsewhere what was
there. -/
theorem memRead_memWrite {m : List (Nat × Rgb)} (a b : Nat) (x : Rgb) (hm : memWf m = true) :
    memRead (memWrite m a x) b = if b = a then x else memRead m b := by
  unfold memWf at hm
  cases m with
  | nil =>
    by_cases h1 : x = blankPixel <;> by_cases h2 : b = a <;> simp [memWrite, memRead, h1, h2, Ne.symm]
  | cons y r =>
    obtain ⟨k, v⟩ := y
    simp only [memWfFrom, Bool.and_eq_true, Bool.true_and] at hm
    have hb : b ≤ k → memRead r b = blankPixel := fun h => memRead_below hm.2 h
    simp only [memWrite]
    split_ifs with h1 h2 h3 h4 h5 <;> (try simp only [memRead]) <;> (try rw [memRead_memWrite_from _ hm.2]) <;> (try split_ifs) <;>
      first | rfl | omega | (rw [hb (by omega)]; simp_all)

end Sys2Proof.Machine
end

