-- ==== Sys2Proof/Laws/PerInstr.lean ====
section
/-!
SUPPORT. Laws/PerInstr.lean: laws said of every command as syntax. NoTableWord: the opcode table gives no row bits, so no word
spells a command (log 1).
-/
namespace Sys2Proof.Laws

/-- No table word spells the command (log 1). -/
def NoTableWord.Statement (i : Instr) : Prop := ∀ nbits w : Nat, decodeTableWord nbits w ≠ some i

/-- The decoder of table words answers nothing. -/
theorem decodeTableWord_ne (i : Instr) (nbits w : Nat) : decodeTableWord nbits w ≠ some i := by simp [decodeTableWord]

theorem NoTableWord.powerOnReset (straps : BitVec 4) : NoTableWord.Statement (.powerOnReset straps) :=
  decodeTableWord_ne _

theorem NoTableWord.warmReset (straps : BitVec 4) : NoTableWord.Statement (.warmReset straps) :=
  decodeTableWord_ne _

theorem NoTableWord.imageHeaderCheck (pattern : BitVec 32) (version : BitVec 16) (bodyLength : BitVec 32) (crc : BitVec 32) (imageId : BitVec 16) :
    NoTableWord.Statement (.imageHeaderCheck pattern version bodyLength crc imageId) :=
  decodeTableWord_ne _

theorem NoTableWord.sectionHeadCheck (code : BitVec 8) (length : BitVec 24) :
    NoTableWord.Statement (.sectionHeadCheck code length) :=
  decodeTableWord_ne _

theorem NoTableWord.settingsSectionEnd (entries : List (BitVec 8 × BitVec 32)) :
    NoTableWord.Statement (.settingsSectionEnd entries) :=
  decodeTableWord_ne _

theorem NoTableWord.tableEntryCheck (entry : BitVec 16) : NoTableWord.Statement (.tableEntryCheck entry) :=
  decodeTableWord_ne _

theorem NoTableWord.gridRecordCheck (share : BitVec 16) (white black : BitVec 24) (count : BitVec 8) (contributors : List ContributorBytes) :
    NoTableWord.Statement (.gridRecordCheck share white black count contributors) :=
  decodeTableWord_ne _

theorem NoTableWord.loadComplete : NoTableWord.Statement .loadComplete :=
  decodeTableWord_ne _

theorem NoTableWord.frameStart (first : Stamp) : NoTableWord.Statement (.frameStart first) :=
  decodeTableWord_ne _

theorem NoTableWord.frameLineRelease : NoTableWord.Statement .frameLineRelease :=
  decodeTableWord_ne _

theorem NoTableWord.frameLineEdge (falling : Bool) (stamp : Stamp) :
    NoTableWord.Statement (.frameLineEdge falling stamp) :=
  decodeTableWord_ne _

theorem NoTableWord.boundsPassComplete : NoTableWord.Statement .boundsPassComplete :=
  decodeTableWord_ne _

theorem NoTableWord.coeffPassComplete : NoTableWord.Statement .coeffPassComplete :=
  decodeTableWord_ne _

theorem NoTableWord.sendEvent : NoTableWord.Statement .sendEvent :=
  decodeTableWord_ne _

theorem NoTableWord.windowCompletion : NoTableWord.Statement .windowCompletion :=
  decodeTableWord_ne _

theorem NoTableWord.busIdleJoin : NoTableWord.Statement .busIdleJoin :=
  decodeTableWord_ne _

theorem NoTableWord.beginAttempt : NoTableWord.Statement .beginAttempt :=
  decodeTableWord_ne _

theorem NoTableWord.lostArbitration : NoTableWord.Statement .lostArbitration :=
  decodeTableWord_ne _

theorem NoTableWord.attemptFailed : NoTableWord.Statement .attemptFailed :=
  decodeTableWord_ne _

theorem NoTableWord.messageComplete : NoTableWord.Statement .messageComplete :=
  decodeTableWord_ne _

theorem NoTableWord.stationClash (frame : BusFrame) : NoTableWord.Statement (.stationClash frame) :=
  decodeTableWord_ne _

theorem NoTableWord.foreignMessage (frame : BusFrame) : NoTableWord.Statement (.foreignMessage frame) :=
  decodeTableWord_ne _

theorem NoTableWord.receiveChange (sender : BitVec 4) (live : Bool) (reason : Reason) (subject : BitVec 8) (epoch : FrameNo) (lam : BitVec 16) :
    NoTableWord.Statement (.receiveChange sender live reason subject epoch lam) :=
  decodeTableWord_ne _

theorem NoTableWord.receiveLight (sender : BitVec 4) (epoch : FrameNo) (lam : BitVec 16) :
    NoTableWord.Statement (.receiveLight sender epoch lam) :=
  decodeTableWord_ne _

theorem NoTableWord.receivePulse (sender : BitVec 4) (condition : PulseCondition) (driving heldValid : Bool) (frame : FrameNo) (held : ContentNo) :
    NoTableWord.Statement (.receivePulse sender condition driving heldValid frame held) :=
  decodeTableWord_ne _

theorem NoTableWord.receiveBounds (sender : BitVec 4) (epochLow : BitVec 16) (floor ceiling : BitVec 24) :
    NoTableWord.Statement (.receiveBounds sender epochLow floor ceiling) :=
  decodeTableWord_ne _

theorem NoTableWord.receiveLevels (sender : BitVec 4) (lam mNow target remaining : BitVec 16) :
    NoTableWord.Statement (.receiveLevels sender lam mNow target remaining) :=
  decodeTableWord_ne _

theorem NoTableWord.showFade (sender : BitVec 4) (start : FrameNo) (target duration : BitVec 16) :
    NoTableWord.Statement (.showFade sender start target duration) :=
  decodeTableWord_ne _

theorem NoTableWord.showIdentify (sender : BitVec 4) (start : FrameNo) (mask : BitVec 16) (period on : BitVec 8) :
    NoTableWord.Statement (.showIdentify sender start mask period on) :=
  decodeTableWord_ne _

theorem NoTableWord.showIdentifyOff (sender : BitVec 4) (endFrame : FrameNo) :
    NoTableWord.Statement (.showIdentifyOff sender endFrame) :=
  decodeTableWord_ne _

theorem NoTableWord.lanesActive : NoTableWord.Statement .lanesActive :=
  decodeTableWord_ne _

theorem NoTableWord.laneActivityLost (lane : Nat) (received : List (List Bool)) :
    NoTableWord.Statement (.laneActivityLost lane received) :=
  decodeTableWord_ne _

theorem NoTableWord.settleExpiry : NoTableWord.Statement .settleExpiry :=
  decodeTableWord_ne _

theorem NoTableWord.trainingDecision : NoTableWord.Statement .trainingDecision :=
  decodeTableWord_ne _

theorem NoTableWord.inputTimeout : NoTableWord.Statement .inputTimeout :=
  decodeTableWord_ne _

theorem NoTableWord.packetLost (words : List (List LaneWord)) : NoTableWord.Statement (.packetLost words) :=
  decodeTableWord_ne _

theorem NoTableWord.laneSkew (words : List (List LaneWord)) : NoTableWord.Statement (.laneSkew words) :=
  decodeTableWord_ne _

theorem NoTableWord.frameStartPacket (heads : List (List LaneWord)) (payload : List Byte) :
    NoTableWord.Statement (.frameStartPacket heads payload) :=
  decodeTableWord_ne _

theorem NoTableWord.linePacket (heads : List (List LaneWord)) (payload : List Byte) :
    NoTableWord.Statement (.linePacket heads payload) :=
  decodeTableWord_ne _

theorem NoTableWord.frameEndPacket (heads : List (List LaneWord)) (payload : List Byte) :
    NoTableWord.Statement (.frameEndPacket heads payload) :=
  decodeTableWord_ne _

theorem NoTableWord.otherPacket (heads : List (List LaneWord)) (kind : Byte) (payload : List Byte) :
    NoTableWord.Statement (.otherPacket heads kind payload) :=
  decodeTableWord_ne _

theorem NoTableWord.strayLinePacket (heads : List (List LaneWord)) (frameEnd : Bool) (payload : List Byte) :
    NoTableWord.Statement (.strayLinePacket heads frameEnd payload) :=
  decodeTableWord_ne _

theorem NoTableWord.memoryEcc (line column : Nat) : NoTableWord.Statement (.memoryEcc line column) :=
  decodeTableWord_ne _

theorem NoTableWord.lightSample (value : BitVec 12) (ahead : Bool) :
    NoTableWord.Statement (.lightSample value ahead) :=
  decodeTableWord_ne _

theorem NoTableWord.selectCondition (write : I2cWrite) : NoTableWord.Statement (.selectCondition write) :=
  decodeTableWord_ne _

theorem NoTableWord.selectInput (write : I2cWrite) : NoTableWord.Statement (.selectInput write) :=
  decodeTableWord_ne _

theorem NoTableWord.selectStore (write : I2cWrite) : NoTableWord.Statement (.selectStore write) :=
  decodeTableWord_ne _

theorem NoTableWord.selectLock (write : I2cWrite) : NoTableWord.Statement (.selectLock write) :=
  decodeTableWord_ne _

theorem NoTableWord.selectPeers (write : I2cWrite) : NoTableWord.Statement (.selectPeers write) :=
  decodeTableWord_ne _

theorem NoTableWord.selectEpochs (write : I2cWrite) : NoTableWord.Statement (.selectEpochs write) :=
  decodeTableWord_ne _

theorem NoTableWord.selectLevels (write : I2cWrite) : NoTableWord.Statement (.selectLevels write) :=
  decodeTableWord_ne _

theorem NoTableWord.selectFaults (write : I2cWrite) : NoTableWord.Statement (.selectFaults write) :=
  decodeTableWord_ne _

theorem NoTableWord.selectCounters (write : I2cWrite) : NoTableWord.Statement (.selectCounters write) :=
  decodeTableWord_ne _

theorem NoTableWord.selectImage (write : I2cWrite) : NoTableWord.Statement (.selectImage write) :=
  decodeTableWord_ne _

theorem NoTableWord.clearFaults (write : I2cWrite) : NoTableWord.Statement (.clearFaults write) :=
  decodeTableWord_ne _

theorem NoTableWord.restart (write : I2cWrite) (straps : BitVec 4) : NoTableWord.Statement (.restart write straps) :=
  decodeTableWord_ne _

theorem NoTableWord.attnMask (write : I2cWrite) : NoTableWord.Statement (.attnMask write) :=
  decodeTableWord_ne _

theorem NoTableWord.selectorRefused (selector : Byte) (write : I2cWrite) :
    NoTableWord.Statement (.selectorRefused selector write) :=
  decodeTableWord_ne _

theorem NoTableWord.syncRecognised (lane : Nat) (bits0 bits1 bits2 bits3 : List Bool) :
    NoTableWord.Statement (.syncRecognised lane bits0 bits1 bits2 bits3) :=
  decodeTableWord_ne _

theorem NoTableWord.warpMeshEntryRead (sx sy : BitVec 16) : NoTableWord.Statement (.warpMeshEntryRead sx sy) :=
  decodeTableWord_ne _

end Sys2Proof.Laws
end

