-- ==== Sys2Proof/Laws/Writes.lean ====
section
/-!
SUPPORT. Laws/Writes.lean: what a write of the maintenance port can do, by its address and its first data byte (R189).
-/
namespace Sys2Proof.Machine

/-- The commands' selectors (section 12.4). -/
@[simp] theorem selectorOf_clearFaults : selectorOf 64 = some .clearFaults := by decide
@[simp] theorem selectorOf_restart : selectorOf 65 = some .restart := by decide
@[simp] theorem selectorOf_attnMask : selectorOf 66 = some .attnMask := by decide

/-- The selector of view `n` is the byte `n` (section 12.4). -/
theorem selectorOf_view {b : Byte} (h : 1 ≤ b.toNat ∧ b.toNat ≤ 10) : selectorOf b = some (.view b.toNat) := by
  simp [selectorOf, h]

/-- A write of another address does nothing. -/
theorem portWrite_other {w : I2cWrite} (h : acknowledgesAddress w.address = false) (b : Byte) (straps : BitVec 4)
    (s : State) : portWrite b w straps s = s := by
  have hc : ∀ n, writeCompletes n w = false := fun n => by simp [writeCompletes, h]
  unfold portWrite noteWrite
  rw [h, if_neg (by decide)]
  split
  · rename_i x _
    cases x <;> simp [selectorEffect, selectView, h, hc]
  · rfl

/-- A write whose first data byte is no selector leaves its acknowledge bits alone behind. -/
theorem portWrite_refused {b : Byte} {w : I2cWrite} (hb : selectorOf b = none) (h : acknowledgesAddress w.address = true)
    (straps : BitVec 4) (s : State) :
    portWrite b w straps s = s.withMaint { s.maint with acks := true :: false :: w.data.map (fun _ => false) } := by
  simp [portWrite, noteWrite, writeAcks, hb, h]

/-- A write with a selector has the selector's effect, and leaves its acknowledge bits. -/
theorem portWrite_selector {b : Byte} {w : I2cWrite} {x : Selector} (hb : selectorOf b = some x)
    (h : acknowledgesAddress w.address = true) (straps : BitVec 4) (s : State) :
    let t := selectorEffect x w straps s
    portWrite b w straps s = t.withMaint { t.maint with
      acks := true :: true :: (List.range w.data.length).map (fun i => decide (i < bytesCalled x)) } := by
  simp [portWrite, noteWrite, writeAcks, hb, h]

/-- A command whose write does not complete has no effect. -/
theorem selectorEffect_incomplete {x : Selector} {w : I2cWrite} (h : writeCompletes (bytesCalled x) w = false)
    (hx : ∀ n, x ≠ .view n) (straps : BitVec 4) (s : State) : selectorEffect x w straps s = s := by
  cases x with
  | view n => exact absurd rfl (hx n)
  | clearFaults => simp [selectorEffect, h]
  | restart => simp [selectorEffect, h]
  | attnMask => simp [selectorEffect, h]

end Sys2Proof.Machine
end

