-- ==== Sys2Proof/Tests/Slice0.lean ====
section
/-!
SUPPORT. Tests/Slice0.lean: an ill-formed term for each check of WellFormed, small tests of one command each with the
figures of the manual's worked cases, and a witness for each obligation that has hypotheses.
-/
namespace Sys2Proof.Tests
open Sys2Proof Sys2Proof.Machine
set_option Elab.async false

/-! ## Helpers -/

/-- The command answers a next state in which `p` holds. -/
def gives (c : Instr) (s : State) (p : State → Bool) : Bool :=
  match exec c s with
  | .next t => p t
  | _ => false

/-- A station with an image, its link UP and its port on the bus: number, condition, frame in progress, live view. -/
def station (own : Nat) (cond : Condition) (n : Nat) (live : StationSet) : State :=
  let s := State.reset
  { s with
    loader := { s.loader with strapped := BitVec.ofNat 4 own, state := .done }
    settings := { s.settings with roster := 0xFFF, laneCount := 2, inWidth := 2, inHeight := 2 }
    ctl := { s.ctl with condition := cond }
    agr := { resetAgreement own with live := live }
    port := { s.port with state := .active, joined := true }
    line := { s.line with running := true, frameNo := BitVec.ofNat 32 n, sendPending := true, lock := .locked, driving := true }
    link := { s.link with state := .up, health := .good }
    light := { s.light with state := .lit } }
/-- Two lanes that each read the sync word at once. -/
def heads : List (List LaneWord) := [[0xE5A3], [0xE5A3]]

/-- The number and detail of the last fault, and how many of its kind have been counted. -/
def lastFault (s : State) : Option (Nat × Nat × Nat) :=
  s.faults.last.map (fun r => (faultNumber r.kind, r.detail.toNat, s.faults.counters.getD (faultNumber r.kind) 0))

/-! ## Ill-formed terms, one for each check -/

theorem test_settings_empty : Instr.wellFormed (.settingsSectionEnd []) = false := by decide
theorem test_grid_count : Instr.wellFormed (.gridRecordCheck 0 0 0 1 []) = false := by decide
theorem test_clash_remote : Instr.wellFormed (.stationClash ⟨false, true, 0, 0, []⟩) = false := by decide
theorem test_frame_length : Instr.wellFormed (.foreignMessage ⟨false, false, 0, 2, [0]⟩) = false := by decide
theorem test_change_sender : Instr.wellFormed (.receiveChange 12 true .join 0 0 0) = false := by decide
theorem test_light_sender : Instr.wellFormed (.receiveLight 15 0 0) = false := by decide
theorem test_pulse_sender : Instr.wellFormed (.receivePulse 12 .live true true 0 0) = false := by decide
theorem test_bounds_sender : Instr.wellFormed (.receiveBounds 13 0 0 0) = false := by decide
theorem test_levels_sender : Instr.wellFormed (.receiveLevels 14 0 0 0 0) = false := by decide
theorem test_fade_sender : Instr.wellFormed (.showFade 11 0 0 0) = false := by decide
theorem test_identify_sender : Instr.wellFormed (.showIdentify 0 0 0 1 0) = false := by decide
theorem test_off_sender : Instr.wellFormed (.showIdentifyOff 5 0) = false := by decide
theorem test_lane_number : Instr.wellFormed (.laneActivityLost 4 [[], [], [], []]) = false := by decide
theorem test_lanes_lost_three : Instr.wellFormed (.laneActivityLost 0 [[], [], []]) = false := by decide
theorem test_lost_no_bad_start : Instr.wellFormed (.packetLost [[0x1A5C, 0xE5A2]]) = false := by decide
theorem test_skew_one_lane : Instr.wellFormed (.laneSkew [[0xE5A3]]) = false := by decide
theorem test_skew_no_words : Instr.wellFormed (.laneSkew [[], []]) = false := by decide
theorem test_heads_empty : Instr.wellFormed (.linePacket [[], []] []) = false := by decide
theorem test_heads_three_lanes : Instr.wellFormed (.frameStartPacket [[0xE5A3], [0xE5A3], [0xE5A3]] []) = false := by
  decide
theorem test_heads_idle : Instr.wellFormed (.linePacket [[0xE5A3, 0x1A5C]] []) = false := by decide
theorem test_payload_long : payloadWellFormed (List.replicate 65536 0) = false := by
  rw [payloadWellFormed, List.length_replicate]; decide
theorem test_line_no_lanes : Instr.wellFormed (.linePacket [] []) = false := by decide
theorem test_end_no_lanes : Instr.wellFormed (.frameEndPacket [] []) = false := by decide
theorem test_other_kind : Instr.wellFormed (.otherPacket [[0xE5A3]] 2 []) = false := by decide
theorem test_stray_no_lanes : Instr.wellFormed (.strayLinePacket [] true []) = false := by decide
theorem test_ecc_line : Instr.wellFormed (.memoryEcc 1600 0) = false := by decide
theorem test_selector_valid : Instr.wellFormed (.selectorRefused 64 (wholeWrite [])) = false := by decide
theorem test_other_address : Instr.wellFormed (.selectImage ⟨0x47, [], false⟩) = false := by decide
theorem test_sync_lane : Instr.wellFormed (.syncRecognised 4 [] [] [] []) = false := by decide

/-! ## The drive equation (sections 1.11, 1.12, 6.1, 7.4, 11.6) -/

/-- The pass of section 1.11: station 6 with factor 15565, live set 6, 7, 9. -/
def smallPass : Pass :=
  ⟨⟨.bounds, 0, ⟨0, 0⟩⟩, 0b1011000000, (List.range 12).map (fun i => if i = 6 then 15565 else 16384)⟩

/-- The grid of section 1.11. -/
def smallGrid : List NodeRecord :=
  [⟨32768, 100000, 40, []⟩, ⟨8192, 30000, 62, [⟨7, 12288, 55⟩, ⟨8, 12288, 70⟩]⟩, ⟨4096, 50, 60, []⟩,
   ⟨0, 0, 0, [⟨7, 32768, 48⟩]⟩]

theorem test_bounds_small_grid : boundsPair smallPass 6 smallGrid = some ⟨114, 71216⟩ := by
  decide +kernel
theorem test_degenerate_small_grid : degenerateCount smallPass 6 smallGrid = 1 := by decide

/-- The pass of section 1.12: stations 3 and 4 live, levels 140 and 100000. -/
def pairPass : Pass :=
  ⟨⟨.coeff, 0, ⟨140, 100000⟩⟩, 0b11000, (List.range 12).map (fun i => if i = 3 then 15565 else 16384)⟩

theorem test_coeff_station3 : nodeCoeff pairPass 3 ⟨16384, 120000, 60, [⟨4, 16384, 55⟩]⟩ = ⟨4, 14359⟩ := by decide
theorem test_coeff_station4 : nodeCoeff pairPass 4 ⟨16384, 118000, 55, [⟨3, 16384, 60⟩]⟩ = ⟨4, 13872⟩ := by decide
theorem test_drive_station3 : driveOf 4 14359 4096 16384 = 7184 := by decide
theorem test_output_code :
    outputCode (List.replicate 224 0 ++ [1730, 1737] ++ List.replicate 799 4000) 7184 = 1734 := by
  decide +kernel
theorem test_cut_levels :
    reduceBounds [⟨6, 114, 71216, true⟩, ⟨7, 131, 88400, true⟩, ⟨9, 120, 64950, false⟩] = ⟨131, 64950⟩ := by decide
theorem test_cut_collapse : corrected ⟨131, 120⟩ = ⟨131, 132⟩ := by decide

/-! ## Bytes and words whose values the manual or the named standards give -/

/-- The nine bytes "123456789". -/
def nineBytes : List Byte := [0x31, 0x32, 0x33, 0x34, 0x35, 0x36, 0x37, 0x38, 0x39]

theorem test_line_crc : lineCrc nineBytes = 0x29B1 := by decide +kernel
theorem test_image_crc : ~~~(crcBytes 32 0x04C11DB7 0xFFFFFFFF nineBytes) = 0xFC891918 := by decide +kernel
theorem test_bus_crc : crcBits 15 0x4599 0 (nineBytes.flatMap byteBits) = 0x059E := by decide +kernel
/-- Section 6.6: the PULSE of LIVE, driving station 4 with no valid held value is identifier 838. -/
theorem test_pulse_identifier : identifier ⟨4, .pulse .live true false 7100 0⟩ = 838 := by decide
theorem test_spread_white : spread8 255 = 1023 := by decide

/-! ## Resets and the image (sections 11.1 to 11.8) -/

theorem test_power_on_straps : gives (.powerOnReset 7) State.reset (fun t => t.own == 7 && t.inStart) = true := by
  decide +kernel
theorem test_power_on_strap_invalid : gives (.powerOnReset 12) State.reset
    (fun t => t.ctl.condition == .halted && lastFault t == some (41, 12, 1) && t.line.raster == fixedRaster) = true := by
  decide +kernel
theorem test_warm_reset_keeps_stamp : gives (.warmReset 3) (tick State.reset)
    (fun t => t.line.stamp == 1 && t.own == 3 && t.maint.view == 1) = true := by decide +kernel
theorem test_restart_ill_formed : gives (.restart (wholeWrite [0]) 3) State.reset
    (fun t => t.own == 0 && t.maint.acks == [true, true, false]) = true := by decide +kernel
theorem test_restart : gives (.restart (wholeWrite []) 3) State.reset
    (fun t => t.own == 3 && t.maint.acks == [true, true]) = true := by decide +kernel

/-- A loader that reads the body of an image of `n` body bytes at station 7, with `left` bytes left in section `sec`. -/
def loading (n sec left : Nat) : State :=
  let s := State.reset
  { s with loader := { s.loader with
      strapped := 7, state := .readingBody, bytes := 16, sectionNo := sec, inSection := decide (left ≠ 0), left := left
      header := some ⟨0x4D473412, 3, BitVec.ofNat 32 n, 0, 1⟩ } }

/-- The settings entries of a 1920 × 1080 image at station 7; slew 5000 and silence timeout 2 are out of range. -/
def someSettings : List (BitVec 8 × BitVec 32) :=
  [(1, 7), (2, 0x87), (3, 1920), (4, 1080), (5, 2), (6, 4), (10, 1920), (11, 1080), (12, 2200), (13, 1125),
   (14, 148500000), (17, 5000), (19, 2), (24, 0), (25, 0), (26, 16), (27, 16), (28, 8), (29, 3000)]

theorem test_header_good : gives (.imageHeaderCheck 0x4D473412 3 147489 0 1) State.reset
    (fun t => t.loader.state == .readingBody && t.loader.bytes == 16) = true := by decide +kernel
theorem test_header_version : gives (.imageHeaderCheck 0x4D473412 2 147489 0 1) State.reset
    (fun t => lastFault t == some (42, 2, 1) && t.ctl.condition == .halted) = true := by decide +kernel
theorem test_section_head : gives (.sectionHeadCheck 1 95) (loading 147489 0 0)
    (fun t => t.loader.bytes == 20 && t.loader.left == 95 && t.loader.inSection) = true := by decide +kernel
theorem test_section_length_bad : gives (.sectionHeadCheck 1 96) (loading 147489 0 0)
    (fun t => t.loader.code == some 5) = true := by decide +kernel
theorem test_settings_clamped : gives (.settingsSectionEnd someSettings) (loading 147489 1 95)
    (fun t => lastFault t == some (43, 19, 2) && t.loader.clamps == [17, 19] &&
      t.loader.settings.map (fun x => (x.slew, x.silenceTimeout)) == some (4096, 4)) = true := by decide +kernel
theorem test_settings_missing : gives (.settingsSectionEnd (someSettings.drop 1)) (loading 147489 1 90)
    (fun t => t.loader.code == some 7) = true := by decide +kernel
theorem test_table_entry : gives (.tableEntryCheck 32768) (loading 147489 2 2048)
    (fun t => t.pix.inputRed == [32768] && t.loader.left == 2046) = true := by decide +kernel
theorem test_table_entry_high : gives (.tableEntryCheck 4096) (loading 147489 5 2050)
    (fun t => t.loader.code == some 17) = true := by decide +kernel
theorem test_mesh_entry : gives (.warpMeshEntryRead 0xFFF8 16) (loading 147489 6 8)
    (fun t => t.pix.mesh == [⟨-8, 16⟩]) = true := by decide +kernel

/-- The state in the grid section of a 16 × 16 image, whose grid has four nodes, three of which have been read. -/
def inGrid : State :=
  let s := loading 200 7 15
  { s with
    loader := { s.loader with bytes := 201, settings := some { resetSettings with roster := 0x87, width := 16, height := 16 } }
    pix := { s.pix with grid := List.replicate 3 ⟨0, 0, 0, []⟩ } }

theorem test_grid_record : gives (.gridRecordCheck 100 2000 3 1 [⟨2, 40, 5⟩]) inGrid
    (fun t => t.pix.grid.getLast? == some ⟨100, 2000, 3, [⟨2, 40, 5⟩]⟩ && t.loader.inSection == false) = true := by
  decide +kernel
theorem test_grid_own_station : gives (.gridRecordCheck 100 2000 3 1 [⟨7, 40, 5⟩]) inGrid
    (fun t => t.loader.code == some 22) = true := by decide +kernel
theorem test_grid_codes :
    gives (.gridRecordCheck 32769 0 0 0 []) inGrid (fun t => t.loader.code == some 19) = true ∧
      gives (.gridRecordCheck 0 0 0 4 []) inGrid (fun t => t.loader.code == some 20) = true ∧
      gives (.gridRecordCheck 0 0 0 1 [⟨3, 40, 5⟩]) inGrid (fun t => t.loader.code == some 21) = true ∧
      gives (.gridRecordCheck 0 0 0 0 []) inGrid (fun t => t.loader.code == some 24) = true := by decide +kernel

/-- The state in which the last byte of the body has been read, with the running CRC at its start value. -/
def allRead : State :=
  let s := loading 0 7 0
  { s with loader := { s.loader with settings := some (settingsFrom someSettings) } }

theorem test_load_complete : gives .loadComplete allRead
    (fun t => t.ctl.condition == .joining && t.line.running && t.settings.slew == 4096 && t.port.state == .active) = true := by
  decide +kernel
theorem test_load_crc : gives .loadComplete { allRead with loader := { allRead.loader with crc := 0 } }
    (fun t => lastFault t == some (42, 25, 1)) = true := by decide +kernel

/-! ## Frame starts and the frame line (sections 5.9, 5.10, 6.6) -/

/-- Station 5 of section 5.10 in frame 0, its window holding the dome's pulse, with the adoption target taken. -/
def joiner : State :=
  let s := station 5 .joining 0 0
  { s with line := { s.line with
      lock := .listen, driving := false, startStamp := 800000000, windowOpen := 800000000, windowPending := true
      edges := [⟨true, 800612500⟩, ⟨false, 800614500⟩], target := some 48211 } }

theorem test_jump : gives .windowCompletion joiner
    (fun t => t.line.nextStart == some 802279167 && t.line.jumpWait == 7 && t.line.last.e == some (-612500) &&
      lastFault t == some (17, 9570, 1) && t.line.stamp == 800835333) = true := by decide +kernel
theorem test_adopted_number : gives (.frameStart 0)
    { joiner with line := { joiner.line with nextStart := some 802279167, jumpWait := 7 } }
    (fun t => t.line.frameNo == 48212 && t.line.jumpWait == 6 && t.line.startStamp == 802279167 &&
      t.line.target == none && lastFault t == some (18, 48212, 1)) = true := by decide +kernel

/-- Station 8 of section 5.9 at the close of its window. -/
def driver : State :=
  let s := station 8 .live 100 0
  { s with line := { s.line with
      startStamp := 500000000, windowOpen := 499166667, windowPending := true, low := false
      edges := [⟨true, 499998800⟩, ⟨false, 500003900⟩] } }

theorem test_window : gives .windowCompletion driver
    (fun t => t.line.last == ⟨.measured, some 499998800, some 3100, some (-350)⟩ && t.line.stamp == 500835333 &&
      t.line.lock == .locked && t.line.staged == -256) = true := by decide +kernel
theorem test_release : gives .frameLineRelease { driver with line := { driver.line with pulling := true } }
    (fun t => t.line.pulling == false && t.line.stamp == 500002000) = true := by decide +kernel
theorem test_edge : gives (.frameLineEdge true 500001900) driver
    (fun t => t.line.low && t.line.edges.length == 3 && t.line.stamp == 500001900) = true := by decide +kernel
theorem test_send_event : gives .sendEvent (station 4 .live 7108 0b1010110)
    (fun t => t.port.pulse.map identifier == [838] && t.port.levels.length == 1) = true := by decide +kernel
theorem test_frame_start_wraps : gives (.frameStart 0) (station 4 .live 4294967295 0)
    (fun t => t.line.frameNo == 0) = true := by decide +kernel
/-- R82: at trim 0 the fixed raster's frame takes 100,000,000 × 2200 × 1125 ÷ 148,500,000 = 1,666,666 2/3 stamps. -/
theorem test_frame_moment : gives (.frameStart 0) driver
    (fun t => t.line.startStamp == 501666666 && t.line.startFrac == ⟨2, 3⟩) = true := by decide +kernel
theorem test_send_event_once : gives .sendEvent { driver with line := { driver.line with sendPending := false } }
    (fun t => t.port.pulse.isEmpty) = true := by decide +kernel

/-! ## The node solver (sections 1.11 and 4.8) -/

/-- Station 6 with the grid of section 1.11 and a bounds pass of epoch 5206 running. -/
def solving : State :=
  let s := station 6 .live 5203 0b1011000000
  { s with
    agr := { s.agr with epochs := [⟨5206, [], [⟨6, 15565⟩], [], none, .opened, true⟩] }
    sol := { s.sol with running := some { smallPass with job := ⟨.bounds, 5206, ⟨0, 16777215⟩⟩ } }
    pix := { s.pix with grid := smallGrid } }

theorem test_bounds_pass : gives .boundsPassComplete solving
    (fun t => t.port.bounds == [⟨6, .bounds 5206 114 71216⟩] && lastFault t == some (0, 1, 1) &&
      t.agr.epochs.map (fun r => r.phase) == [.bounded]) = true := by decide +kernel
theorem test_coeff_pass : gives .coeffPassComplete { solving with sol := { solving.sol with
      running := some { smallPass with job := ⟨.coeff, 5206, ⟨131, 64950⟩⟩ }
      bank1 := ⟨[], some 5206, .spareFilling⟩ } }
    (fun t => t.sol.bank1.status == .spareReady && t.sol.bank1.coeffs.getLast? == some ⟨0, 0⟩) = true := by decide +kernel

/-! ## The peer bus (sections 2.12, 3.3, 3.5, 6.6) -/

/-- Station 4 of section 6.6 with an attempt of its PULSE on the bus. -/
def sending (failures : Nat) : State :=
  let s := station 4 .live 7100 0b1010110
  let m : Message := ⟨4, .pulse .live true false 7100 0⟩
  { s with
    port := { s.port with pulse := [m], attempt := some m, failures := failures }
    ctl := { s.ctl with selfSilence := 1 } }

theorem test_join_bus : gives .busIdleJoin { sending 0 with port := { (sending 0).port with joined := false } }
    (fun t => t.port.joined) = true := by decide +kernel
theorem test_offer_lowest : gives .beginAttempt { sending 0 with port := { (sending 0).port with
      attempt := none, bounds := [⟨4, .bounds 0 0 0⟩], change := [⟨4, .change false .input 4 0 0⟩] } }
    (fun t => t.port.attempt == some ⟨4, .change false .input 4 0 0⟩) = true := by decide +kernel
theorem test_lost_arbitration : gives .lostArbitration (sending 3)
    (fun t => t.port.attempt == none && t.port.failures == 3 && t.port.pulse.length == 1) = true := by decide +kernel
theorem test_sixteenth_failure : gives .attemptFailed (sending 15)
    (fun t => t.port.state == .off && lastFault t == some (19, 838, 1) && t.port.pulse.length == 1) = true := by
  decide +kernel
theorem test_message_complete : gives .messageComplete (sending 3)
    (fun t => t.port.pulse == [] && t.port.failures == 0 && t.ctl.selfSilence == 0) = true := by decide +kernel
theorem test_clash : gives (.stationClash (messageFrame ⟨4, .light 0 0⟩)) (sending 0)
    (fun t => t.ctl.condition == .halted && lastFault t == some (3, 4 * 256 + 4 * 16, 1)) = true := by decide +kernel
theorem test_foreign_reserved_kind : gives (.foreignMessage ⟨false, false, 0x010, 0, []⟩) (sending 0)
    (fun t => lastFault t == some (20, 16, 1)) = true := by decide +kernel
/-- The frame of section 6.6 as it stands on the wire. -/
def wire : List Bool := wireBits (messageFrame ⟨4, .pulse .live true false 7100 0⟩)

theorem test_received_whole : receiveBus wire = .valid (messageFrame ⟨4, .pulse .live true false 7100 0⟩) := by
  decide +kernel
/-- Six equal bits are a stuff error, which the port signals with six dominant bits (R101). -/
theorem test_stuff_error :
    let s := { sending 0 with port := { (sending 0).port with attempt := none } }
    drivesDominant s (List.replicate 6 false ++ [true]) = true ∧
      drivesDominant { s with port := { s.port with joined := false } } (List.replicate 6 false) = false := by
  decide +kernel
theorem test_attempt_unacknowledged : attemptStands ⟨4, .pulse .live true false 7100 0⟩ wire =
    .failed .unacknowledged (List.replicate 8 true) := by decide +kernel
theorem test_attempt_lost : attemptStands ⟨4, .pulse .live true false 7100 0⟩ [false, false, false, false] =
    .lostArbitration := by decide +kernel
/-- R101: the start bit read back recessive is a bit error, which the sender signals; and six equal levels in the identifier,
whose stuffed bit another node holds dominant, are a stuff error: identifier 0 begins with eleven dominant bits. -/
theorem test_attempt_errors :
    attemptStands ⟨4, .pulse .live true false 7100 0⟩ [true] = .failed .bit [] ∧
      drivesDominant (sending 0) [true] = true ∧ drivesDominant (sending 0) (true :: List.replicate 6 false) = false ∧
      attemptFrom true 0 (sentBits ⟨false, false, 0, 0, []⟩) (List.replicate 6 false) = .failed .stuff [] := by
  decide +kernel
theorem test_halted_failure : gives .attemptFailed { sending 3 with ctl := { (sending 3).ctl with condition := .halted } }
    (fun t => t.port.failures == 4 && t.port.state == .disabled) = true := by decide +kernel

/-- Station 0 of section 2.12 in frame 1000. -/
def dome : State := station 0 .live 1000 0b111

theorem test_light_message : gives (.receiveLight 2 1005 15700) dome
    (fun t => t.agr.epochs == [⟨1005, [], [⟨2, 15700⟩], [], none, .opened, false⟩]) = true := by decide +kernel
theorem test_live_change : gives (.receiveChange 5 true .join 5 1006 16012) dome
    (fun t => t.agr.epochs == [⟨1006, [⟨5, true, .join, some 16012⟩], [], [], none, .opened, false⟩]) = true := by
  decide +kernel
theorem test_withdrawn_change : gives (.receiveChange 5 false .light 5 1009 0)
    { dome with agr := { dome.agr with epochs := [⟨1006, [⟨5, true, .join, some 16012⟩], [], [], none, .bounded, true⟩] } }
    (fun t => t.agr.epochs == [] && t.agr.live == 0b111) = true := by decide +kernel
theorem test_late_change : gives (.receiveChange 1 false .input 1 1003 0) dome
    (fun t => t.agr.epochs.map (fun r => r.frame) == [1004] && lastFault t == some (7, 1, 1)) = true := by decide +kernel
theorem test_pulse_message : gives (.receivePulse 1 .live true true 1000 122) dome
    (fun t => (t.agr.peer 1).pulse == some ⟨1000, 122, true, .live, true, 1000⟩ && t.line.target == none) = true := by
  decide +kernel
theorem test_bounds_stray : gives (.receiveBounds 2 3990 118 70400) dome
    (fun t => (t.agr.peer 2).bounds == some ⟨3990, 118, 70400⟩ && lastFault t == some (10, 2, 1)) = true := by
  decide +kernel
/-- Section 3.5: station 5 adopts the LEVELS of station 1. -/
theorem test_levels_adopted : gives (.receiveLevels 1 16384 2458 0 3) (station 5 .joining 2001 0b10)
    (fun t => t.agr.adopted == some ⟨2458, 0, 3⟩ && (t.agr.peer 1).factor == some ⟨16384, .levels⟩) = true := by
  decide +kernel
theorem test_fade_message : gives (.showFade 13 2000 0 5) (station 0 .live 1990 0b111)
    (fun t => t.agr.pendingFade == some ⟨2000, 0, 5⟩) = true := by decide +kernel
theorem test_fade_late : gives (.showFade 13 2000 0 5) (station 2 .live 2000 0b111)
    (fun t => t.agr.pendingFade == some ⟨2001, 0, 5⟩ && lastFault t == some (12, 2000, 1)) = true := by decide +kernel
theorem test_fade_steps : (fadeStep ⟨4096, 0, 5⟩, fadeStep ⟨1639, 0, 2⟩) = (⟨3277, 0, 4⟩, ⟨819, 0, 1⟩) := by decide
theorem test_identify_message : gives (.showIdentify 12 5000 1 30 10) dome
    (fun t => t.agr.identify == some ⟨5000, 30, 10, none⟩) = true := by decide +kernel
theorem test_identify_range : gives (.showIdentify 12 5000 1 0 0) dome
    (fun t => lastFault t == some (11, 2, 1)) = true := by decide +kernel
theorem test_identify_off : gives (.showIdentifyOff 12 1004)
    { dome with agr := { dome.agr with identify := some ⟨900, 30, 10, none⟩ } }
    (fun t => t.agr.identify == some ⟨900, 30, 10, some 1004⟩) = true := by decide +kernel

/-! ## The link receiver and the frame store (sections 7.6 and 8.10) -/

/-- Station 2 of section 7.6, with a 2 × 2 frame of 8-bit pixels on two lanes. -/
def receiver : State :=
  let s := station 2 .live 100 0
  { s with
    link := { s.link with cleanRun := 255 }
    store := { s.store with
      slots := [⟨.showing, some 400, some 90⟩, ⟨.ready, some 401, some 99⟩, freeSlot, freeSlot], lastKept := some 401 } }

/-- The same with frame 402 open in slot 2 and `n` lines of it read. -/
def opened (n : Nat) (poison : Option Nat) : State :=
  let s := receiver
  { s with
    link := { s.link with openFrame := some ⟨402, some 2, n, poison⟩ }
    store := { s.store with slots := s.store.slots.set 2 (fillingSlot 402) } }

/-- The payload of line `n` with the six colour bytes `bs`. -/
def lineOf (n : Nat) (bs : List Byte) : List Byte :=
  let body := bytes16 (BitVec.ofNat 16 n) ++ bs
  body ++ bytes16 (lineCrc body)

theorem test_frame_start_packet : gives (.frameStartPacket heads [1, 146, 1, 0, 2, 0, 2]) receiver
    (fun t => t.link.openFrame == some ⟨402, some 2, 0, none⟩ && t.store.slot 2 == fillingSlot 402) = true := by
  decide +kernel
theorem test_frame_start_mismatch : gives (.frameStartPacket heads [1, 146, 2, 0, 2, 0, 2]) receiver
    (fun t => lastFault t == some (28, 1, 1) && t.link.openFrame == some ⟨402, none, 0, some 1⟩) = true := by decide +kernel
theorem test_line_corrected : gives (.linePacket [[0xE5A3], [0xE5A2]] (lineOf 0 [1, 2, 3, 255, 0, 64])) (opened 0 none)
    (fun t => lastFault t == some (25, 1, 1) && memRead t.store.memory (pixelAddress 2 0 1) == ⟨1023, 0, 257⟩ &&
      t.link.openFrame == some ⟨402, some 2, 1, none⟩) = true := by decide +kernel
theorem test_line_check : gives (.linePacket heads [0, 1, 0, 0, 0, 0, 0, 0, 0, 0]) (opened 1 none)
    (fun t => lastFault t == some (30, 1, 1) && t.link.openFrame == some ⟨402, some 2, 1, some 2⟩) = true := by
  decide +kernel
theorem test_frame_end_poisoned : gives (.frameEndPacket heads [0, 2]) (opened 2 (some 2))
    (fun t => lastFault t == some (31, 658, 1) && t.store.slot 2 == freeSlot && t.link.cleanRun == 0) = true := by
  decide +kernel
theorem test_frame_end_clean : gives (.frameEndPacket heads [0, 2]) (opened 2 none)
    (fun t => t.store.slot 2 == readySlot 402 100 && t.store.lastKept == some 402 && t.link.cleanFlag) = true := by
  decide +kernel
theorem test_other_packet : gives (.otherPacket heads 9 [1, 2]) (opened 1 none)
    (fun t => t.link.openFrame == some ⟨402, some 2, 1, none⟩ && t.link.inputTimer == some 0) = true := by decide +kernel
theorem test_stray_line : gives (.strayLinePacket heads false [1]) receiver
    (fun t => t.store == receiver.store && t.link.inputTimer == some 0) = true := by decide +kernel
theorem test_packet_lost : gives (.packetLost [[0xE5A3], [0xE5A0]]) (opened 1 none)
    (fun t => lastFault t == some (26, 1, 1) && t.link.openFrame == some ⟨402, some 2, 1, some 5⟩) = true := by
  decide +kernel
theorem test_lane_skew : gives (.laneSkew [[0xE5A3, 0, 0, 0, 0, 0], []]) (opened 1 none)
    (fun t => lastFault t == some (27, 1, 1)) = true := by decide +kernel

/-- R125, R126: a bad start is lost when the ninth byte after it has passed on the other lane, which reads idle words before and
after; both lanes find an idle word after the loss, and the packet that follows is read. -/
theorem test_lost_then_packet :
    gives (.frameStartPacket [0xE5A0 :: List.replicate 9 0x1A5C ++ [0xE5A3], List.replicate 10 0x1A5C ++ [0xE5A3]]
        [1, 146, 1, 0, 2, 0, 2]) receiver
      (fun t => lastFault t == some (26, 0, 1) && t.link.openFrame == some ⟨402, some 2, 0, none⟩) = true := by
  decide +kernel

/-- R184: the start corrected on lane 0 is reported before the frame store gives the frame a slot, so FIRST and LAST are fixed. -/
theorem test_reports_in_time :
    let ready : Slot := ⟨.ready, some 401, some 99⟩
    gives (.frameStartPacket [[0xE5A2], [0xE5A3]] [1, 146, 1, 0, 2, 0, 2])
      { receiver with store := { receiver.store with slots := [⟨.showing, some 400, some 90⟩, ready, ready, ready] } }
      (fun t => t.faults.first == some ⟨.laneCorrected, 100, 0⟩ && lastFault t == some (33, 401, 1)) = true := by
  decide +kernel

/-- The receiver after a loss: its lanes discard words until they read an idle word. -/
def seeking : State :=
  { opened 1 none with link := { (opened 1 none).link with readers := List.replicate 4 { freshReader with seeking := true } } }
/-- The lanes of the receiver are quiet. -/
theorem receiver_lanesQuiet : receiver.lanesQuiet := by
  unfold State.lanesQuiet LaneReader.quiet; decide
theorem opened_lanesQuiet (n : Nat) (poison : Option Nat) : (opened n poison).lanesQuiet := receiver_lanesQuiet

/-- R125: with no idle word read, the next packet is discarded, and after an idle word it is read. -/
theorem test_resynchronise :
    gives (.frameStartPacket heads [1, 146, 1, 0, 2, 0, 2]) seeking (fun t => t.link.openFrame == seeking.link.openFrame) = true ∧
      gives (.frameStartPacket [[0x1A5C, 0xE5A3], [0x1A5D, 0xE5A3]] [1, 146, 1, 0, 2, 0, 2]) seeking
        (fun t => t.link.openFrame == some ⟨402, some 2, 0, none⟩) = true := by decide +kernel
theorem test_input_timeout : gives .inputTimeout { opened 1 none with settings := { receiver.settings with inputTimeout := 20 } }
    (fun t => t.link.state == .down && (t.faults.first.map (fun r => (faultNumber r.kind, r.detail.toNat))) == some (24, 20) &&
      lastFault t == some (31, 8 * 256 + 146, 1)) = true := by decide +kernel
/-- Section 7.6: at the third frame start of the stall health is FAILED with detail 1. -/
theorem test_input_failed : inputHealthStep { receiver with link := { receiver.link with state := .down, miss := 2 } } =
    report .link .inputFailed 1 { receiver with link := { receiver.link with
      state := .down, miss := 3, health := .failed, cleanRun := 0 } } := by decide +kernel

/-- The receiver with its link in a given state. -/
def linkIn (x : LinkState) : State := { receiver with link := { receiver.link with state := x } }

theorem test_lanes_active : gives .lanesActive (linkIn .down) (fun t => t.link.state == .settle) = true := by decide +kernel
theorem test_settle_expiry : gives .settleExpiry (linkIn .settle) (fun t => t.link.state == .training) = true := by
  decide +kernel
theorem test_activity_lost : gives (.laneActivityLost 1 [[], []]) (linkIn .training) (fun t => t.link.state == .down) = true := by
  decide +kernel
theorem test_activity_lost_unused : gives (.laneActivityLost 2 [[], []]) (linkIn .training)
    (fun t => t.link.state == .training) = true := by decide +kernel
/-- The sync word, within one bit. -/
def syncBits : List Bool :=
  [true, true, true, false, false, true, false, true, true, false, true, false, false, false, true, false]

/-- The sync word itself. -/
def exactSync : List Bool :=
  [true, true, true, false, false, true, false, true, true, false, true, false, false, false, true, true]

/-- The idle word. -/
def idleBits : List Bool :=
  [false, false, false, true, true, false, true, false, false, true, false, true, true, true, false, false]

/-- Seven ones and the six bits that the recurrence of R122 gives after them. -/
def predicted : List Bool := List.replicate 7 true ++ List.replicate 6 false

theorem test_sync_recognised : gives (.syncRecognised 1 [] (predicted ++ syncBits) [] []) (linkIn .training)
    (fun t => (t.link.lanes.map (fun x => (x.checked, x.mismatched, x.syncAt))).take 2 ==
      [(0, 0, none), (6, 0, some 29)]) = true := by decide +kernel

/-- A lane that has checked `k` bits with `n` mismatches and ended its sync at bit time `b`. -/
def synced (k n b : Nat) : Lane := { freshLane with checked := k, mismatched := n, syncAt := some b }
theorem test_training_up : gives .trainingDecision { linkIn .training with link := { (linkIn .training).link with
      lanes := [synced 70000 2 1000, synced 65536 8 1064] } } (fun t => t.link.state == .up) = true := by decide +kernel
/-- The receiver in training: lane 0 ended its sync 40 bits before lane 1, and holds `held`. -/
def trainedWith (held : List Bool) : State :=
  { linkIn .training with link := { (linkIn .training).link with
    lanes := [{ synced 65536 0 1000 with held := held }, synced 65536 0 1040] } }
/-- An idle word, the start word of a packet and the first byte behind it, 1. -/
def startHeld : List Bool := idleBits ++ exactSync ++ [false, false, false, false, false, false, false, true]
/-- R123: the link comes UP with the start that lane 0 held marked, and the packet is read from the words that come. -/
theorem test_training_held :
    gives .trainingDecision (trainedWith startHeld) (fun t => t.link.state == .up && t.link.readers.map (fun x => (x.mark, x.part.length)) ==
        [(some .sync, 8), (none, 0)] && t.link.lanes.all (fun x => x.held.isEmpty)) = true ∧
      (match exec .trainingDecision (trainedWith startHeld) with
        | .next t => gives (.frameStartPacket [[], [0x1A5C, 0xE5A3]] [1, 146, 1, 0, 2, 0, 2]) t
            (fun u => u.link.openFrame == some ⟨402, some 2, 0, none⟩ && u.link.readers.all (fun x => x.part.isEmpty))
        | _ => false) = true := by decide +kernel
theorem test_training_fail : gives .trainingDecision { linkIn .training with link := { (linkIn .training).link with
      lanes := [synced 70000 2 1000, synced 65536 9 1064] } }
    (fun t => t.link.state == .down && lastFault t == some (23, 513, 1)) = true := by decide +kernel

/-- The pixel path's setup of a LIVE frame that reads slot 0: a raster of 2 × 2 pixels, four positions to a line and three
lines, one position to a stamp, whose pixels all take source line 1, column 0. -/
def picture : State :=
  let s := receiver
  { s with
    settings := { s.settings with width := 2, height := 2 }
    line := { s.line with raster := ⟨2, 2, 4, 3, 100000000⟩ }
    pix := { s.pix with setup := some ⟨100, false, false, .live, 0, 4096, some 0⟩, mesh := List.replicate 4 ⟨0, 8⟩ } }

theorem test_memory_ecc : gives (.memoryEcc 1 0) picture
    (fun t => lastFault t == some (38, 1, 1) && t.store.errors == [pixelAddress 0 1 0]) = true := by decide +kernel
/-- R149: with an error known in source line 0, which the walk reads first, the frame's report names that line. -/
theorem test_memory_ecc_first : gives (.memoryEcc 1 0)
      { picture with
        pix := { picture.pix with mesh := [⟨0, 0⟩, ⟨0, 128⟩, ⟨0, 0⟩, ⟨0, 128⟩] }
        store := { picture.store with errors := [pixelAddress 0 0 0] } }
    (fun t => lastFault t == some (38, 0, 1)) = true := by decide +kernel
theorem test_memory_ecc_not_read : gives (.memoryEcc 0 0) picture (fun t => t.store.errors.isEmpty) = true ∧
    gives (.memoryEcc 1 0) { picture with settings := { picture.settings with patchWidth := 2, patchHeight := 2 } }
      (fun t => t.store.errors.isEmpty) = true := by decide +kernel
/-- R149: a frame that reads an error known from before reports it, with its own number, by the time it ends. -/
theorem test_memory_ecc_again :
    gives (.frameStart 0) { picture with
        store := { picture.store with errors := [pixelAddress 0 1 0] }, link := { picture.link with cleanFlag := true } }
      (fun t => t.faults.first == some ⟨.memoryEcc, 100, 1⟩) = true := by decide +kernel
/-- R94: a jump five positions after the frame start ends the frame with the first pixel of line 1. -/
theorem test_jump_cuts_frame :
    (frameItems { picture with line := { picture.line with nextStart := some 5 } }).length = 6 ∧
      frameItems { picture with line := { picture.line with firstDue := true } } = [] := by decide +kernel

/-! ## The light monitor (section 10.6) -/

/-- Station 6 of section 10.6 with an on-sample held in a frame, and the filtered factor given. -/
def lamp (n on filtered : Nat) : State :=
  let s := station 6 .live n 0b1000000
  { s with
    settings := { s.settings with sCal := 3000 }
    light := { s.light with
      held := some ⟨on, BitVec.ofNat 32 (n - 4)⟩, filtered := filtered, announced := 16020, hadValid := true } }

theorem test_cycle : gives (.lightSample 40 false) (lamp 8007 2973 16020)
    (fun t => t.light.measured == 16018 && t.light.filtered == 16020) = true := by decide +kernel
theorem test_cycle_dimmed : gives (.lightSample 40 false) (lamp 8015 2790 16020)
    (fun t => t.light.measured == 15019 && t.light.filtered == 15958 && t.light.state == .lit) = true := by decide +kernel
/-- R165: with patch line 0, an off-sample of frame 8007 taken ahead of its frame start, whose report carries 8007. -/
theorem test_ahead_sample : gives (.lightSample 4095 true) { lamp 8007 2973 16020 with
      line := { (lamp 8007 0 0).line with frameNo := 8006 } }
    (fun t => t.faults.last == some ⟨.sensorSat, 8007, 2⟩) = true := by decide +kernel

/-! ## The maintenance port (sections 12.4 to 12.6) -/

theorem test_select_condition : gives (.selectCondition (wholeWrite [])) dome (fun t => t.maint.view == 1 && t.readByte 1 == 2) = true := by
  decide +kernel
theorem test_select_input : gives (.selectInput (wholeWrite [])) dome (fun t => t.maint.view == 2 && t.readByte 0 == 3) = true := by
  decide +kernel
theorem test_select_store : gives (.selectStore (wholeWrite [])) receiver (fun t => t.maint.view == 3 && t.readByte 0 == 3) = true := by
  decide +kernel
theorem test_select_lock : gives (.selectLock (wholeWrite [])) dome (fun t => t.maint.view == 4 && t.readByte 7 == 0xE8) = true := by
  decide +kernel
theorem test_select_peers : gives (.selectPeers (wholeWrite [])) dome (fun t => t.maint.view == 5 && t.readByte 0 == 1) = true := by
  decide +kernel
theorem test_select_epochs : gives (.selectEpochs (wholeWrite [])) solving (fun t => t.maint.view == 6 && t.readByte 0 == 1) = true := by
  decide +kernel
theorem test_select_levels : gives (.selectLevels (wholeWrite [])) dome (fun t => t.maint.view == 7 && t.readByte 3 == 255) = true := by
  decide +kernel
theorem test_select_faults : gives (.selectFaults (wholeWrite [])) dome
    (fun t => t.maint.view == 8 && t.readByte 0 == 255 && (viewBytes t.maint.view t).length == 33) = true := by decide +kernel
theorem test_select_counters : gives (.selectCounters (wholeWrite [])) dome
    (fun t => t.maint.view == 9 && (viewBytes t.maint.view t).length == 88) = true := by decide +kernel
theorem test_select_image : gives (.selectImage (wholeWrite [])) (loading 0 1 5) (fun t => t.maint.view == 10 && t.readByte 0 == 7) = true := by
  decide +kernel
theorem test_select_extra_bytes : gives (.selectInput (wholeWrite [7])) dome
    (fun t => t.maint.view == 2 && t.maint.acks == [true, true, false]) = true := by decide +kernel
theorem test_other_port : gives (.selectInput ⟨0x47, [], false⟩) dome (fun t => t.maint == dome.maint) = true := by
  decide +kernel
theorem test_clear_faults : gives (.clearFaults (wholeWrite [])) (report .port .portOff 838 (sending 0))
    (fun t => t.faults.counters.all (· == 0) && t.attn == false) = true := by decide +kernel
theorem test_attn_mask : gives (.attnMask (wholeWrite [0, 0, 0, 0, 0, 0, 0, 5])) dome
    (fun t => t.faults.mask == 5 && t.maint.acks.length == 10) = true := by decide +kernel
theorem test_attn_mask_short : gives (.attnMask (wholeWrite [0, 0, 0])) dome
    (fun t => t.faults.mask == defaultMask && t.maint.acks == List.replicate 5 true) = true := by decide +kernel
theorem test_selector_refused : gives (.selectorRefused 11 (wholeWrite [])) dome
    (fun t => t.maint.view == 1 && t.maint.acks == [true, false]) = true := by decide +kernel
/-- Section 12.6: PORT_OFF is a kind of the default mask, and PULSE_SKIPPED is not. -/
theorem test_attn_default_mask : (report .port .portOff 0 dome).attn = true ∧ (report .port .pulseSkipped 0 dome).attn = false := by
  decide +kernel

/-! ## Witnesses: concrete states and operands that meet the hypotheses of each obligation, clause by clause -/

/-- The state with one command waiting. -/
def queued (c : Instr) (s : State) : State := { s with pending := [c] }

theorem witness_StepRunsFrontCommand : State.reset.pending = [] := rfl
theorem witness_MemoryStaysCanonical :
    memWf ((opened 0 none).store.memory) = true ∧
      ∃ t, step (queued (.linePacket heads (lineOf 0 [1, 2, 3, 4, 5, 6])) (opened 0 none)) = .next t :=
  ⟨rfl, _, rfl⟩
theorem witness_AgreementStaysSound :
    let s := queued (.frameStart 0) solving
    (s.agr.levelsSound ∧ s.agr.fadeSound) ∧ ∃ t, step s = .next t := by
  refine ⟨⟨?_, ?_⟩, _, rfl⟩
  · unfold Agreement.levelsSound LevelPair.open; decide
  · unfold Agreement.fadeSound Fade.sound; decide
theorem witness_BanksStaySound : (queued .coeffPassComplete solving).sol.sound ∧
    ∃ t, step (queued .coeffPassComplete solving) = .next t := by
  refine ⟨?_, _, rfl⟩
  unfold Solver.sound Coeff.sound; decide
theorem witness_TrimStaysInRange : (queued .windowCompletion driver).trimSound ∧
    ∃ t, step (queued .windowCompletion driver) = .next t := by
  refine ⟨?_, _, rfl⟩
  unfold State.trimSound trimInRange; decide
theorem witness_QueuesStayInPlaces : (queued .attemptFailed (sending 15)).port.sound ∧
    ∃ t, step (queued .attemptFailed (sending 15)) = .next t := by
  refine ⟨?_, _, rfl⟩
  unfold Port.sound; decide
theorem witness_SlotsStaySound : (queued (.frameStart 0) (opened 1 none)).slotsSound ∧
    ∃ t, step (queued (.frameStart 0) (opened 1 none)) = .next t := by
  refine ⟨?_, _, rfl⟩
  unfold State.slotsSound Slot.sound; decide
theorem witness_CountsStayInRange :
    let s := queued (.frameStart 0) dome
    (s.faults.sound ∧ s.ctl.sound ∧ s.link.sound ∧ s.light.sound ∧ s.agr.peersSound) ∧ ∃ t, step s = .next t := by
  refine ⟨?_, _, rfl⟩
  unfold FaultUnit.sound Controller.sound Link.sound LightMonitor.sound Agreement.peersSound; decide
theorem witness_FaultRecordsKept :
    let s := takeReports (report .port .portOff 838 dome)
    s.faults.sound ∧ clearsFaults (.warmReset 0) = false ∧ (∃ t, exec (.warmReset 0) s = .next t) ∧
      s.faults.first = some ⟨.portOff, 1000, 838⟩ ∧ s.faults.pending.getLsbD 19 = true := by
  refine ⟨?_, rfl, ⟨_, rfl⟩, by decide, by decide⟩
  unfold FaultUnit.sound; decide
theorem witness_HaltedUntilReset :
    let s := station 4 .halted 7 0
    s.ctl.condition = .halted ∧ s.sol.running = none ∧ isReset (.clearFaults (wholeWrite [])) = false ∧
      ∃ t, exec (.clearFaults (wholeWrite [])) s = .next t := ⟨rfl, rfl, rfl, _, rfl⟩
theorem witness_ReportIsTaken : dome.settled := rfl
theorem witness_ResetsBeginStart : dome.settled ∧ (11#4).toNat < 12 ∧ 12 ≤ (12#4).toNat := ⟨rfl, by decide, by decide⟩
theorem witness_HeaderChecked :
    State.reset.settled ∧ State.reset.ctl.condition = .start ∧ State.reset.loader.state = .readingHeader ∧
      28 ≤ (28#32).toNat ∧ (16777200#32).toNat ≤ 16777200 ∧ ¬ 28 ≤ (27#32).toNat :=
  ⟨rfl, rfl, rfl, by decide, by decide, by decide⟩
theorem witness_SectionHeadChecked :
    let s := loading 147489 0 0
    s.settled ∧ s.ctl.condition = .start ∧ s.loader.state = .readingBody ∧ s.loader.inSection = false ∧
      s.loader.sectionNo < 7 ∧ s.loader.bytes + 4 + (147485#24).toNat ≤ 16 + s.loader.bodyLength ∧
      lengthSuits s.loader.nodes 1 147485 = true ∧ lengthSuits s.loader.nodes 1 147484 = false :=
  ⟨rfl, rfl, rfl, rfl, by decide, by decide, by decide, by decide⟩
theorem witness_SettingsTaken :
    let s := loading 147489 1 95
    s.settled ∧ s.faults.sound ∧ readingSection 1 95 s = true ∧ s.loader.left = 5 * someSettings.length ∧
      settingsFailure s.own someSettings = none ∧
      readingSection 1 90 (loading 147489 1 90) = true ∧ (loading 147489 1 90).loader.left = 5 * (someSettings.drop 1).length ∧
      settingsFailure 7 (someSettings.drop 1) = some 7 := by
  refine ⟨rfl, ?_, by decide, by decide, by decide +kernel, by decide, by decide, by decide +kernel⟩
  unfold FaultUnit.sound; decide
theorem witness_AcceptedSettingsInRange : settingsFailure 7 someSettings = none := by decide +kernel
theorem witness_TableAndMeshEntries :
    (loading 147489 2 2048).settled ∧ readingSection 2 2 (loading 147489 2 2) = true ∧
      readingSection 5 2 (loading 147489 5 2050) = true ∧ (32768#16).toNat ≤ 32768 ∧ ¬ (4096#16).toNat ≤ 4095 ∧
      (loading 147489 6 4).settled ∧ readingSection 6 4 (loading 147489 6 4) = true := by
  refine ⟨rfl, ?_, ?_, ?_, ?_, rfl, ?_⟩ <;> decide
theorem witness_GridRecordKept :
    let good := fun (x : ContributorBytes) => x.share.toNat ≤ 32768 ∧ (x.station.toNat < 12 ∧
      isMember inGrid.loader.roster x.station.toNat = true) ∧ x.station.toNat ≠ inGrid.own
    let cs : List ContributorBytes := [⟨2, 40, 5⟩]
    let cut := { inGrid with loader := { inGrid.loader with left := 10 } }
    let long := { inGrid with loader := { inGrid.loader with header := some ⟨0x4D473412, 3, 201, 0, 1⟩ } }
    inGrid.settled ∧ readingSection 7 9 inGrid = true ∧ (1#8).toNat ≤ 3 ∧ (32768#16).toNat ≤ 32768 ∧
      (∀ c ∈ cs, good c) ∧ (cs.map (fun c => c.station)).Nodup ∧ inGrid.loader.left = 15 ∧
      inGrid.pix.grid.length + 1 = inGrid.loader.nodes ∧ ¬ inGrid.loader.bytes + 15 < 16 + inGrid.loader.bodyLength ∧
      32768 < (32769#16).toNat ∧ 3 < (4#8).toNat ∧ ¬ ((12#8).toNat < 12) ∧ isMember inGrid.loader.roster 3 = false ∧
      isMember inGrid.loader.roster 7 = true ∧ (7#8).toNat = inGrid.own ∧ cut.loader.left < 15 ∧
      readingSection 7 9 cut = true ∧ long.loader.bytes + 15 < 16 + long.loader.bodyLength ∧
      readingSection 7 9 long = true := by
  refine ⟨rfl, ?_, ?_, ?_, ?_, ?_, ?_, ?_, ?_, ?_, ?_, ?_, ?_, ?_, ?_, ?_, ?_, ?_, ?_⟩ <;> decide
theorem witness_LoadCompletes :
    let bad := { allRead with loader := { allRead.loader with crc := 0 } }
    allRead.settled ∧ bodyRead allRead = true ∧ allRead.loader.header = some ⟨0x4D473412, 3, 0, 0, 1⟩ ∧
      allRead.loader.settings = some (settingsFrom someSettings) ∧ ~~~allRead.loader.crc = 0 ∧
      bodyRead bad = true ∧ ~~~bad.loader.crc ≠ 0 := by
  refine ⟨rfl, ?_, ?_, rfl, ?_, ?_, ?_⟩ <;> decide

theorem witness_FrameStartNumbers :
    let first := { driver with line := { driver.line with firstDue := true } }
    let jumped := { joiner with line := { joiner.line with nextStart := some 802279167 } }
    driver.working = true ∧ driver.line.running = true ∧ driver.line.firstDue = false ∧ driver.line.nextStart = none ∧
      0 < driver.line.startFrac.den ∧ 0 < driver.line.raster.f0 ∧ 0 < 2 ^ 24 + driver.line.trim ∧
      first.working = true ∧ first.line.running = true ∧ first.line.firstDue = true ∧
      jumped.working = true ∧ jumped.line.running = true ∧ jumped.line.firstDue = false ∧
      jumped.line.nextStart = some 802279167 := by
  refine ⟨rfl, rfl, rfl, rfl, ?_, ?_, ?_, rfl, rfl, rfl, rfl, rfl, rfl, rfl⟩ <;> decide
theorem witness_FrameStartCounts :
    let off := { joiner with port := { joiner.port with state := .off, offCount := 63 } }
    let waiting := { joiner with port := { joiner.port with state := .off, offCount := 62 } }
    let failing := { receiver with link := { receiver.link with miss := 2 } }
    joiner.working = true ∧ joiner.line.running = true ∧ (joiner.ctl.condition = .joining ∧ joiner.port.state = .active) ∧
      off.working = true ∧ off.line.running = true ∧ 64 ≤ off.port.offCount + 1 ∧ 11 < joiner.agr.peers.length ∧
      11 ≠ joiner.own ∧ waiting.port.state = .off ∧ ¬ 64 ≤ waiting.port.offCount + 1 ∧ failing.link.health = .good ∧
      failing.link.cleanFlag = false ∧ failing.settings.holdLimit ≤ satInc 255 failing.link.miss := by
  refine ⟨rfl, rfl, ⟨rfl, rfl⟩, rfl, rfl, ?_, ?_, ?_, rfl, ?_, rfl, rfl, ?_⟩ <;> decide
theorem witness_FrameStartShows :
    let s := { dome with agr := { dome.agr with
      pendingFade := some ⟨1001, 0, 5⟩, identify := some ⟨1001, 30, 10, some 1002⟩ } }
    s.working = true ∧ s.line.running = true ∧ fadeStarts s.line.frameNo 1001 ⟨1001, 0, 5⟩ = true ∧
      fadeStarts s.line.frameNo 1001 ⟨1002, 0, 5⟩ = false ∧ identifyEnds 1001 ⟨900, 30, 10, some 1001⟩ = true ∧
      identifyEnds 1001 ⟨1001, 30, 10, some 1002⟩ = false ∧ dome.agr.pendingFade = none ∧ dome.agr.identify = none ∧
      (⟨4096, 4096, 0⟩ : Fade).remaining = 0 ∧ 0 < (⟨819, 0, 1⟩ : Fade).remaining := by
  refine ⟨rfl, rfl, ?_, ?_, ?_, ?_, rfl, rfl, ?_, ?_⟩ <;> decide
/-- Station 0 of section 2.12 with one record due at frame 1001, whose bank is ready. -/
def dueRecord (phase : Phase) : State :=
  { dome with
    agr := { dome.agr with epochs := [⟨1001, [⟨5, true, .join, some 16012⟩, ⟨0, false, .input, none⟩], [⟨2, 15700⟩], [],
      some ⟨131, 64950⟩, phase, true⟩] }
    sol := { dome.sol with bank1 := ⟨[], some 1001, .spareReady⟩ } }

theorem witness_FrameStartRecords :
    let s := dueRecord .banked
    let late := { dueRecord .cut with sol := { dome.sol with queue := [⟨.coeff, 1001, ⟨131, 64950⟩⟩] } }
    let held := { dome with sol := { s.sol with lateSwap := some 1001 } }
    let joins : State := { dome with
      ctl := { dome.ctl with condition := .joining }
      agr := { (dome.agr.onPeer 1 (fun r => { r with pulse := some ⟨1000, 0, false, .live, true, 1000⟩ })) with
        epochs := [⟨1001, [⟨0, true, .join, some 16000⟩, ⟨1, true, .join, some 15000⟩, ⟨5, true, .join, some 16012⟩], [],
          [], none, .banked, true⟩] } }
    s.working = true ∧ s.line.running = true ∧ s.ctl.condition = .live ∧ s.agr.peers.length = 12 ∧
      (∀ i, (s.agr.peer i).repair < 2) ∧ s.ctl.selfSilence + 1 < s.settings.silenceTimeout ∧
      joins.working = true ∧ joins.agr.peers.length = 12 ∧ (joins.agr.peer 1).silence + 1 < joins.settings.silenceTimeout ∧
      joins.agr.epochs.filter (isDue 1000 1001) = joins.agr.epochs ∧ isMember s.agr.live 0 = true ∧
      isMember s.agr.live 5 = false ∧ nextFrameNo s.line = 1001 ∧ s.agr.epochs.filter (isDue 1000 1001) = s.agr.epochs ∧ s.sol.lateSwap = none ∧
      s.sol.readyFor 1001 = true ∧ late.sol.readyFor 1001 = false ∧ late.sol.coeffWaiting 1001 = true ∧
      held.agr.epochs = [] ∧ held.sol.readyFor 1001 = true ∧ 2 ≠ s.own ∧ 5 < 12 ∧ s.own = 0 := by
  refine ⟨rfl, rfl, rfl, ?_, ?_, ?_, rfl, ?_, ?_, ?_, ?_, ?_, ?_, ?_, rfl, ?_, ?_, ?_, rfl, ?_, ?_, ?_, ?_⟩
  case refine_2 =>
    intro i
    rcases Nat.lt_or_ge i 12 with h | h
    · have : ∀ i < 12, ((dueRecord .banked).agr.peer i).repair < 2 := by decide
      exact this i h
    · rw [Agreement.peer, List.getD_eq_default _ _ (by exact h)]; decide
  all_goals decide
theorem test_record_applied : gives (.frameStart 0) (dueRecord .banked) (fun t =>
    t.agr.live == 0b100110 && t.ctl.condition == .dark && t.agr.levels == ⟨131, 64950⟩ && t.sol.activeNo == 1 &&
      (t.agr.peer 2).factor == some ⟨15700, .epoch⟩ && t.agr.epochs.isEmpty) = true := by decide +kernel
/-- R44, R45: at the frame start that makes the station LIVE, a LIVE change of a peer that the rebuilt view holds keeps its factor. -/
theorem test_joining_record : gives (.frameStart 0)
      { dome with
        ctl := { dome.ctl with condition := .joining }
        agr := { (dome.agr.onPeer 1 (fun r => { r with
            pulse := some ⟨1000, 0, false, .live, true, 1000⟩, factor := some ⟨14000, .levels⟩ })) with
          epochs := [⟨1001, [⟨0, true, .join, some 16000⟩, ⟨1, true, .join, some 15000⟩, ⟨5, true, .join, some 16012⟩], [],
            [], none, .banked, true⟩] } }
    (fun t => t.ctl.condition == .live && t.agr.live == 0b100011 && (t.agr.peer 1).factor == some ⟨14000, .levels⟩ &&
      (t.agr.peer 0).factor == some ⟨16000, .epoch⟩ && (t.agr.peer 5).factor == some ⟨16012, .epoch⟩) = true := by
  decide +kernel
theorem witness_FrameStartView :
    let heard := fun (c : PulseCondition) (r : PeerRecord) => { r with pulse := some ⟨1000, 0, false, c, true, 1000⟩ }
    let joining := { dome with ctl := { dome.ctl with condition := .joining }, agr := dome.agr.onPeer 1 (heard .live) }
    let s := { dome with agr := (dome.agr.onPeer 1 (fun r => { heard .dark r with repair := 2 })).onPeer 2 (heard .dark) }
    let t := { s with agr := { s.agr with epochs := [⟨1010, [⟨1, false, .light, none⟩], [], [], none, .opened, false⟩] } }
    joining.working = true ∧ joining.line.running = true ∧ joining.agr.peers.length = 12 ∧
      (joining.agr.peer 1).silence + 1 < joining.settings.silenceTimeout ∧ s.working = true ∧
      s.ctl.condition ≠ .joining ∧ s.agr.peers.length = 12 ∧ s.agr.epochs = [] ∧ (s.agr.peer 1).repair = 2 ∧
      (s.agr.peer 2).repair = 0 ∧ (s.agr.peer 2).pulse = some ⟨1000, 0, false, .dark, true, 1000⟩ ∧
      (s.agr.peer 3).pulse = none ∧ nextFrameNo t.line = 1001 ∧ t.agr.epochs.filter (isDue 1000 1001) = [] := by
  refine ⟨rfl, rfl, ?_, ?_, rfl, ?_, ?_, ?_, ?_, ?_, ?_, ?_, ?_, ?_⟩ <;> decide
theorem witness_FrameStartChanges :
    let ready := { dome with
      ctl := { dome.ctl with condition := .dark, dwell := 63, aligned := 7 }
      line := { dome.line with last := ⟨.measured, some 0, some 0, some 0⟩ } }
    let pendingLive := { dome with
      ctl := { dome.ctl with condition := .dark }
      light := { dome.light with state := .out }
      agr := { dome.agr with epochs := [⟨1010, [⟨0, true, .join, some 16384⟩], [], [], none, .opened, false⟩] } }
    let quiet := { dome with
      agr := dome.agr.onPeer 1 (fun r => { r with silence := 11 })
      ctl := { dome.ctl with selfSilence := 11 }
      light := { dome.light with filtered := 16000, spacing := 300 } }
    dome.working = true ∧ dome.line.running = true ∧ dome.agr.peers.length = 12 ∧ dome.port.state ≠ .disabled ∧
      dome.port.change = [] ∧ alignedNow ready = true ∧ ready.link.health = .good ∧ ready.light.state = .lit ∧
      ready.port.state = .active ∧ ready.agr.statePending 0 = false ∧ 64 ≤ ready.ctl.dwell + 1 ∧
      pendingLive.agr.statePendingAs 0 true = true ∧ pendingLive.light.state = .out ∧
      pendingLive.agr.epochs.filter (isDue 1000 1001) = [] ∧ quiet.settings.silenceTimeout ≤ 12 ∧
      isMember quiet.agr.live 1 = true ∧ quiet.agr.statePendingAs 1 false = false ∧ isMember quiet.agr.live 0 = true ∧
      quiet.settings.drift ≤ ((quiet.light.filtered : Int) - quiet.light.announced).natAbs ∧ quiet.port.light = [] := by
  refine ⟨rfl, rfl, ?_, ?_, rfl, ?_, rfl, rfl, rfl, ?_, ?_, ?_, rfl, ?_, ?_, ?_, ?_, ?_, ?_, rfl⟩ <;> decide
theorem witness_FrameStartCuts :
    let r : EpochRecord := ⟨1002, [], [⟨2, 15700⟩], [⟨1, 140, 90000, true⟩], none, .bounded, true⟩
    let s := { dome with agr := { dome.agr.onPeer 2 (fun r => { r with bounds := some ⟨7, 120, 70000⟩ }) with epochs := [r] } }
    let running := fun (k : JobKind) => { s with sol := { s.sol with running := some (makePass s.agr ⟨k, 1005, ⟨0, 1⟩⟩) } }
    s.working = true ∧ s.line.running = true ∧ s.agr.peers.length = 12 ∧
      s.ctl.selfSilence + 1 < s.settings.silenceTimeout ∧ (r.bounds.map (fun e => e.station)).Nodup ∧
      nextFrameNo s.line = 1001 ∧ isDue 1000 1001 r = false ∧ notAfter r.frame 1002 = true ∧ s.sol.coeffAlive = none ∧
      s.sol.running = none ∧ (running .bounds).sol.coeffAlive = none ∧ (running .coeff).sol.queue = [] ∧
      after 1005 r.frame = true := by
  refine ⟨rfl, rfl, ?_, ?_, ?_, ?_, ?_, ?_, ?_, rfl, ?_, rfl, ?_⟩ <;> decide
theorem witness_FrameStartSelects :
    let s := { receiver with agr := { receiver.agr.onPeer 1 (fun r => { r with
      pulse := some ⟨100, 401, true, .live, true, 100⟩ }) with live := 0b10 } }
    let refused := { s with agr := s.agr.onPeer 1 (fun r => { r with pulse := some ⟨100, 400, true, .live, true, 100⟩ }) }
    s.working = true ∧ s.line.running = true ∧ s.store.reference = some 400 ∧ contributions s.agr = [401] ∧
      s.store.ordered = true ∧ contentAfter 401 400 = true ∧ contentNotAfter 401 401 = true ∧
      contributions refused.agr = [400] ∧ contentNotAfter 401 400 = false ∧ dome.store.reference = none := by
  refine ⟨rfl, rfl, ?_, ?_, ?_, ?_, ?_, ?_, ?_, ?_⟩ <;> decide
theorem test_selected : gives (.frameStart 0) { receiver with agr := { receiver.agr.onPeer 1 (fun r => { r with
      pulse := some ⟨100, 401, true, .live, true, 100⟩ }) with live := 0b10 } }
    (fun t => t.store.selection == some 401 && t.store.showing == some 1 && t.store.slot 0 == freeSlot) = true := by
  decide +kernel
theorem witness_FrameSetupTaken :
    let patched := { picture with settings := { picture.settings with patchWidth := 1, patchHeight := 1 } }
    let marked : Setup := ⟨100, true, true, .dark, 0, 4096, none⟩
    let known := { picture with store := { picture.store with errors := [pixelAddress 0 1 0] } }
    picture.working = true ∧ picture.line.running = true ∧ picture.pix.setup.isSome = true ∧
      inPatch patched.settings 0 0 = true ∧ inPatch patched.settings 1 0 = false ∧ inPatch patched.settings 0 1 = false ∧
      inPatch picture.settings 0 0 = false ∧ marked.identify = true ∧ marked.condition ≠ .live ∧
      sourceX picture 1 1 = 8 * 0 ∧ sourceY picture 1 1 = 8 * 1 ∧ 1 < picture.settings.inHeight ∧
      pixelAddress 0 1 0 ∉ picture.store.errors ∧ pixelAddress 0 1 0 ∈ known.store.errors ∧
      (station 2 .halted 100 0).working = false := by
  refine ⟨rfl, rfl, rfl, ?_, ?_, ?_, ?_, rfl, ?_, ?_, ?_, ?_, ?_, ?_, rfl⟩ <;> decide +kernel
/-- R157: the patch comes before identify, identify before the zero drive of a station that is not LIVE, and no patch, identify
or output table is applied in HALTED (R158). -/
theorem test_override_order :
    let s : State := { picture with
      settings := { picture.settings with patchWidth := 1, patchHeight := 1 }
      pix := { picture.pix with
        output := List.range 1025, grid := List.replicate 4 ⟨16384, 0, 0, []⟩
        setup := some ⟨100, true, true, .dark, 0, 4096, none⟩ } }
    pixelCodes s 0 0 = ⟨1024, 1024, 1024⟩ ∧ pixelCodes s 1 0 = ⟨256, 256, 256⟩ ∧
      pixelCodes { s with pix := { s.pix with setup := some ⟨100, false, false, .dark, 0, 4096, none⟩ } } 1 1 = ⟨0, 0, 0⟩ ∧
      pixelCodes { s with ctl := { s.ctl with condition := .halted } } 0 0 = ⟨0, 0, 0⟩ := by decide +kernel
theorem witness_LineReleaseAndEdges :
    let s := { driver with line := { driver.line with pulling := true } }
    s.settled ∧ s.line.pulling = true := ⟨rfl, rfl⟩
/-- The driver with the edges `es` of its window, the line's level before them, and its driving flag. -/
def windowOf (es : List Edge) (low drives : Bool) : State :=
  { driver with line := { driver.line with edges := es, baseLow := low, driving := drives } }

theorem witness_WindowCompletes :
    let opening := stampDiff driver.line.windowOpen driver.line.startStamp
    let hw : Int := driver.tf / 2
    let rel := fun (x : Stamp) => stampDiff x driver.line.startStamp
    driver.settled ∧ driver.working = true ∧ driver.line.windowPending = true ∧ (windowOf [] true true).line.edges = [] ∧
      (windowOf [] false false).line.baseLow = false ∧ opening ≤ rel 499998800 ∧ rel 499998800 < hw ∧
      opening ≤ rel 500003900 ∧ rel 500003900 ≤ hw + 2000 ∧ 0 ≤ rel 500003900 - 2000 - rel 499998800 ∧
      rel 499999900 - 2000 - rel 499998800 < 0 := by
  refine ⟨rfl, rfl, rfl, rfl, rfl, ?_, ?_, ?_, ?_, ?_, ?_⟩ <;> decide +kernel
/-- The window of the driver with a fall before its opening, a rise at its start, and two pulses. -/
def busyWindow : State := windowOf [⟨true, 499000000⟩, ⟨false, 499200000⟩, ⟨true, 499998800⟩, ⟨false, 500000800⟩,
  ⟨true, 500001000⟩, ⟨false, 500003900⟩, ⟨true, 500834000⟩] false true
theorem witness_WindowCompletes_pulses :
    let opening := stampDiff driver.line.windowOpen driver.line.startStamp
    let hw : Int := driver.tf / 2
    let rel := fun (x : Edge) => stampDiff x.stamp driver.line.startStamp
    let falls := fun (x : Edge) => x.falling = true ∧ opening ≤ rel x ∧ rel x < hw
    let within := fun (x : Edge) => opening ≤ rel x ∧ rel x ≤ hw + 2000
    busyWindow.line.edges = [⟨true, 499000000⟩, ⟨false, 499200000⟩] ++ ⟨true, 499998800⟩ ::
        ([⟨false, 500000800⟩, ⟨true, 500001000⟩] ++ ⟨false, 500003900⟩ :: [⟨true, 500834000⟩]) ∧
      (∀ x ∈ ([⟨true, 499000000⟩, ⟨false, 499200000⟩] : List Edge), ¬falls x) ∧ falls ⟨true, 499998800⟩ ∧
      within ⟨false, 500003900⟩ ∧ ¬within ⟨true, 499000000⟩ ∧ ¬falls ⟨true, 500834000⟩ ∧
      rel ⟨true, 499000000⟩ < opening ∧ opening ≤ rel ⟨true, 500834000⟩ ∧ within ⟨false, 499200000⟩ := by
  refine ⟨rfl, ?_, ?_, ?_, ?_, ?_, ?_, ?_, ?_⟩ <;> decide +kernel
theorem test_window_pulses :
    gives .windowCompletion busyWindow
      (fun t => t.line.last == ⟨.measured, some 499998800, some 3100, some (-350)⟩) = true ∧
    gives .windowCompletion (windowOf [⟨true, 499000000⟩] false true) (fun t => lastFault t == some (14, 1, 1)) = true ∧
    gives .windowCompletion (windowOf [⟨true, 499000000⟩, ⟨false, 499200000⟩] false true)
      (fun t => lastFault t == some (14, 3, 1)) = true := by decide +kernel
theorem test_window_classes :
    gives .windowCompletion (windowOf [] true false) (fun t => lastFault t == some (14, 1, 1) && t.line.lock == .free) = true ∧
      gives .windowCompletion (windowOf [] false true) (fun t => lastFault t == some (14, 3, 1)) = true ∧
      gives .windowCompletion (windowOf [⟨true, 499998800⟩] false true) (fun t => lastFault t == some (14, 2, 1)) = true ∧
      gives .windowCompletion (windowOf [⟨true, 499998800⟩, ⟨false, 499999900⟩] false true)
        (fun t => t.line.last.cls == .noEdges) = true := by decide +kernel

/-- The driver in lock state `x` and condition `c`, with one pulse in its window `d` stamps from its own. -/
def phased (x : LockState) (c : Condition) (d : Nat) : State :=
  { driver with
    ctl := { driver.ctl with condition := c }
    line := { driver.line with lock := x, near := 3, inside := 7, outside := 2, good := 7, quiet := 7, edges :=
      [⟨true, 500000000 + BitVec.ofNat 32 d⟩, ⟨false, 500002100 + BitVec.ofNat 32 d⟩] } }

theorem witness_LockMoves :
    let none := windowOf [] false false
    let near := phased .pulling .joining 10
    let far := phased .pulling .joining 200000
    near.settled ∧ near.working = true ∧ near.line.windowPending = true ∧
      (measure none.line none.halfWidth).1.cls = .noEdges ∧ (measure near.line near.halfWidth).1.cls = .measured ∧
      (measure near.line near.halfWidth).1.e = some (-60) ∧ (measure near.line near.halfWidth).1.span = some 100 ∧
      (measure far.line far.halfWidth).1.e = some (-200050) ∧ far.tf / 16 < (-200050 : Int).natAbs ∧
      (-60 : Int).natAbs ≤ near.settings.lockWindow ∧ near.line.jumpWait = 0 ∧ 8 ≤ near.line.inside + 1 ∧
      (measure driver.line driver.halfWidth).1.cls ≠ .lineFault := by
  refine ⟨rfl, rfl, rfl, ?_, ?_, ?_, ?_, ?_, ?_, ?_, rfl, ?_, ?_⟩ <;> decide +kernel
theorem test_lock_moves :
    gives .windowCompletion (phased .pulling .joining 10) (fun t => t.line.lock == .locked && t.line.inside == 0) = true ∧
      gives .windowCompletion (phased .pulling .live 200000) (fun t => t.line.lock == .pulling && lastFault t == some (16, 3125, 1)) = true ∧
      gives .windowCompletion (phased .locked .live 5000) (fun t => t.line.lock == .pulling && lastFault t == some (15, 78, 1)) = true ∧
      gives .windowCompletion (phased .free .dark 10) (fun t => t.line.lock == .listen && t.line.good == 0) = true := by
  decide +kernel
theorem witness_SendEventQueues :
    let s := station 4 .live 7108 0
    let m : Message := ⟨4, .pulse .live true false 7100 0⟩
    let halted := { s with ctl := { s.ctl with condition := .halted } }
    let busy := { sending 0 with port := { (sending 0).port with pulse := [m, m] } }
    let l : Message := ⟨4, .levels 16384 4096 4096 0⟩
    let other := { s with port := { s.port with pulse := [m], levels := [l], attempt := some l } }
    s.line.running = true ∧ s.line.sendPending = true ∧ s.working = true ∧ s.port.state ≠ .disabled ∧
      s.port.attempt = none ∧ s.line.frameNo.toNat % 16 = s.own ∧ s.settled ∧ halted.settled ∧ halted.working = false ∧
      busy.line.running = true ∧ busy.port.attempt = some m ∧ kindCode m.body = 3 ∧ busy.port.pulse = [m, m] ∧
      other.working = true ∧ other.port.state ≠ .disabled ∧ other.line.sendPending = true ∧ other.port.attempt = some l ∧
      kindCode l.body = 6 ∧ other.port.levels = [l] :=
  ⟨rfl, rfl, rfl, by decide, rfl, by decide, rfl, rfl, rfl, rfl, rfl, by decide, rfl, rfl, by decide, rfl, rfl, by decide,
    rfl⟩
theorem witness_BoundsPassCompletes :
    let p : Pass := { smallPass with job := ⟨.bounds, 5206, ⟨0, 16777215⟩⟩ }
    let dark := { p with live := 0b1010000000 }
    let cut := { solving with agr := { solving.agr with epochs := [⟨5206, [], [], [], some ⟨131, 64950⟩, .cut, true⟩] } }
    solving.sol.running = some p ∧ p.job.kind = .bounds ∧ p.ownLive solving.own = true ∧ dark.ownLive solving.own = false ∧
      solving.agr.record p.job.epoch = some ⟨5206, [], [⟨6, 15565⟩], [], none, .opened, true⟩ ∧
      (cut.agr.record p.job.epoch).map (fun r => r.phase) = some .cut ∧ dome.agr.record p.job.epoch = none ∧
      solving.port.state ≠ .disabled ∧ solving.port.bounds.length < 8 ∧
      0 < degenerateCount p solving.own solving.pix.grid := by
  refine ⟨rfl, rfl, ?_, ?_, ?_, ?_, rfl, ?_, ?_, ?_⟩ <;> decide
theorem witness_CoeffPassCompletes :
    let p : Pass := { smallPass with job := ⟨.coeff, 5206, ⟨131, 64950⟩⟩ }
    let s := { solving with
      sol := { solving.sol with running := some p, queue := [⟨.bounds, 5207, ⟨0, 16777215⟩⟩] }
      agr := { solving.agr with epochs := [⟨5206, [], [], [], some ⟨131, 64950⟩, .cut, true⟩] } }
    let n : NodeRecord := ⟨8192, 30000, 62, [⟨7, 12288, 55⟩, ⟨8, 12288, 70⟩]⟩
    s.sol.running = some p ∧ p.job.kind = .coeff ∧ (∀ j ∈ s.sol.queue, j.kind = .bounds) ∧
      (s.agr.record p.job.epoch).map (fun r => r.phase) = some .cut ∧ isMember p.live 6 = true ∧ 0 < n.share ∧
      (stageOne p 6 n).black < (stageOne p 6 n).white ∧ (stageOne p 6 n).blackSum < p.job.levels.floor ∧
      p.job.levels.floor ≤ (stageOne p 6 ⟨8192, 30000, 150, []⟩).blackSum ∧ p.job.levels.floor < p.job.levels.ceiling ∧
      (stageOne p 6 ⟨4096, 50, 60, []⟩).white ≤ (stageOne p 6 ⟨4096, 50, 60, []⟩).black ∧ isMember p.live 0 = false :=
  ⟨rfl, rfl, by decide, by decide, by decide, by decide, by decide, by decide, by decide, by decide, by decide, by decide⟩
theorem witness_BoundsAreExtremes :
    ∃ n ∈ smallGrid, 0 < n.share ∧ serves n (stageOne smallPass 6 n) = true := by decide +kernel
theorem witness_CutLevelsOpen :
    (∀ e ∈ [(⟨0, 16777215, 16777215, true⟩ : BoundsEntry), ⟨1, 131, 120, true⟩], e.floor ≤ 16777215 ∧ e.ceiling ≤ 16777215) ∧
      (reduceBounds [⟨1, 131, 120, true⟩]).ceiling ≤ (reduceBounds [⟨1, 131, 120, true⟩]).floor ∧
      (reduceBounds [⟨0, 16777215, 16777215, true⟩]).floor = 16777215 ∧
      corrected (reduceBounds [⟨0, 16777215, 16777215, true⟩]) = ⟨16777214, 16777215⟩ := by decide
theorem witness_OutputCodeMonotone :
    let t := List.replicate 1025 7
    t.length = 1025 ∧ (∀ v ∈ t, v ≤ 4095) ∧ (∀ i < 1024, t.getD i 0 ≤ t.getD (i + 1) 0) ∧ 32767 ≤ 32768 ∧ 32768 ≤ 32768 := by
  refine ⟨List.length_replicate, ?_, ?_, by decide, by decide⟩
  · intro v hv; rw [List.eq_of_mem_replicate hv]; decide
  · intro i hi
    rw [List.getD_replicate _ (by omega), List.getD_replicate _ (by omega)]
theorem witness_MessageRoundTrip :
    (kindCode (Body.fade 2000 0 5) = 2 ↔ 12 ≤ (12#4).toNat) ∧ (kindCode (Body.light 1005 15700) = 2 ↔ 12 ≤ (11#4).toNat) := by
  decide
/-- The picture five positions into a frame whose pixels all lie in the patch, in its ON phase. -/
def litFrame : State :=
  { picture with
    port := { picture.port with state := .active, joined := true }
    settings := { picture.settings with patchWidth := 2, patchHeight := 2 }
    line := { picture.line with running := true, firstDue := false, stamp := picture.line.startStamp + 5 }
    pix := { picture.pix with setup := some ⟨96, true, false, .live, 0, 4096, none⟩, output := List.replicate 1025 4095 } }
/-- R158: after a clash the pixels begun before it keep their codes, the last pixel is raw code 0, and so is every pixel of the
next frame. -/
theorem test_halt_mid_frame :
    let on : LinkItem := .pixel ⟨4095, 4095, 4095⟩
    let off : LinkItem := .pixel ⟨0, 0, 0⟩
    frameItems litFrame = [.frameMarker, .lineMarker 0, on, on, .lineMarker 1, on, on, .lineMarker 2] ∧
      gives (.stationClash (messageFrame ⟨2, .light 0 0⟩)) litFrame (fun t => frameItems t ==
        [.frameMarker, .lineMarker 0, on, on, .lineMarker 1, on, off, .lineMarker 2] && frameItems (haltedFrameStart 0 t) ==
        [.frameMarker, .lineMarker 0, off, off, .lineMarker 1, off, off, .lineMarker 2]) = true := by decide +kernel
/-- The clash in mid-frame: position 4 begins before it, and position 5 at it. -/
theorem witness_ClashHalts_midFrame :
    litFrame.faults.moment = [] ∧ takesFrames litFrame = true ∧
      (idSender (messageFrame ⟨2, .light 0 0⟩).identifier).toNat = litFrame.own ∧ litFrame.line.running = true ∧
      litFrame.line.firstDue = false ∧ litFrame.line.startFrac = ⟨0, 1⟩ ∧ litFrame.line.raster.f0 = 100000000 ∧
      litFrame.line.trim = 0 ∧ litFrame.line.raster.hTotal = 4 ∧
      stampDiff litFrame.line.stamp litFrame.line.startStamp = 5 := by decide +kernel
theorem witness_ClashHalts :
    let f := messageFrame ⟨4, .light 0 0⟩
    (sending 0).settled ∧ takesFrames (sending 0) = true ∧ f.extended = false ∧ f.remote = false ∧
      (idSender f.identifier).toNat = (sending 0).own := ⟨rfl, rfl, rfl, rfl, by decide⟩
theorem witness_RefusedFrames :
    let out := { dome with port := { dome.port with joined := false } }
    let s := { dome with settings := { dome.settings with roster := 0x7FF } }
    let f := messageFrame ⟨11, .light 0 0⟩
    out.settled ∧ takesFrames out = false ∧ s.settled ∧ takesFrames s = true ∧ clashes s.own ⟨false, false, 0x010, 0, []⟩ = false ∧
      frameMessage ⟨false, false, 0x010, 0, []⟩ = none ∧ clashes s.own f = false ∧
      frameMessage f = some ⟨11, .light 0 0⟩ ∧ (11#4).toNat < 12 ∧ isMember s.settings.roster 11 = false := by
  refine ⟨rfl, rfl, rfl, rfl, ?_, ?_, ?_, ?_, ?_, ?_⟩ <;> decide

theorem witness_PulseTaken : dome.settled ∧ takesFrames dome = true ∧ (1#4).toNat ≠ dome.own ∧
    isMember dome.settings.roster 1 = true ∧ dome.agr.peers.length = 12 ∧
    (dome.ctl.condition = .live ∧ dome.line.lock = .locked) ∧ after 1001 (dome.line.target.getD dome.line.frameNo) = true ∧
    after 1000 (dome.line.target.getD dome.line.frameNo) = false := by
  refine ⟨rfl, rfl, ?_, ?_, ?_, ⟨rfl, rfl⟩, ?_, ?_⟩ <;> decide
theorem witness_BoundsAndLevelsTaken :
    solving.settled ∧ takesFrames solving = true ∧ (7#4).toNat ≠ solving.own ∧ isMember solving.settings.roster 7 = true ∧
      solving.agr.peers.length = 12 ∧ (solving.agr.epochs.find? (fun r => r.frame.setWidth 16 == 5206#16)).isSome = true ∧
      solving.agr.epochs.find? (fun r => r.frame.setWidth 16 == 5207#16) = none ∧
      (station 5 .joining 2001 0b10).ctl.condition = .joining ∧
      isMember (station 5 .joining 2001 0b10).agr.live 1 = true ∧ (4096#16).toNat ≤ 4096 ∧ ¬ (4097#16).toNat ≤ 4096 ∧
      isMember (station 5 .joining 2001 0b10).agr.live 2 = false ∧ solving.ctl.condition = .live ∧
      (∀ f, (solving.agr.peer 7).factor = some f → f.source = .levels) ∧
      ¬ ∀ f, (some ⟨15000, .epoch⟩ : Option Factor) = some f → f.source = .levels := by
  refine ⟨rfl, rfl, ?_, ?_, ?_, ?_, ?_, rfl, ?_, ?_, ?_, ?_, rfl, ?_, ?_⟩ <;> decide
/-- Station 0 with a full list, of the frames 1005 to 1012. -/
def fullList : State := { dome with agr := { dome.agr with
  epochs := (List.range 8).map (fun k => ⟨BitVec.ofNat 32 (1005 + k), [], [⟨1, 15000⟩], [], none, .opened, false⟩) } }
/-- R40, R43: in a full list a change joins the first record behind its epoch, or the last, after a late one has been moved. -/
theorem test_full_list : gives (.receiveLight 2 1003 15700) fullList
      (fun t => (t.agr.epochs.map (fun r => r.lights.length)) == [2, 1, 1, 1, 1, 1, 1, 1] && lastFault t == some (8, 1005, 1) &&
        t.faults.pending.getLsbD 7) = true ∧
    gives (.receiveLight 2 1020 15700) fullList
      (fun t => (t.agr.epochs.map (fun r => r.lights.length)) == [1, 1, 1, 1, 1, 1, 1, 2] && lastFault t == some (8, 1012, 1)) =
        true := by decide +kernel
/-- The premises about the place of a change: a list that is not full, a full one with its epoch and without, an epoch that is
late and one that is not, and nothing pending about the station. -/
theorem witness_placedAt :
    dome.settled ∧ dome.agr.epochs.length < 8 ∧ 8 ≤ fullList.agr.epochs.length ∧ fullList.settled ∧
      takesFrames fullList = true ∧ (∀ x ∈ fullList.agr.epochs, ∀ y ∈ x.lights, y.station ≠ (2#4).toNat) ∧
      (∀ x ∈ fullList.agr.epochs, ∀ y ∈ x.states, y.subject ≠ (5#8).toNat) ∧ isMember fullList.agr.live 5 = false ∧
      (∃ x ∈ fullList.agr.epochs, x.frame = reEpoch fullList.line.frameNo 1007) ∧
      (∀ x ∈ fullList.agr.epochs, x.frame ≠ reEpoch fullList.line.frameNo 1003) ∧
      (∀ x ∈ fullList.agr.epochs, x.frame ≠ reEpoch fullList.line.frameNo 1020) ∧
      (fullList.agr.epochs.map (fun x => after x.frame 1004)).head? = some true ∧
      (∀ x ∈ fullList.agr.epochs, after x.frame 1020 = false) ∧
      notAfter 1003 (dome.line.frameNo + 3) = true ∧ notAfter 1004 (dome.line.frameNo + 3) = false := by
  refine ⟨rfl, ?_, ?_, rfl, rfl, ?_, ?_, ?_, ?_, ?_, ?_, ?_, ?_, ?_, ?_⟩ <;> decide +kernel
theorem witness_LightTaken : takesFrames dome = true ∧ (2#4).toNat < 12 ∧ (2#4).toNat ≠ dome.own ∧
    isMember dome.settings.roster 2 = true ∧ dome.agr.epochs.length < 8 := by
  refine ⟨rfl, ?_, ?_, ?_, ?_⟩ <;> decide
theorem witness_ChangeTaken :
    let s := { dome with settings := { dome.settings with roster := 0x0FF } }
    s.settled ∧ takesFrames s = true ∧ (5#4).toNat < 12 ∧ (5#4).toNat ≠ s.own ∧ isMember s.settings.roster 5 = true ∧
      isMember s.settings.roster (8#8).toNat = false ∧ isMember s.settings.roster (7#8).toNat = true ∧
      (7#8).toNat ≠ (5#4).toNat ∧ (5#8).toNat = (5#4).toNat ∧ isMember s.agr.live (5#8).toNat = false ∧
      isMember s.agr.live (2#8).toNat = true ∧ s.agr.epochs.length < 8 := by
  refine ⟨rfl, rfl, ?_, ?_, ?_, ?_, ?_, ?_, ?_, ?_, ?_, ?_⟩ <;> decide
theorem witness_ShowsTaken : dome.settled ∧ takesFrames dome = true ∧ 12 ≤ (12#4).toNat ∧ (12#4).toNat ≠ dome.own ∧
    dome.agr.peers.length = 12 ∧ 4096 < (4097#16).toNat ∧ (4096#16).toNat ≤ 4096 ∧ after 1001 dome.line.frameNo = true ∧
    after 1000 dome.line.frameNo = false ∧ ¬ ((1#8) = 0 ∨ (1#8).toNat < (1#8).toNat) := by
  refine ⟨rfl, rfl, ?_, ?_, ?_, ?_, ?_, ?_, ?_, ?_⟩ <;> decide
theorem witness_AttemptsBeginAndFail :
    let s := { sending 3 with port := { (sending 3).port with attempt := none } }
    let m : Message := ⟨4, .pulse .live true false 7100 0⟩
    let two := { sending 14 with port := { (sending 14).port with pulse := [m, m] } }
    let halted := { sending 15 with ctl := { (sending 15).ctl with condition := .halted } }
    s.settled ∧ s.working = true ∧ s.port.state = .active ∧ s.port.joined = true ∧ s.port.attempt = none ∧
      s.port.heads ≠ [] ∧ (sending 3).port.attempt ≠ none ∧ (sending 3).settled ∧ (sending 3).port.state = .active ∧
      (sending 14).settled ∧ (sending 14).working = true ∧ (sending 14).port.attempt = some m ∧
      (sending 14).port.displacedAtFailure m.body = false ∧ (sending 14).port.failures + 1 < 16 ∧
      (sending 15).port.attempt = some m ∧ (sending 15).port.displacedAtFailure m.body = false ∧
      (sending 15).port.failures + 1 = 16 ∧ two.port.attempt = some m ∧ 1 < two.port.pulse.length ∧ halted.settled ∧
      halted.working = false ∧ halted.port.attempt = some m := by
  refine ⟨rfl, rfl, rfl, rfl, rfl, ?_, ?_, rfl, rfl,
    rfl, rfl, rfl, ?_, ?_, rfl, ?_, ?_, rfl, ?_, rfl, rfl, rfl⟩ <;> decide
theorem witness_MessageCompletes :
    let m : Message := ⟨4, .pulse .live true false 7100 0⟩
    let halted := { sending 0 with ctl := { (sending 0).ctl with condition := .halted } }
    let own := { sending 0 with agr := { (sending 0).agr with epochs := [⟨7106, [], [⟨1, 15000⟩], [], none, .opened, true⟩] } }
    (sending 0).port.attempt = some m ∧ (sending 0).working = true ∧ (sending 0).own < (sending 0).agr.peers.length ∧
      (sending 0).settled ∧ isMember (sending 0).settings.roster (4#8).toNat = true ∧ (4#8).toNat = (sending 0).own ∧
      isMember (sending 0).agr.live 4 = true ∧ isMember (sending 0).agr.live 5 = false ∧
      (own.agr.epochs.find? (fun r => r.frame.setWidth 16 == 7106#16)).isSome = true ∧
      own.agr.epochs.find? (fun r => r.frame.setWidth 16 == 7107#16) = none ∧
      halted.port.attempt = some m ∧ halted.settled ∧ halted.working = false := by
  refine ⟨rfl, rfl, ?_, rfl, ?_, ?_, ?_, ?_, ?_, ?_, rfl, rfl, rfl⟩ <;> decide
theorem witness_LinkMoves :
    let training := fun (l : List Lane) => { linkIn .training with link := { (linkIn .training).link with lanes := l } }
    let s := training [synced 65536 8 1000, synced 70000 0 1064]
    let skewed := training [synced 65536 8 1000, synced 70000 0 1065]
    let short := training [synced 65536 8 1000, synced 65535 0 1064]
    let bad := training [synced 65536 8 1000, synced 65536 9 1064]
    let up := { opened 1 none with settings := { receiver.settings with inputTimeout := 20 } }
    (linkIn .down).settled ∧ (linkIn .down).working = true ∧ (linkIn .down).link.state = .down ∧
      (linkIn .settle).link.state = .settle ∧ s.link.state = .training ∧
      (∀ x ∈ s.link.lanes.take s.settings.laneCount, 65536 ≤ x.checked ∧ x.mismatched ≤ s.settings.trainingThreshold ∧
        (x.syncAt = some 1000 ∨ x.syncAt = some 1064)) ∧
      trainingFailure 8 skewed.usedLanes = some (3, 1) ∧ trainingFailure 8 short.usedLanes = some (1, 1) ∧
      trainingFailure 8 bad.usedLanes = some (2, 1) ∧ (linkIn .training).usedLanes.map (fun x => x.syncAt) = [none, none] ∧
      up.working = true ∧ 1 < up.settings.laneCount ∧ up.link.state = .up ∧ 0 < up.settings.inputTimeout ∧
      passedSlot up.link = some 2 ∧ 2 < up.store.slots.length ∧ (linkIn .training).link.state ≠ .up := by
  refine ⟨rfl, rfl, rfl, rfl, rfl, ?_, ?_, ?_, ?_, ?_, rfl, ?_, rfl, ?_, rfl, ?_, ?_⟩ <;> decide
/-- A decision that trainedWith with data held, and one whose lanes hold idle words alone. -/
theorem witness_LinkMoves_held :
    let seen := fun (s : State) => s.usedLanes.map (fun x => (x.syncAt, x.checked, x.mismatched, wholeWords x.held))
    (trainedWith startHeld).faults.moment = [] ∧ (trainedWith startHeld).working = true ∧ (trainedWith startHeld).link.state = .training ∧
      seen (trainedWith startHeld) = [(some 1000, 65536, 0, [0x1A5C, 0xE5A3]), (some 1040, 65536, 0, [])] ∧
      seen (trainedWith idleBits) = [(some 1000, 65536, 0, [0x1A5C]), (some 1040, 65536, 0, [])] ∧ isIdle 0x1A5C = true := by
  decide +kernel
/-- The receiver as lane 0 holds the first three bits of a word. -/
def holdingPart : State := { opened 1 none with link := { (opened 1 none).link with
  readers := { freshReader with part := [true, true, true] } :: List.replicate 3 freshReader } }
/-- Words that complete the part of one that a lane holds. -/
theorem witness_LinkMoves_completed :
    holdingPart.faults.moment = [] ∧ holdingPart.reads = true ∧ holdingPart.settings.laneCount = 2 ∧
      completeWord [true, true, true] 0x05A3 = syncWord := by
  decide +kernel
theorem witness_LaneTraining :
    let bits := predicted ++ syncBits
    let last := fun (k : Nat) => wordOfBits ((bits.take k).drop (k - 16)).reverse
    (linkIn .training).settled ∧ (linkIn .training).working = true ∧ (linkIn .training).link.state = .training ∧
      1 < (linkIn .training).settings.laneCount ∧ (∀ i < 6, (predicted.getD (i + 7) false) = (predicted.getD (i + 1) false != predicted.getD i false)) ∧
      bits.length = 29 ∧ (∀ k < 29, 16 ≤ k → 2 ≤ wordDistance (last k) syncWord) ∧
      wordDistance (last 29) syncWord ≤ 1 ∧ (0xE5A3#16).toNat % 2 ^ (16 - 3) = (0x05A3#16).toNat % 2 ^ (16 - 3) ∧
      wholeWords (exactSync ++ [true, true, true]) = [0xE5A3] ∧ restBits (exactSync ++ [true, true, true]) = [true, true, true] := by
  refine ⟨rfl, rfl, rfl, ?_, ?_, ?_, ?_, ?_, ?_, ?_, ?_⟩ <;> decide +kernel
theorem witness_FrameStartOpens :
    let ready : Slot := ⟨.ready, some 401, some 99⟩
    let full := { receiver with store := { receiver.store with slots := [⟨.showing, some 400, some 90⟩, ready, ready, ready] } }
    let slotless := { receiver with link := { receiver.link with openFrame := some ⟨402, none, 1, some 1⟩ } }
    receiver.reads = true ∧ receiver.lanesQuiet ∧ (1#8).toNat = receiver.settings.inFormat ∧
      (2#16).toNat = receiver.settings.inWidth ∧ (2#16).toNat = receiver.settings.inHeight ∧
      (2#8).toNat ≠ receiver.settings.inFormat ∧ receiver.settled ∧
      receiver.link.openFrame = none ∧ receiver.store.lowestFree = some 2 ∧ passedSlot slotless.link = none ∧
      full.store.lowestFree = none ∧ full.settings.overrun = 1 ∧ full.store.reference = some 400 ∧
      full.store.slot 1 = ready ∧ full.store.ordered = true ∧ contentKey 100 400 < -256 ∧ ¬(contentKey 402 400 < -256) ∧
      (opened 1 none).reads = true ∧
      (opened 1 none).lanesQuiet ∧ (opened 1 none).link.openFrame = some ⟨402, some 2, 1, none⟩ := by
  refine ⟨rfl, receiver_lanesQuiet, ?_, ?_, ?_, ?_, rfl, rfl, ?_, rfl, ?_, rfl, ?_, ?_, ?_, ?_, ?_, rfl,
    opened_lanesQuiet _ _, rfl⟩ <;> decide
theorem witness_LineWritten :
    let p := lineOf 1 [1, 2, 3, 255, 0, 64]
    let s := opened 1 none
    let slotless := { s with link := { s.link with openFrame := some ⟨402, none, 1, none⟩ } }
    s.settled ∧ s.reads = true ∧ s.lanesQuiet ∧ s.link.openFrame = some ⟨402, some 2, 1, none⟩ ∧
      memWf s.store.memory = true ∧ s.settings.inFormat = 1 ∧ p.length ≤ 65535 ∧
      p.length = lineLength s.settings.inFormat s.settings.inWidth ∧ lineCrcMatches p = true ∧ lineNumber p = 1 ∧
      1 < s.settings.inHeight ∧ (p.drop 1).length ≠ lineLength s.settings.inFormat s.settings.inWidth ∧
      lineCrcMatches (List.replicate 10 0) = false ∧ lineNumber (lineOf 0 [1, 2, 3, 255, 0, 64]) ≠ 1 ∧
      slotless.lanesQuiet ∧ (opened 1 (some 2)).link.openFrame = some ⟨402, some 2, 1, some 2⟩ := by
  refine ⟨rfl, rfl, opened_lanesQuiet _ _, rfl, rfl, rfl, ?_, ?_, ?_, ?_, ?_, ?_, ?_, ?_, receiver_lanesQuiet, rfl⟩ <;>
    decide +kernel
theorem witness_FrameEndHandsOver :
    let s := opened 2 none
    let slotless := { s with link := { s.link with openFrame := some ⟨402, none, 2, none⟩ } }
    s.settled ∧ s.reads = true ∧ s.lanesQuiet ∧ s.link.openFrame = some ⟨402, some 2, 2, none⟩ ∧
      (2#16).toNat = s.settings.inHeight ∧ s.store.ordered = true ∧ s.store.showingNumber = some 400 ∧
      0 < contentKey 402 400 ∧ contentKey 400 400 = 0 ∧ contentKey 100 400 < -256 ∧ (resetStore [] []).ordered = false ∧
      (opened 2 (some 2)).link.openFrame = some ⟨402, some 2, 2, some 2⟩ ∧ slotless.lanesQuiet ∧
      (1#16).toNat ≠ s.settings.inHeight := by
  refine ⟨rfl, rfl, opened_lanesQuiet _ _, rfl, ?_, ?_, ?_, ?_, ?_, ?_, ?_, rfl, receiver_lanesQuiet, ?_⟩ <;> decide
theorem test_content_restart : gives (.frameEndPacket heads [0, 2])
      { opened 2 none with
        link := { (opened 2 none).link with openFrame := some ⟨100, some 2, 2, none⟩ }
        store := { (opened 2 none).store with behind := 7 } }
    (fun t => lastFault t == some (35, 100, 1) && t.store.restartMark && t.store.slot 1 == freeSlot) = true := by
  decide +kernel
theorem witness_PacketsSkippedAndLost :
    receiver.settled ∧ receiver.reads = true ∧ receiver.lanesQuiet ∧ 4 ≤ (4#8).toNat ∧ (0#8).toNat = 0 ∧
      receiver.link.openFrame = none ∧ 1 < receiver.settings.laneCount ∧ startClass 0xE5A0 = .bad ∧
      seeking.settled ∧ seeking.reads = true ∧ seeking.settings.laneCount ≤ 4 ∧ seeking.link.lanes.length = 4 ∧
      seeking.link.readers.length = 4 ∧
      (∀ x ∈ seeking.usedReaders, x.words = [] ∧ x.mark = none ∧ x.seeking = true ∧ x.part = []) ∧ isIdle 0xE5A3 = false := by
  refine ⟨rfl, rfl, receiver_lanesQuiet, ?_, ?_, rfl, ?_, ?_, rfl, rfl, ?_, ?_, ?_, ?_, ?_⟩ <;> decide
theorem witness_LightCycles :
    let s := lamp 8007 2973 16020
    let ahead := { s with line := { s.line with frameNo := 8002 } }
    let dim := { s with settings := { s.settings with lamOut := 16300 }, light := { s.light with outCount := 3 } }
    s.settled ∧ s.working = true ∧ reached s.line 0 s.settings.patchLine = true ∧ s.line.frameNo.toNat % 8 = 7 ∧
      s.light.held = some ⟨2973, s.line.frameNo - 4⟩ ∧ (lamp 8003 0 0).line.frameNo.toNat % 8 = 3 ∧
      (lamp 8004 0 0).line.frameNo.toNat % 8 = 4 ∧
      s.settings.patchLine = 0 ∧ (nextFrameNo ahead.line).toNat % 8 = 3 ∧ dim.light.state = .lit ∧
      4 ≤ dim.light.outCount + 1 ∧ filterFactor true 16020 (measuredFactor 2973 40 3000) < dim.settings.lamOut ∧
      reached { s.line with raster := ⟨2, 2, 4, 3, 100000000⟩, nextStart := some 5 } 0 2 = false ∧
      (∀ h, (some ⟨2973, 7995⟩ : Option OnSample) = some h → h.frame ≠ s.line.frameNo - 4) := by
  refine ⟨rfl, rfl, rfl, ?_, ?_, ?_, ?_, rfl, ?_, rfl, ?_, ?_, ?_, ?_⟩ <;> decide +kernel
theorem witness_SaturatedCycle :
    let s := lamp 8007 4095 0
    s.settled ∧ s.working = true ∧ reached s.line 0 s.settings.patchLine = true ∧ s.line.frameNo.toNat % 8 = 7 ∧
      s.light.held = some ⟨4095, s.line.frameNo - 4⟩ := by
  refine ⟨rfl, rfl, rfl, ?_, ?_⟩ <;> decide +kernel
theorem test_light_out : gives (.lightSample 40 false)
      { lamp 8007 2973 16020 with
        settings := { (lamp 8007 0 0).settings with sCal := 3000, lamOut := 16300 }
        light := { (lamp 8007 2973 16020).light with outCount := 3 } }
    (fun t => t.light.state == .out && lastFault t == some (40, 16020, 1)) = true := by decide +kernel
theorem test_saturated_off : gives (.lightSample 4095 false) (lamp 8007 4094 16020)
    (fun t => lastFault t == some (39, 2, 1) && t.light.filtered == 16020) = true := by decide +kernel
theorem witness_MemoryErrors :
    let covered := { picture with settings := { picture.settings with patchWidth := 2, patchHeight := 2 } }
    let shown : Setup := ⟨100, false, false, .live, 0, 4096, some 0⟩
    let known := { picture with store := { picture.store with errors := [pixelAddress 0 1 0], eccReported := true } }
    picture.settled ∧ picture.working = true ∧ picture.line.running = true ∧ picture.pix.setup = some shown ∧
      (1, 0) ∈ frameReads picture shown ∧ (0, 0) ∉ frameReads picture shown ∧ picture.store.eccReported = false ∧
      known.store.eccReported = true ∧ pixelAddress 0 1 0 ∈ known.store.errors ∧
      frameReads known shown = [] ++ (1, 0) :: [(1, 0), (1, 0), (1, 0)] ∧ readFails known shown (1, 0) = true ∧
      ∀ x < 2, ∀ y < 2, inPatch covered.settings x y = true := by
  refine ⟨rfl, rfl, rfl, rfl, ?_, ?_, rfl, rfl, ?_, ?_, ?_, ?_⟩ <;> decide +kernel
theorem witness_MaintenanceCommands : dome.settled ∧ [(0 : Byte)] ≠ [] ∧ (List.replicate 7 (0 : Byte)).length ≠ 8 ∧
    (List.replicate 9 (0 : Byte)).length ≠ 8 ∧ isSelector 11 = false ∧ isSelector 0 = false ∧
    (wholeWrite []).address = 0x46 ∧ (⟨0x47, [], false⟩ : I2cWrite).address ≠ 0x46 :=
  ⟨rfl, by decide, by decide, by decide, by decide, by decide, rfl, by decide⟩

end Sys2Proof.Tests
end

section
/-!
PROOFS. What the commands of the raster, the port, the light sensor and the pixel link leave unchanged.
-/
namespace Sys2Proof.Machine

/-! ## Frames of the commands that neither agree nor solve -/

/-- A jump changes the frame line unit and the fault unit alone (R94). -/
theorem jump_frame (e : Int) (s : State) : ∃ l x, jump e s = { s with line := l, faults := x } := ⟨_, _, rfl⟩

/-- A LISTEN completion changes the frame line unit and the fault unit alone (R89). -/
theorem listenStep_frame (m : Measurement) (s : State) : ∃ l x, listenStep m s = { s with line := l, faults := x } := by
  unfold listenStep
  split
  · split
    · exact jump_frame _ s
    · exact ⟨_, s.faults, rfl⟩
  · exact ⟨_, s.faults, rfl⟩

/-- A measured ALONE completion changes the frame line unit and the fault unit alone (R90). -/
theorem aloneStep_frame (span e : Int) (s : State) : ∃ l x, aloneStep span e s = { s with line := l, faults := x } := by
  unfold aloneStep
  split_ifs
  · exact ⟨_, s.faults, rfl⟩
  · exact ⟨_, _, rfl⟩
  · exact jump_frame e s
  · exact ⟨_, s.faults, rfl⟩

/-- A measured PULLING completion changes the frame line unit and the fault unit alone (R91). -/
theorem pullingStep_frame (e : Int) (s : State) : ∃ l x, pullingStep e s = { s with line := l, faults := x } := by
  unfold pullingStep
  split_ifs
  · exact ⟨_, _, rfl⟩
  · exact jump_frame e s
  · dsimp only
    split_ifs <;> exact ⟨_, s.faults, rfl⟩
  · exact ⟨_, s.faults, rfl⟩

/-- A measured LOCKED completion changes the frame line unit and the fault unit alone (R92). -/
theorem lockedStep_frame (e : Int) (s : State) : ∃ l x, lockedStep e s = { s with line := l, faults := x } := by
  unfold lockedStep
  dsimp only
  split_ifs
  · exact ⟨_, s.faults, rfl⟩
  · exact ⟨_, _, rfl⟩
  · exact ⟨_, s.faults, rfl⟩

/-- A FREE completion changes the frame line unit alone (R93). -/
theorem freeStep_frame (s : State) : ∃ l x, freeStep s = { s with line := l, faults := x } := by
  unfold freeStep
  split_ifs <;> exact ⟨_, s.faults, rfl⟩

/-- The lock state's action changes the frame line unit and the fault unit alone (R89 to R93). -/
theorem lockStep_frame (m : Measurement) (s : State) : ∃ l x, lockStep m s = { s with line := l, faults := x } := by
  unfold lockStep
  split
  · exact listenStep_frame m s
  · exact freeStep_frame s
  · split
    · exact aloneStep_frame _ _ s
    · exact ⟨_, s.faults, rfl⟩
  · split
    · exact pullingStep_frame _ s
    · exact ⟨_, s.faults, rfl⟩
  · split
    · exact lockedStep_frame _ s
    · exact ⟨_, s.faults, rfl⟩

/-- A window completion changes the frame line unit and the fault unit alone (R85 to R93). -/
theorem completeWindow_frame (s : State) : ∃ l x, completeWindow s = { s with line := l, faults := x } := by
  have key : ∀ (r : Measurement × Nat) (l : FrameLine), ∃ l' x,
      (if r.1.cls = .lineFault then report .frameLine .lineStuck r.2 ((s.withLine l).withLine (moveLock .free l))
       else lockStep r.1 (s.withLine l)) = { s with line := l', faults := x } := by
    intro r l
    split
    · exact ⟨_, _, rfl⟩
    · exact lockStep_frame r.1 (s.withLine l)
  exact key _ _

/-- Count adoption changes the frame line unit alone (R98). -/
theorem considerCount_frame (p : PulseInfo) (s : State) : ∃ l, considerCount p s = { s with line := l } := by
  unfold considerCount
  split
  · exact ⟨_, rfl⟩
  · exact ⟨s.line, rfl⟩

/-- The further notice of a PULSE to the frame line unit changes that unit alone (R98, R112). -/
theorem offerCount_frame (b : Body) (s : State) : ∃ l, offerCount b s = { s with line := l } := by
  cases b with
  | pulse condition driving heldValid frame held => exact considerCount_frame _ s
  | _ => exact ⟨s.line, rfl⟩

/-- A failed attempt changes the port and the fault unit alone (R107, R108, R114). -/
theorem failAttempt_frame (m : Message) (s : State) : ∃ p x, failAttempt m s = { s with port := p, faults := x } := by
  have key : ∀ (c : Bool) (q : Port) (d : Nat), ∃ p x,
      (let t := reportIf c .port .pulseSkipped (pulseDetail m) (s.withPort q)
       if 16 ≤ q.failures then
         report .port .portOff d (t.withPort { t.port with state := .off, joined := false, failures := 16, offCount := 0 })
       else t) = { s with port := p, faults := x } := by
    intro c q d
    dsimp only
    split
    · cases c <;> exact ⟨_, _, rfl⟩
    · exact ⟨q, reportIf_frame c _ _ _ (s.withPort q)⟩
  exact key _ _ _

/-- The failed attempt of a halted station changes the port and the fault unit alone (R107, R117). -/
theorem failHaltedAttempt_frame (m : Message) (s : State) :
    ∃ p x, failHaltedAttempt m s = { s with port := p, faults := x } := by
  obtain ⟨x, hx⟩ := reportIf_frame (decide (16 ≤ s.port.failures + 1)) .port .portOff (identifier m).toNat
    (endHaltedAttempt (min 16 (s.port.failures + 1)) s)
  exact ⟨_, x, hx⟩

/-- A light sample changes the light monitor and the fault unit alone (R164 to R169). -/
theorem takeSample_frame (v : Nat) (n : FrameNo) (s : State) :
    ∃ w x, takeSample v n s = { s with light := w, faults := x } := by
  unfold takeSample formCycle validCycle
  dsimp only
  split_ifs
  · exact ⟨_, s.faults, rfl⟩
  · split
    · split_ifs
      · exact ⟨_, _, rfl⟩
      · exact ⟨_, s.faults, rfl⟩
      · exact ⟨_, _, rfl⟩
      · exact ⟨_, s.faults, rfl⟩
    · exact ⟨s.light, s.faults, rfl⟩
  · exact ⟨s.light, s.faults, rfl⟩

/-- A MEMORY_ECC report changes the frame store and the fault unit alone (R149). -/
theorem eccReport_frame (s : State) : ∃ y x, eccReport s = { s with store := y, faults := x } := by
  unfold eccReport
  split
  · exact ⟨_, _, rfl⟩
  · exact ⟨s.store, s.faults, rfl⟩

/-- What the send event queues changes the port and the fault unit alone (R59, R83). -/
theorem queuePeriodic_frame (s : State) : ∃ p x, queuePeriodic s = { s with port := p, faults := x } := by
  obtain ⟨p, x, h⟩ := enqueue_frame (pulseBody s) s
  unfold queuePeriodic
  dsimp only
  split
  · obtain ⟨q, z, hq⟩ := enqueue_frame (levelsBody s) (enqueue (pulseBody s) s)
    exact ⟨q, z, by rw [hq, h]⟩
  · exact ⟨p, x, h⟩

/-! ## Frames of the link receiver -/

/-- The state `t` differs from `s` in the link receiver, the frame store and the fault unit alone. -/
def LinkAlone (s t : State) : Prop := ∃ l y x, t = { s with link := l, store := y, faults := x }

theorem LinkAlone.refl (s : State) : LinkAlone s s := ⟨s.link, s.store, s.faults, rfl⟩

theorem LinkAlone.trans {s t u : State} (h : LinkAlone s t) (k : LinkAlone t u) : LinkAlone s u := by
  obtain ⟨l, y, x, rfl⟩ := h
  obtain ⟨l', y', x', rfl⟩ := k
  exact ⟨l', y', x', rfl⟩

theorem KeepsLanes.linkAlone {s t : State} (h : KeepsLanes s t) : LinkAlone s t := by
  obtain ⟨l, y, x, ht, -, -⟩ := h
  exact ⟨l, y, x, ht⟩

theorem takeReports_linkAlone (s : State) : LinkAlone s (takeReports s) := ⟨s.link, s.store, _, takeReports_eq s⟩

theorem losePacket_linkAlone (k : FaultKind) (d : Nat) (s : State) : LinkAlone s (losePacket k d s) :=
  ⟨_, s.store, _, rfl⟩

theorem readWord_linkAlone (i : Nat) (s : State) : LinkAlone s (readWord i s) := by
  obtain ⟨x, hx⟩ := reportIf_frame _ .link .laneCorrected i (onReaders (fun j x => if j = i then x.readWord else x) s)
  exact ⟨_, s.store, x, hx⟩

/-- A packet of any kind and length changes the link receiver, the frame store and the fault unit alone (R127). -/
theorem readPacket_linkAlone (p : Packet) (s : State) : LinkAlone s (readPacket p s) := by
  by_cases h1 : p.kind = 1 → p.payload.length = 7
  · by_cases h3 : p.kind = 3 → p.payload.length = 2
    · exact (readPacket_keepsLanes h1 h3 s).linkAlone
    · obtain ⟨hk, hl⟩ := Classical.not_imp.1 h3
      unfold readPacket
      rw [hk, if_neg (by decide), if_neg (by decide), if_pos rfl]
      unfold readFrameEnd
      split
      · rename_i h; exact absurd (by rw [h]; rfl) hl
      · exact losePacket_linkAlone _ _ s
  · obtain ⟨hk, hl⟩ := Classical.not_imp.1 h1
    unfold readPacket
    rw [if_pos hk]
    unfold readFrameStart
    split
    · rename_i h; exact absurd (by rw [h]; rfl) hl
    · exact losePacket_linkAlone _ _ s

/-- Reading the lanes on changes the link receiver, the frame store and the fault unit alone (R125 to R127). -/
theorem readLanes_linkAlone (n : Nat) (s : State) : LinkAlone s (readLanes n s) := by
  induction n generalizing s with
  | zero => exact .refl s
  | succ n ih =>
    unfold readLanes
    split
    · exact .refl s
    · exact ((readWord_linkAlone _ s).trans (takeReports_linkAlone _)).trans (ih _)
    · exact ((losePacket_linkAlone _ _ s).trans (takeReports_linkAlone _)).trans (ih _)
    · exact ((losePacket_linkAlone _ _ s).trans (takeReports_linkAlone _)).trans (ih _)
    · have hr : ∀ f, LinkAlone s (onReaders f s) := fun f => ⟨_, s.store, s.faults, rfl⟩
      exact (((hr _).trans (readPacket_linkAlone _ _)).trans (takeReports_linkAlone _)).trans (ih _)

/-- Words brought to the lanes change the link receiver, the frame store and the fault unit alone (R125, R126). -/
theorem takeWords_linkAlone (words : List (List LaneWord)) (s : State) : LinkAlone s (takeWords words s) := by
  unfold takeWords
  split
  · have hb : LinkAlone s (onReaders (fun i x => x.bring (words.getD i [])) s) := ⟨_, s.store, s.faults, rfl⟩
    exact hb.trans (readLanes_linkAlone _ _)
  · exact .refl s

/-- The link coming UP changes the link receiver, the frame store and the fault unit alone (R123). -/
theorem linkUp_linkAlone (s : State) : LinkAlone s (linkUp s) := by
  unfold linkUp
  refine LinkAlone.trans ?_ (readLanes_linkAlone _ _)
  exact ⟨_, s.store, s.faults, rfl⟩

/-- Bits received in TRAINING change the link receiver alone (R122, R123). -/
theorem receiveBits_linkAlone (r : List (List Bool)) (s : State) : LinkAlone s (receiveBits r s) := by
  unfold receiveBits
  split
  · exact ⟨_, s.store, s.faults, rfl⟩
  · exact .refl s

theorem leaveUp_linkAlone (s : State) : LinkAlone s (leaveUp s) := leaveUp_frame s

end Sys2Proof.Machine
end

section
/-!
PROOFS. What each command can do to the agreement unit and the solver, said once for every command.
-/
namespace Sys2Proof.Machine

/-! ## What a command can do to the agreement unit and the solver -/

/-- What a command makes of the agreement unit and the solver of `s`: it keeps both, halts the solver (R78), resets both (R183),
resets the agreement unit as the station enters JOINING (R24), takes a message (R112, R116), begins a frame (R80), or completes
the running pass (R69, R72). -/
inductive CoreMove (s : State) : Agreement → Solver → Prop where
  | kept : CoreMove s s.agr s.sol
  | halted : CoreMove s s.agr (haltSolver s.sol)
  | reset (own : Nat) : CoreMove s (resetAgreement own) resetSolver
  | joined : CoreMove s (resetAgreement s.own) s.sol
  | message (sender : Nat) (b : Body) (u : State) (ps qs : List PeerRecord) (agr : u.agr = { s.agr with peers := ps })
      (sol : u.sol = s.sol) : CoreMove s { (takeBody sender b u).agr with peers := qs } (takeBody sender b u).sol
  | frame (first : Stamp) : CoreMove s (workingFrameStart first s).agr (workingFrameStart first s).sol
  | boundsPass (p : Pass) (running : s.sol.running = some p) :
      CoreMove s (startJobs (completeBounds p s)).agr (startJobs (completeBounds p s)).sol
  | coeffPass (p : Pass) (running : s.sol.running = some p) :
      CoreMove s (startJobs (completeCoeff p s)).agr (startJobs (completeCoeff p s)).sol

/-- The command's effect `u` makes of the agreement unit and the solver of `s` one of the moves of `CoreMove`. -/
def MovesCore (s u : State) : Prop := CoreMove s u.agr u.sol

theorem MovesCore.of_kept {s u : State} (ha : u.agr = s.agr) (hs : u.sol = s.sol) : MovesCore s u := by
  unfold MovesCore
  rw [ha, hs]
  exact .kept

theorem MovesCore.refl (s : State) : MovesCore s s := CoreMove.kept

theorem LinkAlone.movesCore {s u : State} (h : LinkAlone s u) : MovesCore s u := by
  obtain ⟨l, y, x, rfl⟩ := h
  exact CoreMove.kept

/-- A failed load halts the solver and leaves the agreement unit (R32, R78, R182). -/
theorem failLoad_movesCore {s u : State} (ha : u.agr = s.agr) (hs : u.sol = s.sol) (code : Nat) :
    MovesCore s (failLoad code u) := by
  have : CoreMove s u.agr (haltSolver u.sol) := by rw [ha, hs]; exact .halted
  exact this

theorem failLoadIf_movesCore {s u : State} (ha : u.agr = s.agr) (hs : u.sol = s.sol) (code : Option Nat) :
    MovesCore s (failLoadIf code u) := by
  cases code with
  | none => exact .of_kept ha hs
  | some c => exact failLoad_movesCore ha hs c

/-- A conditional effect is that of the branch taken. -/
theorem MovesCore.ite {s u v : State} {c : Prop} [Decidable c] (hu : c → MovesCore s u) (hv : ¬c → MovesCore s v) :
    MovesCore s (if c then u else v) := by
  split
  · exact hu ‹_›
  · exact hv ‹_›

/-! ### The resets and the maintenance port -/

/-- A start with the reset values resets both blocks, also where the straps halt the station (R173, R183). -/
theorem strapCheck_movesCore (s : State) (straps : BitVec 4) (stamp : Stamp) (low : Bool) (memory : List (Nat × Rgb))
    (errors : List Nat) (faults : FaultUnit) (queue : List Instr) :
    MovesCore s (strapCheck (startValues straps stamp low memory errors faults queue)) := by
  unfold strapCheck
  exact .ite (fun _ => CoreMove.reset straps.toNat) (fun _ => CoreMove.reset straps.toNat)

theorem selectorEffect_movesCore (x : Selector) (w : I2cWrite) (straps : BitVec 4) (s : State) :
    MovesCore s (selectorEffect x w straps s) := by
  cases x with
  | view n => exact .ite (fun _ => .of_kept rfl rfl) (fun _ => .refl s)
  | clearFaults => exact .ite (fun _ => .of_kept rfl rfl) (fun _ => .refl s)
  | restart => exact .ite (fun _ => strapCheck_movesCore s _ _ _ _ _ _ _) (fun _ => .refl s)
  | attnMask => exact .ite (fun _ => .of_kept rfl rfl) (fun _ => .refl s)

/-- A write of the maintenance port keeps both blocks unless it is a RESTART, which resets them (R189, R192). -/
theorem portWrite_movesCore (b : Byte) (w : I2cWrite) (straps : BitVec 4) (s : State) :
    MovesCore s (portWrite b w straps s) := by
  have note : ∀ acks u, MovesCore s u → MovesCore s (noteWrite acks w u) := fun acks u h => .ite (fun _ => h) (fun _ => h)
  unfold portWrite
  apply note
  split
  · exact selectorEffect_movesCore _ w straps s
  · exact .refl s

/-! ### The image loader -/

theorem execImageHeaderCheck_movesCore {pattern : BitVec 32} {version : BitVec 16} {bodyLength crc : BitVec 32}
    {imageId : BitVec 16} {s t : State} (h : execImageHeaderCheck pattern version bodyLength crc imageId s = .next t) :
    ∃ u, MovesCore s u ∧ takeReports u = t := by
  refine ⟨_, ?_, finish_eq_next.1 h⟩
  refine .ite (fun _ => ?_) (fun _ => .refl s)
  dsimp only
  split
  · exact failLoad_movesCore (by rfl) (by rfl) _
  · exact .of_kept rfl rfl

theorem execSectionHeadCheck_movesCore {code : BitVec 8} {length : BitVec 24} {s t : State}
    (h : execSectionHeadCheck code length s = .next t) : ∃ u, MovesCore s u ∧ takeReports u = t := by
  refine ⟨_, ?_, finish_eq_next.1 h⟩
  refine .ite (fun _ => ?_) (fun _ => .refl s)
  dsimp only
  split
  · exact failLoad_movesCore (by rfl) (by rfl) _
  · exact .of_kept rfl rfl

theorem execSettingsSectionEnd_movesCore {es : List (BitVec 8 × BitVec 32)} {s t : State}
    (h : execSettingsSectionEnd es s = .next t) : ∃ u, MovesCore s u ∧ takeReports u = t := by
  refine ⟨_, ?_, finish_eq_next.1 h⟩
  refine .ite (fun _ => ?_) (fun _ => .refl s)
  dsimp only
  split
  · exact failLoad_movesCore (by rfl) (by rfl) _
  · obtain ⟨x, hx⟩ := foldl_faults (fun t c => report .loader .imageClamp c t) (fun _ _ => ⟨_, rfl⟩) (clampCodes es) _
    rw [hx]
    exact .of_kept rfl rfl

theorem execTableEntryCheck_movesCore {entry : BitVec 16} {s t : State} (h : execTableEntryCheck entry s = .next t) :
    ∃ u, MovesCore s u ∧ takeReports u = t := by
  refine ⟨_, ?_, finish_eq_next.1 h⟩
  refine .ite (fun _ => ?_) (fun _ => .refl s)
  dsimp only
  split
  · exact failLoad_movesCore (by rfl) (by rfl) _
  · exact .of_kept rfl rfl

theorem execGridRecordCheck_movesCore {share : BitVec 16} {white black : BitVec 24} {count : BitVec 8}
    {cs : List ContributorBytes} {s t : State} (h : execGridRecordCheck share white black count cs s = .next t) :
    ∃ u, MovesCore s u ∧ takeReports u = t := by
  refine ⟨_, ?_, finish_eq_next.1 h⟩
  refine .ite (fun _ => ?_) (fun _ => .refl s)
  split
  · exact failLoad_movesCore (by rfl) (by rfl) _
  · exact failLoadIf_movesCore (by rfl) (by rfl) _

theorem execLoadComplete_movesCore {s t : State} (h : execLoadComplete s = .next t) :
    ∃ u, MovesCore s u ∧ takeReports u = t := by
  refine ⟨_, ?_, finish_eq_next.1 h⟩
  refine .ite (fun _ => ?_) (fun _ => .refl s)
  split
  · exact .ite (fun _ => CoreMove.joined) (fun _ => failLoad_movesCore rfl rfl _)
  · exact .refl s

/-! ### The bus -/

/-- A frame received keeps both blocks, halts the solver by a clash (R31), or brings a message (R112). -/
theorem receiveFrame_movesCore (f : BusFrame) (s : State) : MovesCore s (receiveFrame f s) := by
  unfold receiveFrame
  refine .ite (fun _ => .refl s) (fun _ => .ite (fun _ => CoreMove.halted) (fun _ => ?_))
  split
  · exact .of_kept rfl rfl
  · rename_i m _
    refine .ite (fun _ => .of_kept rfl rfl) (fun _ => ?_)
    obtain ⟨l, hl⟩ := offerCount_frame m.body (takeBody m.sender.toNat m.body (setHeard m.sender.toNat s))
    unfold acceptMessage
    rw [hl]
    exact CoreMove.message m.sender.toNat m.body (setHeard m.sender.toNat s) _ _ rfl rfl

/-- The notices of an own completion change the peer table, the controller and the light monitor alone (R116). -/
theorem ownNotice_frame (b : Body) (s : State) :
    ∃ ps k w, ownNotice b s = { s with agr := { s.agr with peers := ps }, ctl := k, light := w } := by
  cases b with
  | pulse condition driving heldValid frame held => exact ⟨_, _, s.light, rfl⟩
  | light epoch lam => exact ⟨s.agr.peers, s.ctl, _, rfl⟩
  | _ => exact ⟨s.agr.peers, s.ctl, s.light, rfl⟩

/-- The completion of an own message hands it to the agreement unit of a working station (R116, R117). -/
theorem execMessageComplete_movesCore {s t : State} (h : execMessageComplete s = .next t) :
    ∃ u, MovesCore s u ∧ takeReports u = t := by
  refine ⟨_, ?_, finish_eq_next.1 h⟩
  split
  · exact .refl s
  · rename_i m _
    refine .ite (fun _ => ?_) (fun _ => .of_kept rfl rfl)
    obtain ⟨ps, k, w, hn⟩ := ownNotice_frame m.body (takeBody s.own m.body (s.withPort (completedPort s.port m.body)))
    rw [hn]
    exact CoreMove.message s.own m.body (s.withPort (completedPort s.port m.body)) s.agr.peers ps rfl rfl

/-! ### Every command -/

/-- The frame of a command that changes the frame line unit and the fault unit alone. -/
theorem MovesCore.of_line {s u : State} (h : ∃ l x, u = { s with line := l, faults := x }) : MovesCore s u := by
  obtain ⟨l, x, rfl⟩ := h
  exact CoreMove.kept

/-- The frame of a command that changes the port and the fault unit alone. -/
theorem MovesCore.of_port {s u : State} (h : ∃ p x, u = { s with port := p, faults := x }) : MovesCore s u := by
  obtain ⟨p, x, rfl⟩ := h
  exact CoreMove.kept

/-- Every command makes of the agreement unit and the solver one of the moves of `CoreMove`. -/
theorem exec_movesCore {c : Instr} {s t : State} (h : exec c s = .next t) : ∃ u, MovesCore s u ∧ takeReports u = t := by
  cases c with
  | powerOnReset straps => exact ⟨_, strapCheck_movesCore s _ _ _ _ _ _ _, finish_eq_next.1 h⟩
  | warmReset straps => exact ⟨_, strapCheck_movesCore s _ _ _ _ _ _ _, finish_eq_next.1 h⟩
  | imageHeaderCheck pattern version bodyLength crc imageId => exact execImageHeaderCheck_movesCore h
  | sectionHeadCheck code length => exact execSectionHeadCheck_movesCore h
  | settingsSectionEnd entries => exact execSettingsSectionEnd_movesCore h
  | tableEntryCheck entry => exact execTableEntryCheck_movesCore h
  | gridRecordCheck share white black count contributors => exact execGridRecordCheck_movesCore h
  | loadComplete => exact execLoadComplete_movesCore h
  | frameStart first =>
    refine ⟨_, ?_, finish_eq_next.1 h⟩
    exact .ite (fun _ => .refl s) (fun _ => .ite (fun _ => CoreMove.frame first)
      (fun _ => .ite (fun _ => .of_kept rfl rfl) (fun _ => .refl s)))
  | frameLineRelease =>
    refine ⟨_, ?_, finish_eq_next.1 h⟩
    exact .ite (fun _ => .of_kept (State.withLine_agr s _) (State.withLine_sol s _)) (fun _ => .refl s)
  | frameLineEdge falling stamp =>
    refine ⟨_, ?_, finish_eq_next.1 h⟩
    exact .of_kept rfl rfl
  | boundsPassComplete =>
    refine ⟨_, ?_, finish_eq_next.1 h⟩
    split
    · exact .ite (fun _ => CoreMove.boundsPass _ ‹_›) (fun _ => .refl s)
    · exact .refl s
  | coeffPassComplete =>
    refine ⟨_, ?_, finish_eq_next.1 h⟩
    split
    · exact .ite (fun _ => CoreMove.coeffPass _ ‹_›) (fun _ => .refl s)
    · exact .refl s
  | sendEvent =>
    refine ⟨_, ?_, finish_eq_next.1 h⟩
    refine .ite (fun _ => .ite (fun _ => ?_) (fun _ => .of_kept rfl rfl)) (fun _ => .refl s)
    obtain ⟨p, x, hq⟩ := queuePeriodic_frame (s.withLine { s.line with
      stamp := s.line.startStamp + BitVec.ofNat 32 (s.tf / 8), sendPending := false })
    rw [hq]
    exact .of_kept rfl rfl
  | windowCompletion =>
    exact ⟨_, .ite (fun _ => .of_line (completeWindow_frame s)) (fun _ => .refl s), finish_eq_next.1 h⟩
  | busIdleJoin =>
    refine ⟨_, ?_, finish_eq_next.1 h⟩
    exact .ite (fun _ => .of_kept rfl rfl) (fun _ => .refl s)
  | beginAttempt =>
    refine ⟨_, ?_, finish_eq_next.1 h⟩
    exact .ite (fun _ => .of_kept rfl rfl) (fun _ => .refl s)
  | lostArbitration =>
    refine ⟨_, ?_, finish_eq_next.1 h⟩
    split
    · exact .refl s
    · exact .ite (fun _ => .of_kept rfl rfl) (fun _ => .of_kept rfl rfl)
  | attemptFailed =>
    refine ⟨_, ?_, finish_eq_next.1 h⟩
    split
    · exact .refl s
    · exact .ite (fun _ => .of_port (failAttempt_frame _ s)) (fun _ => .of_port (failHaltedAttempt_frame _ s))
  | messageComplete => exact execMessageComplete_movesCore h
  | stationClash frame => exact ⟨_, receiveFrame_movesCore _ s, finish_eq_next.1 h⟩
  | foreignMessage frame => exact ⟨_, receiveFrame_movesCore _ s, finish_eq_next.1 h⟩
  | receiveChange sender live reason subject epoch lam => exact ⟨_, receiveFrame_movesCore _ s, finish_eq_next.1 h⟩
  | receiveLight sender epoch lam => exact ⟨_, receiveFrame_movesCore _ s, finish_eq_next.1 h⟩
  | receivePulse sender condition driving heldValid frame held =>
    exact ⟨_, receiveFrame_movesCore _ s, finish_eq_next.1 h⟩
  | receiveBounds sender epochLow floor ceiling => exact ⟨_, receiveFrame_movesCore _ s, finish_eq_next.1 h⟩
  | receiveLevels sender lam mNow target remaining => exact ⟨_, receiveFrame_movesCore _ s, finish_eq_next.1 h⟩
  | showFade sender start target duration => exact ⟨_, receiveFrame_movesCore _ s, finish_eq_next.1 h⟩
  | showIdentify sender start mask period on => exact ⟨_, receiveFrame_movesCore _ s, finish_eq_next.1 h⟩
  | showIdentifyOff sender endFrame => exact ⟨_, receiveFrame_movesCore _ s, finish_eq_next.1 h⟩
  | lanesActive =>
    refine ⟨_, ?_, finish_eq_next.1 h⟩
    exact .ite (fun _ => .of_kept rfl rfl) (fun _ => .refl s)
  | laneActivityLost lane received =>
    refine ⟨_, .ite (fun _ => ?_) (fun _ => .refl s), finish_eq_next.1 h⟩
    dsimp only
    have hr : LinkAlone s ((receiveBits received s).withLink
        { (receiveBits received s).link with state := .down, settleTimer := none }) :=
      (receiveBits_linkAlone received s).trans ⟨_, _, _, rfl⟩
    split
    · exact .refl s
    · exact hr.movesCore
    · exact hr.movesCore
    · exact (leaveUp_linkAlone s).movesCore
  | settleExpiry =>
    refine ⟨_, ?_, finish_eq_next.1 h⟩
    exact .ite (fun _ => .of_kept rfl rfl) (fun _ => .refl s)
  | trainingDecision =>
    refine ⟨_, .ite (fun _ => ?_) (fun _ => .refl s), finish_eq_next.1 h⟩
    split
    · exact .of_kept rfl rfl
    · exact (linkUp_linkAlone s).movesCore
  | inputTimeout =>
    refine ⟨_, .ite (fun _ => ?_) (fun _ => .refl s), finish_eq_next.1 h⟩
    have hr : LinkAlone s (report .link .inputTimeout s.settings.inputTimeout s) := ⟨s.link, s.store, _, rfl⟩
    exact (hr.trans (leaveUp_linkAlone _)).movesCore
  | packetLost words => exact ⟨_, (takeWords_linkAlone _ s).movesCore, finish_eq_next.1 h⟩
  | laneSkew words => exact ⟨_, (takeWords_linkAlone _ s).movesCore, finish_eq_next.1 h⟩
  | frameStartPacket heads payload => exact ⟨_, (takeWords_linkAlone _ s).movesCore, finish_eq_next.1 h⟩
  | linePacket heads payload => exact ⟨_, (takeWords_linkAlone _ s).movesCore, finish_eq_next.1 h⟩
  | frameEndPacket heads payload => exact ⟨_, (takeWords_linkAlone _ s).movesCore, finish_eq_next.1 h⟩
  | otherPacket heads kind payload => exact ⟨_, (takeWords_linkAlone _ s).movesCore, finish_eq_next.1 h⟩
  | strayLinePacket heads frameEnd payload => exact ⟨_, (takeWords_linkAlone _ s).movesCore, finish_eq_next.1 h⟩
  | memoryEcc line column =>
    refine ⟨_, ?_, finish_eq_next.1 h⟩
    split
    · split
      · refine .ite (fun _ => ?_) (fun _ => .refl s)
        obtain ⟨y, x, he⟩ := eccReport_frame (s.withStore (s.store.withError (pixelAddress ‹Nat› line column)))
        rw [he]
        exact .of_kept rfl rfl
      · exact .refl s
    · exact .refl s
  | lightSample value ahead =>
    have sample : ∀ v n, MovesCore s (takeSample v n s) := by
      intro v n
      obtain ⟨w, x, hw⟩ := takeSample_frame v n s
      rw [hw]
      exact .of_kept rfl rfl
    exact ⟨_, .ite (fun _ => .ite (fun _ => sample _ _) (fun _ => .ite (fun _ => sample _ _) (fun _ => .refl s)))
      (fun _ => .refl s), finish_eq_next.1 h⟩
  | selectCondition write => exact ⟨_, portWrite_movesCore _ _ _ s, finish_eq_next.1 h⟩
  | selectInput write => exact ⟨_, portWrite_movesCore _ _ _ s, finish_eq_next.1 h⟩
  | selectStore write => exact ⟨_, portWrite_movesCore _ _ _ s, finish_eq_next.1 h⟩
  | selectLock write => exact ⟨_, portWrite_movesCore _ _ _ s, finish_eq_next.1 h⟩
  | selectPeers write => exact ⟨_, portWrite_movesCore _ _ _ s, finish_eq_next.1 h⟩
  | selectEpochs write => exact ⟨_, portWrite_movesCore _ _ _ s, finish_eq_next.1 h⟩
  | selectLevels write => exact ⟨_, portWrite_movesCore _ _ _ s, finish_eq_next.1 h⟩
  | selectFaults write => exact ⟨_, portWrite_movesCore _ _ _ s, finish_eq_next.1 h⟩
  | selectCounters write => exact ⟨_, portWrite_movesCore _ _ _ s, finish_eq_next.1 h⟩
  | selectImage write => exact ⟨_, portWrite_movesCore _ _ _ s, finish_eq_next.1 h⟩
  | clearFaults write => exact ⟨_, portWrite_movesCore _ _ _ s, finish_eq_next.1 h⟩
  | restart write straps => exact ⟨_, portWrite_movesCore _ _ _ s, finish_eq_next.1 h⟩
  | attnMask write => exact ⟨_, portWrite_movesCore _ _ _ s, finish_eq_next.1 h⟩
  | selectorRefused selector write => exact ⟨_, portWrite_movesCore _ _ _ s, finish_eq_next.1 h⟩
  | syncRecognised lane bits0 bits1 bits2 bits3 =>
    exact ⟨_, .ite (fun _ => (receiveBits_linkAlone _ s).movesCore) (fun _ => .refl s), finish_eq_next.1 h⟩
  | warpMeshEntryRead sx sy =>
    refine ⟨_, ?_, finish_eq_next.1 h⟩
    exact .ite (fun _ => .of_kept rfl rfl) (fun _ => .refl s)

/-- Every step keeps the agreement unit and the solver, as an idle step does, or makes one of the moves of `CoreMove`. -/
theorem step_coreMove {s t : State} (h : step s = .next t) : ∃ q, CoreMove { s with pending := q } t.agr t.sol := by
  unfold step at h
  split at h
  · cases h
    exact ⟨s.pending, .kept⟩
  · rename_i c rest _
    obtain ⟨u, hu, rfl⟩ := exec_movesCore h
    refine ⟨rest, ?_⟩
    rw [takeReports_agr, takeReports_sol]
    exact hu

end Sys2Proof.Machine
end

section
/-!
PROOFS. Every step keeps one bank ACTIVE and K + A in range (O7).
-/
namespace Sys2Proof.Machine

/-! ## The parts of a frame start that neither agree nor solve -/

@[simp] theorem endFrameReads_agr (s : State) : (endFrameReads s).agr = s.agr := by
  obtain ⟨b, x, h⟩ := endFrameReads_frame s
  rw [h]

@[simp] theorem endFrameReads_sol (s : State) : (endFrameReads s).sol = s.sol := by
  obtain ⟨b, x, h⟩ := endFrameReads_frame s
  rw [h]

@[simp] theorem rasterFrameStart_agr (first : Stamp) (s : State) : (rasterFrameStart first s).agr = s.agr := by
  obtain ⟨x, h⟩ := rasterFrameStart_frame first s
  rw [h]

@[simp] theorem rasterFrameStart_sol (first : Stamp) (s : State) : (rasterFrameStart first s).sol = s.sol := by
  obtain ⟨x, h⟩ := rasterFrameStart_frame first s
  rw [h]

/-- The counts of a frame start change the peer table of the agreement unit alone. -/
theorem frameCounts_agr (s : State) : ∃ ps, (frameCounts s).agr = { s.agr with peers := ps } := by
  obtain ⟨p, l, x, h⟩ := frameCounts_frame s
  exact ⟨_, by rw [h]⟩

@[simp] theorem frameCounts_sol (s : State) : (frameCounts s).sol = s.sol := by
  obtain ⟨p, l, x, h⟩ := frameCounts_frame s
  rw [h]

@[simp] theorem selectContent_agr (s : State) : (selectContent s).agr = s.agr := by
  obtain ⟨y, x, h⟩ := selectContent_frame s
  rw [h]

@[simp] theorem selectContent_sol (s : State) : (selectContent s).sol = s.sol := by
  obtain ⟨y, x, h⟩ := selectContent_frame s
  rw [h]

@[simp] theorem setupStep_agr (s : State) : (setupStep s).agr = s.agr := rfl

@[simp] theorem setupStep_sol (s : State) : (setupStep s).sol = s.sol := rfl

/-- Of the changes of a frame start only self-silence touches the agreement unit and the solver (R26 to R28, R36, R37, R171). -/
theorem frameChanges_core (s : State) : ∃ u, (∃ p w x, u = { s with port := p, light := w, faults := x }) ∧
    (frameChanges s).agr = (selfSilenceStep u).agr ∧ (frameChanges s).sol = (selfSilenceStep u).sol := by
  obtain ⟨p, w, x, h⟩ := announceStep_frame s
  have before : ∃ q z, (if (announceStep s).ctl.condition = .joining then announceStep s
      else peerSilenceStep (announceStep s)) = { s with port := q, light := w, faults := z } := by
    split
    · exact ⟨p, x, h⟩
    · obtain ⟨q, z, hq⟩ := peerSilenceStep_frame (announceStep s)
      exact ⟨q, z, by rw [hq, h]⟩
  obtain ⟨q, z, hu⟩ := before
  refine ⟨_, ⟨q, w, z, rfl⟩, ?_⟩
  unfold frameChanges
  dsimp only
  rw [hu]
  obtain ⟨p', w', x', hl⟩ := lightRequestStep_frame (selfSilenceStep { s with port := q, light := w, faults := z })
  rw [hl]
  exact ⟨rfl, rfl⟩

/-! ## The banks -/

/-- Soundness is said of the two banks alone. -/
theorem Solver.sound_of_banks {x y : Solver} (h0 : y.bank0 = x.bank0) (h1 : y.bank1 = x.bank1) (hx : x.sound) :
    y.sound := by
  unfold Solver.sound
  rw [h0, h1]
  exact hx

/-- The coefficients of the spare bank are in range. -/
theorem Solver.sound.spare_coeffs {x : Solver} (hx : x.sound) : ∀ c ∈ x.spare.coeffs, Coeff.sound c := by
  obtain ⟨-, h0, h1⟩ := hx
  unfold Solver.spare
  split
  · exact h1
  · exact h0

/-- A spare bank replaced by one that is not ACTIVE, with coefficients in range, keeps the banks sound (R73). -/
theorem Solver.sound.setSpare {x : Solver} (hx : x.sound) {b : Bank} (hb : b.status ≠ .active)
    (hc : ∀ c ∈ b.coeffs, Coeff.sound c) : (x.setSpare b).sound := by
  obtain ⟨one, h0, h1⟩ := hx
  unfold Solver.setSpare Solver.spareIsOne
  split
  · rename_i ha
    exact ⟨by simp_all, h0, hc⟩
  · rename_i ha
    exact ⟨by simp_all, hc, h1⟩

/-- A swap keeps the banks sound: the ACTIVE bank becomes the spare, and the spare the ACTIVE one (R73). -/
theorem Solver.sound.swap {x : Solver} (hx : x.sound) : x.swap.sound := by
  obtain ⟨-, h0, h1⟩ := hx
  unfold Solver.swap
  split
  · exact ⟨by simp, h0, h1⟩
  · exact ⟨by simp, h0, h1⟩

/-- An abandoned coefficient job empties the spare at most (R76). -/
theorem Solver.sound.abandon {x : Solver} (hx : x.sound) (n : FrameNo) : (x.abandon n).sound := by
  unfold Solver.abandon
  dsimp only
  split
  · exact Solver.sound.setSpare (by exact hx) (by simp [emptied]) hx.spare_coeffs
  · exact hx

/-- A coefficient job that arrives keeps the banks sound (R76). -/
theorem Solver.sound.queueCoeff {x : Solver} (hx : x.sound) (j : Job) : (x.queueCoeff j).sound := by
  unfold Solver.queueCoeff
  split
  · exact hx
  · rename_i n _
    split
    · exact hx
    · exact hx.abandon n

/-- A halt empties a spare that was being filled (R78). -/
theorem haltSolver_sound {x : Solver} (hx : x.sound) : (haltSolver x).sound := by
  unfold haltSolver
  dsimp only
  split
  · exact Solver.sound.setSpare (by exact hx) (by simp [emptied]) hx.spare_coeffs
  · exact hx

theorem resetSolver_sound : resetSolver.sound := ⟨by decide, by simp [resetSolver], by simp [resetSolver]⟩

/-- K and A of a node lie in the range of R17. -/
theorem nodeCoeff_sound (p : Pass) (own : Nat) (n : NodeRecord) : (nodeCoeff p own n).sound := by
  have capped : ∀ k a, min 32768 k + min (32768 - min 32768 k) a ≤ 32768 := fun k a => by omega
  unfold nodeCoeff Coeff.sound
  dsimp only
  split
  · exact capped _ _
  · exact Nat.zero_le _

/-! ## The banks through the solver's operations -/

/-- Jobs that are dropped leave the banks (R70). -/
theorem foldl_dropBoundsJob_sound {s : State} (h : s.sol.sound) (l : List EpochRecord) :
    (l.foldl (fun t r => dropBoundsJob r.frame t) s).sol.sound :=
  List.foldlRecOn (motive := fun (t : State) => t.sol.sound) l _ h (fun _ ht _ _ => ht)

theorem removePending_sound {s : State} (h : s.sol.sound) (c : Change) : (removePending c s).sol.sound :=
  foldl_dropBoundsJob_sound (s := s.withAgr { s.agr with
    epochs := (s.agr.epochs.filter (fun r => !removedFor c r)).map (withoutChange c) }) h _

@[simp] theorem placeChange_sol (c : Change) (n : FrameNo) (s : State) : (placeChange c n s).sol = s.sol := by
  obtain ⟨e, x, h⟩ := placeChange_frame c n s
  rw [h]

/-- A change taken leaves the banks (R40 to R43). -/
theorem takeChange_sound {s : State} (h : s.sol.sound) (c : Change) (n : FrameNo) : (takeChange c n s).sol.sound := by
  have hr : (reportIf (notAfter n (s.current + 3)) .agreement .lateChange (changeSubject c) s).sol.sound := by
    rw [reportIf_sol]
    exact h
  unfold takeChange
  dsimp only
  split
  · split
    · exact removePending_sound hr c
    · exact hr
  · rw [placeChange_sol]
    exact removePending_sound hr c

/-- A message taken leaves the banks (R112, R116). -/
theorem takeBody_sound {s : State} (h : s.sol.sound) (i : Nat) (b : Body) : (takeBody i b s).sol.sound := by
  cases b with
  | change live reason subject epoch lam =>
    unfold takeBody takeChangeMessage
    dsimp only
    split_ifs
    · exact h
    · exact h
    · exact takeChange_sound h _ _
    · exact takeChange_sound h _ _
  | light epoch lam => exact takeChange_sound h _ _
  | pulse condition driving heldValid frame held => exact h
  | bounds epochLow floor ceiling =>
    unfold takeBody takeBounds
    dsimp only
    split
    · exact h
    · split <;> exact h
  | levels lam mNow target remaining =>
    unfold takeBody takeLevels
    dsimp only
    split <;> exact h
  | fade start target duration =>
    unfold takeBody takeFade
    dsimp only
    split_ifs <;> exact h
  | identify start mask period on =>
    unfold takeBody takeIdentify
    dsimp only
    split_ifs <;> exact h
  | identifyOff endFrame => exact h

/-- The agreement unit's part of a bounds completion leaves the solver (R52). -/
@[simp] theorem takeBoundsResult_sol (n : FrameNo) (pair : Option LevelPair) (s : State) :
    (takeBoundsResult n pair s).sol = s.sol := by
  obtain ⟨e, p, x, h⟩ := takeBoundsResult_frame n pair s
  rw [h]

/-- The completion of a bounds pass leaves the solver idle, and nothing else of it changed (R69). -/
@[simp] theorem completeBounds_sol (p : Pass) (s : State) : (completeBounds p s).sol = { s.sol with running := none } := by
  simp [completeBounds]

/-- The completion of a coefficient pass fills the spare with coefficients in range (R71, R72). -/
theorem completeCoeff_sound {s : State} (h : s.sol.sound) (p : Pass) : (completeCoeff p s).sol.sound := by
  have filled : ∀ c ∈ s.pix.grid.map (nodeCoeff p s.own), Coeff.sound c := by
    intro c hc
    obtain ⟨n, -, rfl⟩ := List.mem_map.1 hc
    exact nodeCoeff_sound p s.own n
  unfold completeCoeff
  dsimp only
  rw [reportIf_sol]
  exact Solver.sound.setSpare (x := { s.sol with running := none }) h (b := ⟨_, _, .spareReady⟩) (by simp) filled

/-- A pass that starts keeps the banks sound (R71). -/
theorem startPass_sound {s : State} (h : s.sol.sound) (j : Job) : (startPass j s).sol.sound := by
  unfold startPass
  dsimp only
  split
  · exact Solver.sound.setSpare (by exact h) (by simp) h.spare_coeffs
  · exact h

/-- The solver's choices keep the banks sound (R66). -/
theorem chooseJobs_sound (n : Nat) {s : State} (h : s.sol.sound) : (chooseJobs n s).sol.sound := by
  induction n generalizing s with
  | zero => exact h
  | succ n ih =>
    unfold chooseJobs
    split
    · exact h
    · split
      · exact h
      · rename_i j _
        have started := startPass_sound h j
        dsimp only
        split
        · refine ih ?_
          rw [completeBounds_sol]
          exact started
        · exact started

theorem startJobs_sound {s : State} (h : s.sol.sound) : (startJobs s).sol.sound := chooseJobs_sound _ h

/-- The answer to a swap request keeps the banks sound (R74). -/
theorem answerSwap_sound {s : State} (h : s.sol.sound) (r : EpochRecord) : (answerSwap r s).sol.sound := by
  unfold answerSwap
  dsimp only
  split_ifs
  · exact h.swap
  · exact h
  · exact h

/-! ## The banks through a frame start -/

/-- The held late swap keeps the banks sound (R75). -/
theorem lateSwapStep_sound {s : State} (h : s.sol.sound) : (lateSwapStep s).sol.sound := by
  unfold lateSwapStep
  split
  · exact h
  · split
    · exact Solver.sound_of_banks (x := s.sol.swap) rfl rfl h.swap
    · exact h

/-- The state changes of a record leave the solver (R44). -/
@[simp] theorem foldl_applyState_sol (cs : List StateChange) (s : State) : (cs.foldl applyState s).sol = s.sol := by
  obtain ⟨ps, k, h⟩ := foldl_applyState_frame cs s
  rw [h]

/-- A record that takes effect keeps the banks sound (R44, R70, R74). -/
theorem applyRecord_sound {s : State} (h : s.sol.sound) (r : EpochRecord) : (applyRecord s r).sol.sound := by
  have lit : (applyLights r (r.states.foldl applyState s)).sol.sound := by
    show (r.states.foldl applyState s).sol.sound
    rw [foldl_applyState_sol]
    exact h
  exact answerSwap_sound lit r

theorem applyDue_sound {s : State} (h : s.sol.sound) (old : FrameNo) : (applyDue old s).sol.sound :=
  List.foldlRecOn (motive := fun (t : State) => t.sol.sound) _ _ h (fun _ ht r _ => applyRecord_sound ht r)

/-- Of the agreement part of a frame start only the late swap and the records due touch the solver. -/
theorem frameAgreement_sol (joining : Bool) (old : FrameNo) (s : State) :
    (frameAgreement joining old s).sol = (applyDue old (lateSwapStep (viewStep joining old s))).sol := by
  obtain ⟨v, ps, x, hr⟩ := foldl_repairPeer_frame (if joining then [] else repairDue s)
    (applyDue old (lateSwapStep (viewStep joining old s)))
  unfold frameAgreement
  dsimp only
  rw [hr]
  unfold showStep dwellStep lightSourceStep
  cases joining <;> simp only [Bool.false_eq_true, if_false, if_true] <;> split <;> rfl

theorem frameAgreement_sound {s : State} (h : s.sol.sound) (joining : Bool) (old : FrameNo) :
    (frameAgreement joining old s).sol.sound := by
  have viewed : (viewStep joining old s).sol.sound := by cases joining <;> exact h
  rw [frameAgreement_sol]
  exact applyDue_sound (lateSwapStep_sound viewed) old

theorem selfSilenceStep_sound {s : State} (h : s.sol.sound) : (selfSilenceStep s).sol.sound := by
  unfold selfSilenceStep
  split
  · exact takeChange_sound h _ _
  · exact h

theorem frameChanges_sound {s : State} (h : s.sol.sound) : (frameChanges s).sol.sound := by
  obtain ⟨u, ⟨p, w, x, rfl⟩, -, hs⟩ := frameChanges_core s
  rw [hs]
  exact selfSilenceStep_sound h

/-- A cut keeps the banks sound: it queues a coefficient job (R53, R76). -/
theorem cutRecord_sound {s : State} (h : s.sol.sound) (r : EpochRecord) : (cutRecord s r).sol.sound := by
  obtain ⟨x, hx⟩ := foldl_faults (fun u e => report .agreement .staleBound e.station u) (fun _ _ => ⟨_, rfl⟩)
    ((cutTable s.agr r).filter (fun e => !e.received && !(e.station == s.own))) s
  unfold cutRecord
  dsimp only
  rw [hx]
  simp only [State.withSol_sol, State.withAgr_sol, reportIf_sol]
  exact h.queueCoeff _

theorem frameJobs_sound {s : State} (h : s.sol.sound) : (frameJobs s).sol.sound :=
  startJobs_sound (List.foldlRecOn (motive := fun (t : State) => t.sol.sound) _ _ (b := queueBoundsJobs s) h
    (fun _ ht r _ => cutRecord_sound ht r))

theorem workingFrameStart_sound {s : State} (h : s.sol.sound) (first : Stamp) :
    (workingFrameStart first s).sol.sound := by
  have counted : (frameCounts (rasterFrameStart first (endFrameReads s))).sol.sound := by simpa using h
  unfold workingFrameStart
  simp only [setupStep_sol, selectContent_sol]
  exact frameJobs_sound (frameChanges_sound (frameAgreement_sound counted _ _))

/-! ## The banks through every step -/

/-- Each move of a command keeps one bank ACTIVE and the coefficients in range. -/
theorem CoreMove.keeps_sound {s : State} {a : Agreement} {x : Solver} (h : CoreMove s a x) (hs : s.sol.sound) :
    x.sound := by
  cases h with
  | kept => exact hs
  | halted => exact haltSolver_sound hs
  | reset own => exact resetSolver_sound
  | joined => exact hs
  | message sender b u ps qs agr sol => exact takeBody_sound (by rw [sol]; exact hs) sender b
  | frame first => exact workingFrameStart_sound hs first
  | boundsPass p running =>
    refine startJobs_sound ?_
    rw [completeBounds_sol]
    exact hs
  | coeffPass p running => exact startJobs_sound (completeCoeff_sound hs p)

/-- Settles O7: every command makes one of the moves of `CoreMove`, and each keeps the banks sound. -/
theorem banksStaySound : Obligations.BanksStaySound := by
  intro s t hs hstep
  obtain ⟨q, h⟩ := step_coreMove hstep
  exact h.keeps_sound hs

end Sys2Proof.Machine
end

section
/-!
PROOFS. Every step keeps the levels, the records and the fades in range (O6).
-/
namespace Sys2Proof.Machine

/-! ## Levels, records and fades in range -/

/-- The cut levels of a record have C at least F + 1 (R14). -/
def EpochRecord.levelsOpen (r : EpochRecord) : Prop := ∀ p ∈ r.levels, LevelPair.open p

/-- A list of at most 8 records whose cut levels all have C at least F + 1 (R14, R38). -/
def recordsSound (l : List EpochRecord) : Prop := (∀ r ∈ l, r.levelsOpen) ∧ l.length ≤ 8

/-- The levels, the pending epoch list and the fades are in range. -/
def Agreement.ranged (a : Agreement) : Prop := a.levelsSound ∧ a.fadeSound

theorem Agreement.ranged_iff (a : Agreement) : a.ranged ↔ a.levels.open ∧ recordsSound a.epochs ∧ a.fadeSound := by
  unfold Agreement.ranged Agreement.levelsSound recordsSound EpochRecord.levelsOpen
  tauto

theorem Agreement.ranged.records {a : Agreement} (h : a.ranged) : recordsSound a.epochs := ((ranged_iff a).1 h).2.1

/-- A sound list in the place of the pending epoch list. -/
theorem Agreement.ranged.withEpochs {a : Agreement} (h : a.ranged) {l : List EpochRecord} (hl : recordsSound l) :
    Agreement.ranged { a with epochs := l } := by
  obtain ⟨lv, -, fd⟩ := (ranged_iff a).1 h
  exact (ranged_iff _).2 ⟨lv, hl, fd⟩

theorem recordsSound.filter {l : List EpochRecord} (h : recordsSound l) (f : EpochRecord → Bool) :
    recordsSound (l.filter f) :=
  ⟨fun r hr => h.1 r (List.mem_of_mem_filter hr), (List.length_filter_le f l).trans h.2⟩

theorem recordsSound.map {l : List EpochRecord} (h : recordsSound l) {f : EpochRecord → EpochRecord}
    (hf : ∀ r, r.levelsOpen → (f r).levelsOpen) : recordsSound (l.map f) := by
  refine ⟨fun r hr => ?_, by rw [List.length_map]; exact h.2⟩
  obtain ⟨q, hq, rfl⟩ := List.mem_map.1 hr
  exact hf q (h.1 q hq)

/-- A change of the record of one epoch that leaves open levels open keeps the unit in range. -/
theorem Agreement.ranged.onRecord {a : Agreement} (h : a.ranged) (n : FrameNo) {f : EpochRecord → EpochRecord}
    (hf : ∀ r, r.levelsOpen → (f r).levelsOpen) : (a.onRecord n f).ranged := by
  refine h.withEpochs (h.records.map fun r hr => ?_)
  split
  · exact hf r hr
  · exact hr

/-- An insertion puts the record in, and every other record stays (R43). -/
theorem mem_insertRecord {r x : EpochRecord} {l : List EpochRecord} : x ∈ insertRecord r l ↔ x = r ∨ x ∈ l := by
  induction l with
  | nil => simp [insertRecord]
  | cons y rest ih =>
    unfold insertRecord
    split
    · simp
    · simp only [List.mem_cons, ih]
      tauto

theorem length_insertRecord (r : EpochRecord) (l : List EpochRecord) : (insertRecord r l).length = l.length + 1 := by
  induction l with
  | nil => rfl
  | cons y rest ih =>
    unfold insertRecord
    split
    · rfl
    · simp [ih]

/-! ## Changes and messages -/

theorem withoutChange_levelsOpen (c : Change) {r : EpochRecord} (h : r.levelsOpen) : (withoutChange c r).levelsOpen := by
  cases c <;> exact h

theorem joinChange_levelsOpen (c : Change) {r : EpochRecord} (h : r.levelsOpen) : (joinChange c r).levelsOpen := by
  cases c <;> exact h

theorem newRecord_levelsOpen (n : FrameNo) (c : Change) : (newRecord n c).levelsOpen :=
  joinChange_levelsOpen c (fun _ hp => nomatch hp)

/-- Replacement keeps the unit in range (R42). -/
theorem removePending_ranged {s : State} (h : s.agr.ranged) (c : Change) : (removePending c s).agr.ranged := by
  obtain ⟨y, hy⟩ := removePending_frame c s
  rw [hy]
  exact h.withEpochs ((h.records.filter _).map fun _ hr => withoutChange_levelsOpen c hr)

/-- Placing keeps the unit in range: it adds a record only to a list of fewer than 8 (R43). -/
theorem placeChange_ranged {s : State} (h : s.agr.ranged) (c : Change) (n : FrameNo) : (placeChange c n s).agr.ranged := by
  unfold placeChange
  split_ifs with found room
  · exact h.onRecord n (fun _ hr => joinChange_levelsOpen c hr)
  · refine h.withEpochs ⟨fun r hr => ?_, by rw [length_insertRecord]; omega⟩
    obtain rfl | hr := mem_insertRecord.1 hr
    · exact newRecord_levelsOpen n c
    · exact h.records.1 r hr
  · exact h.onRecord _ (fun _ hr => joinChange_levelsOpen c hr)

/-- A change taken keeps the unit in range (R40 to R43). -/
theorem takeChange_ranged {s : State} (h : s.agr.ranged) (c : Change) (n : FrameNo) : (takeChange c n s).agr.ranged := by
  have reported : (reportIf (notAfter n (s.current + 3)) .agreement .lateChange (changeSubject c) s).agr.ranged := by
    rw [reportIf_agr]
    exact h
  unfold takeChange
  dsimp only
  split_ifs
  · exact removePending_ranged reported c
  · exact reported
  · exact placeChange_ranged (removePending_ranged reported c) c _

/-- Bounds taken change the peer table and a record's bounds table alone (R54). -/
theorem takeBounds_ranged {s : State} (h : s.agr.ranged) (i : Nat) (b : LastBounds) : (takeBounds i b s).agr.ranged := by
  unfold takeBounds
  dsimp only
  split
  · exact h
  · split_ifs
    · exact h
    · exact Agreement.ranged.onRecord (a := s.agr.onPeer i _) h _ (fun _ hr => hr)

/-- An adopted state is in range, for only a LEVELS whose fade figures are at most 4096 is adopted (R61). -/
theorem takeLevels_ranged {s : State} (h : s.agr.ranged) (i : Nat) (x : LevelsInfo) : (takeLevels i x s).agr.ranged := by
  have adopted : adopts s i x = true → Fade.sound (adoptedFrom x) := by
    intro ha
    simp only [adopts, Bool.and_eq_true, decide_eq_true_eq] at ha
    obtain ⟨-, hm, ht⟩ := ha
    unfold adoptedFrom
    split
    · exact ⟨hm, hm⟩
    · exact ⟨hm, ht⟩
  obtain ⟨lv, rs, fade, -, pend⟩ := (Agreement.ranged_iff _).1 h
  unfold takeLevels
  dsimp only
  split_ifs with own ha
  · exact h
  · refine (Agreement.ranged_iff _).2 ⟨lv, rs, fade, ?_, pend⟩
    rintro f hf
    obtain rfl : adoptedFrom x = f := by simpa using hf
    exact adopted ha
  · exact h

/-- A pending fade has a target of at most 4096 (R57). -/
theorem takeFade_ranged {s : State} (h : s.agr.ranged) (start : FrameNo) (target duration : Nat) :
    (takeFade start target duration s).agr.ranged := by
  obtain ⟨lv, rs, fade, adopted, -⟩ := (Agreement.ranged_iff _).1 h
  have taken : ∀ n, target ≤ 4096 →
      Agreement.ranged { s.agr with pendingFade := some { start := n, target := target, duration := duration } } := by
    refine fun n ht => (Agreement.ranged_iff _).2 ⟨lv, rs, fade, adopted, ?_⟩
    rintro p hp
    obtain rfl : _ = p := by simpa using hp
    exact ht
  unfold takeFade
  split_ifs
  · exact h
  · exact taken _ (by omega)
  · exact taken _ (by omega)

/-- A message taken keeps the unit in range (R112, R116). -/
theorem takeBody_ranged {s : State} (h : s.agr.ranged) (i : Nat) (b : Body) : (takeBody i b s).agr.ranged := by
  cases b with
  | change live reason subject epoch lam =>
    unfold takeBody takeChangeMessage
    dsimp only
    split_ifs
    · exact h
    · exact h
    · exact takeChange_ranged h _ _
    · exact takeChange_ranged h _ _
  | light epoch lam => exact takeChange_ranged h _ _
  | pulse condition driving heldValid frame held => exact h
  | bounds epochLow floor ceiling => exact takeBounds_ranged h _ _
  | levels lam mNow target remaining => exact takeLevels_ranged h _ _
  | fade start target duration => exact takeFade_ranged h _ _ _
  | identify start mask period on =>
    unfold takeBody takeIdentify
    dsimp only
    split_ifs <;> exact h
  | identifyOff endFrame => exact h

/-! ## The solver's completions -/

/-- The pending epoch list once the bounds completion for `n` is taken: an OPEN record becomes BOUNDED (R52). -/
def Agreement.boundedAt (a : Agreement) (n : FrameNo) : Agreement :=
  match a.record n with
  | some r => if r.phase = .opened then a.onRecord n (fun x => { x with phase := .bounded }) else a
  | none => a

theorem takeBoundsResult_agr (n : FrameNo) (pair : Option LevelPair) (s : State) :
    (takeBoundsResult n pair s).agr = s.agr.boundedAt n := by
  unfold takeBoundsResult Agreement.boundedAt
  cases s.agr.record n with
  | none => rfl
  | some r =>
    cases pair with
    | none => dsimp only; split <;> rfl
    | some q =>
      obtain ⟨p, x, h⟩ := enqueue_frame (.bounds (n.setWidth 16) (BitVec.ofNat 24 q.floor) (BitVec.ofNat 24 q.ceiling)) s
      dsimp only
      rw [h]
      split <;> rfl

@[simp] theorem completeBounds_agr (p : Pass) (s : State) : (completeBounds p s).agr = s.agr.boundedAt p.job.epoch := by
  simp [completeBounds, takeBoundsResult_agr]

@[simp] theorem startPass_agr (j : Job) (s : State) : (startPass j s).agr = s.agr := by
  obtain ⟨y, h⟩ := startPass_frame j s
  rw [h]

theorem Agreement.ranged.boundedAt {a : Agreement} (h : a.ranged) (n : FrameNo) : (a.boundedAt n).ranged := by
  unfold Agreement.boundedAt
  split
  · split
    · exact h.onRecord n (fun _ hr => hr)
    · exact h
  · exact h

/-- The solver's choices change the pending epoch list by bounds completions alone (R66, R69): what they keep, the choices
keep. -/
theorem chooseJobs_agr {P : Agreement → Prop} (hP : ∀ a n, P a → P (a.boundedAt n)) (n : Nat) {s : State} (h : P s.agr) :
    P (chooseJobs n s).agr := by
  induction n generalizing s with
  | zero => exact h
  | succ n ih =>
    unfold chooseJobs
    split
    · exact h
    · split
      · exact h
      · rename_i j _
        have started : P (startPass j s).agr := by rw [startPass_agr]; exact h
        dsimp only
        split
        · refine ih ?_
          rw [completeBounds_agr]
          exact hP _ _ started
        · exact started

theorem startJobs_agr {P : Agreement → Prop} (hP : ∀ a n, P a → P (a.boundedAt n)) {s : State} (h : P s.agr) :
    P (startJobs s).agr := chooseJobs_agr hP _ h

theorem startJobs_ranged {s : State} (h : s.agr.ranged) : (startJobs s).agr.ranged :=
  startJobs_agr (fun _ n ha => ha.boundedAt n) h

@[simp] theorem completeCoeff_agr (p : Pass) (s : State) : (completeCoeff p s).agr =
    s.agr.onRecord p.job.epoch (fun r => if r.phase = .cut then { r with phase := .banked } else r) := by
  simp [completeCoeff]

theorem completeCoeff_ranged {s : State} (h : s.agr.ranged) (p : Pass) : (completeCoeff p s).agr.ranged := by
  rw [completeCoeff_agr]
  refine h.onRecord _ fun r hr => ?_
  split <;> exact hr

/-! ## Fades -/

/-- A rounded quotient is no larger than what is divided (00, rounding). -/
theorem roundDiv_le (n : Nat) {d : Nat} (hd : 0 < d) : roundDiv n d ≤ n := by
  unfold roundDiv
  refine Nat.le_of_lt_succ ((Nat.div_lt_iff_lt_mul (by omega)).2 ?_)
  nlinarith

/-- A fade step goes no further than its target (R56). -/
theorem fadeStep_sound {f : Fade} (h : f.sound) : (fadeStep f).sound := by
  obtain ⟨hm, ht⟩ := h
  unfold fadeStep
  split
  · rename_i hr
    refine ⟨?_, ht⟩
    show ((f.m : Int) + roundDivInt ((f.target : Int) - f.m) f.remaining).toNat ≤ 4096
    unfold roundDivInt
    split
    · have := roundDiv_le ((f.target : Int) - f.m).toNat hr
      omega
    · omega
  · exact ⟨hm, ht⟩

/-- A fade that starts is in range (R58). -/
theorem startFade_sound {m : Nat} (hm : m ≤ 4096) {p : PendingFade} (hp : p.target ≤ 4096) : (startFade m p).sound := by
  unfold startFade
  split
  · exact ⟨hm, hp⟩
  · exact ⟨hp, hp⟩

/-- Loading, starting and stepping the fade keeps it in range (R56, R58). -/
theorem fadeFrameStart_fadeSound {a : Agreement} (h : a.fadeSound) (old new : FrameNo) :
    (fadeFrameStart old new a).fadeSound := by
  obtain ⟨fade, adopted, pend⟩ := h
  have loaded : (a.adopted.getD a.fade).sound := by
    cases ha : a.adopted with
    | none => exact fade
    | some f => exact adopted f ha
  unfold fadeFrameStart
  dsimp only
  split
  · rename_i p hp
    split
    · exact ⟨fadeStep_sound (startFade_sound loaded.1 (pend p hp)), fun _ h => (nomatch h), fun _ h => (nomatch h)⟩
    · exact ⟨fadeStep_sound loaded, fun _ h => (nomatch h), pend⟩
  · exact ⟨fadeStep_sound loaded, fun _ h => (nomatch h), pend⟩

/-- The fade's part of a frame start leaves the levels and the records. -/
theorem fadeFrameStart_frame (old new : FrameNo) (a : Agreement) : ∃ f p d,
    fadeFrameStart old new a = { a with fade := f, pendingFade := p, adopted := d } := by
  unfold fadeFrameStart
  dsimp only
  split
  · split
    · exact ⟨_, _, _, rfl⟩
    · exact ⟨_, a.pendingFade, _, rfl⟩
  · exact ⟨_, a.pendingFade, _, rfl⟩

/-! ## The records due and the cuts -/

/-- The correction of R14 opens every pair. -/
theorem corrected_open (p : LevelPair) : (corrected p).open := by
  unfold corrected collapses LevelPair.open
  split_ifs with h
  · exact le_refl _
  · simp
  · simp only [decide_eq_true_eq, not_le] at h
    omega

/-- A record that takes effect brings its cut levels into effect (R44). -/
theorem applyRecord_ranged {s : State} (h : s.agr.ranged) {r : EpochRecord} (hr : r.levelsOpen) :
    (applyRecord s r).agr.ranged := by
  obtain ⟨lv, rs, fd⟩ := (Agreement.ranged_iff _).1 h
  obtain ⟨ps, y, k, x, ha⟩ := applyRecord_frame s r
  rw [ha]
  refine (Agreement.ranged_iff _).2 ⟨?_, rs, fd⟩
  show (r.levels.getD s.agr.levels).open
  cases hl : r.levels with
  | none => exact lv
  | some p => exact hr p hl

theorem applyDue_ranged {s : State} (h : s.agr.ranged) (old : FrameNo) : (applyDue old s).agr.ranged := by
  refine List.foldlRecOn (motive := fun (t : State) => t.agr.ranged) _ _ (h.withEpochs (h.records.filter _)) ?_
  exact fun t ht r hr => applyRecord_ranged ht (h.records.1 r (List.mem_of_mem_filter hr))

/-- The agreement part of a frame start changes the live view, the peer records but for their last bounds, and the show state,
and brings the records due into effect (R44 to R46, R48, R56, R58, R63, R64): what each of these keeps, it keeps. -/
theorem frameAgreement_agr {P : Agreement → Prop} {s : State} {old : FrameNo} (joining : Bool)
    (view : ∀ a v, P a → P { a with live := v })
    (peers : ∀ a own f, (∀ i r, PeerRecord.bounds (f i r) = r.bounds) → P a → P (a.onPeers own f))
    (peer : ∀ a i f, (∀ r, PeerRecord.bounds (f r) = r.bounds) → P a → P (a.onPeer i f))
    (due : ∀ t : State, t.line = s.line → P t.agr → P (applyDue old t).agr)
    (shown : ∀ a, P a → P (identifyFrameStart s.current (fadeFrameStart old s.current a))) (h : P s.agr) :
    P (frameAgreement joining old s).agr := by
  have viewed : (viewStep joining old s).line = s.line ∧ P (viewStep joining old s).agr := by
    cases joining
    · exact ⟨rfl, peers _ _ _ (fun _ _ => rfl) h⟩
    · exact ⟨rfl, view _ _ h⟩
  obtain ⟨y, hy⟩ := lateSwapStep_frame (viewStep joining old s)
  have swapped : (lateSwapStep (viewStep joining old s)).line = s.line ∧ P (lateSwapStep (viewStep joining old s)).agr := by
    rw [hy]
    exact viewed
  obtain ⟨a, z, k, x, hd⟩ := applyDue_frame old (lateSwapStep (viewStep joining old s))
  have applied : (applyDue old (lateSwapStep (viewStep joining old s))).line = s.line ∧
      P (applyDue old (lateSwapStep (viewStep joining old s))).agr := by
    refine ⟨?_, due _ swapped.1 swapped.2⟩
    rw [hd]
    exact swapped.1
  have repaired : ∀ l : List Nat, (l.foldl repairPeer (applyDue old (lateSwapStep (viewStep joining old s)))).line = s.line ∧
      P (l.foldl repairPeer (applyDue old (lateSwapStep (viewStep joining old s)))).agr := fun l =>
    List.foldlRecOn (motive := fun (t : State) => t.line = s.line ∧ P t.agr) l _ applied
      (fun t ht i _ => ⟨ht.1, peer _ i _ (fun _ => rfl) (view _ _ ht.2)⟩)
  have sources : ∀ t : State, t.line = s.line ∧ P t.agr →
      (lightSourceStep t).line = s.line ∧ P (lightSourceStep t).agr := by
    refine fun t ht => ⟨ht.1, peers _ _ _ (fun i r => ?_) ht.2⟩
    unfold sourceToLevels
    split
    · split <;> rfl
    · rfl
  have dwelt : ∀ t : State, t.line = s.line ∧ P t.agr → P (showStep old (dwellStep t)).agr := by
    rintro t ⟨hl, ht⟩
    have same : (dwellStep t).line = t.line ∧ (dwellStep t).agr = t.agr := by
      unfold dwellStep
      split <;> exact ⟨rfl, rfl⟩
    have hc : (dwellStep t).current = s.current := by rw [State.current, same.1, hl]; rfl
    show P (identifyFrameStart (dwellStep t).current (fadeFrameStart old (dwellStep t).current (dwellStep t).agr))
    rw [hc, same.2]
    exact shown _ ht
  unfold frameAgreement
  dsimp only
  split
  · exact dwelt _ (repaired [])
  · exact dwelt _ (sources _ (repaired _))

theorem identifyFadeFrameStart_ranged {a : Agreement} (h : a.ranged) (old new : FrameNo) :
    (identifyFrameStart new (fadeFrameStart old new a)).ranged := by
  obtain ⟨lv, rs, fd⟩ := (Agreement.ranged_iff _).1 h
  have faded := fadeFrameStart_fadeSound fd old new
  obtain ⟨f, p, d, hf⟩ := fadeFrameStart_frame old new a
  rw [hf] at faded ⊢
  exact (Agreement.ranged_iff _).2 ⟨lv, rs, faded⟩

theorem frameAgreement_ranged {s : State} (h : s.agr.ranged) (joining : Bool) (old : FrameNo) :
    (frameAgreement joining old s).agr.ranged :=
  frameAgreement_agr (P := Agreement.ranged) joining (fun _ _ ha => ha) (fun _ _ _ _ ha => ha) (fun _ _ _ _ ha => ha)
    (fun _ _ ht => applyDue_ranged ht old) (fun _ ha => identifyFadeFrameStart_ranged ha old _) h

theorem selfSilenceStep_ranged {s : State} (h : s.agr.ranged) : (selfSilenceStep s).agr.ranged := by
  unfold selfSilenceStep
  split
  · rw [report_agr]
    exact takeChange_ranged h _ _
  · exact h

theorem frameChanges_ranged {s : State} (h : s.agr.ranged) : (frameChanges s).agr.ranged := by
  obtain ⟨u, ⟨p, w, x, rfl⟩, ha, -⟩ := frameChanges_core s
  rw [ha]
  exact selfSilenceStep_ranged h

/-- The records with their bounds jobs queued (R52). -/
theorem queueBoundsJobs_ranged {s : State} (h : s.agr.ranged) : (queueBoundsJobs s).agr.ranged := by
  refine h.withEpochs (h.records.map fun r hr => ?_)
  split <;> exact hr

/-- A cut writes the record's table, levels and phase (R53). -/
theorem cutRecord_agr (s : State) (r : EpochRecord) : (cutRecord s r).agr = s.agr.onRecord r.frame (fun x => { x with
    bounds := cutTable s.agr r, levels := some (corrected (reduceBounds (cutTable s.agr r))), phase := .cut }) := by
  obtain ⟨x, hx⟩ := foldl_faults (fun u e => report .agreement .staleBound e.station u) (fun _ _ => ⟨_, rfl⟩)
    ((cutTable s.agr r).filter (fun e => !e.received && !(e.station == s.own))) s
  unfold cutRecord
  dsimp only
  rw [hx]
  simp

/-- A cut gives its record levels that are open (R14, R53). -/
theorem cutRecord_ranged {s : State} (h : s.agr.ranged) (r : EpochRecord) : (cutRecord s r).agr.ranged := by
  rw [cutRecord_agr]
  refine h.onRecord _ fun x _ p hp => ?_
  obtain rfl : corrected (reduceBounds (cutTable s.agr r)) = p := by simpa using hp
  exact corrected_open _

theorem frameJobs_ranged {s : State} (h : s.agr.ranged) : (frameJobs s).agr.ranged :=
  startJobs_ranged (List.foldlRecOn (motive := fun (t : State) => t.agr.ranged) _ _ (queueBoundsJobs_ranged h)
    (fun _ ht r _ => cutRecord_ranged ht r))

theorem workingFrameStart_ranged {s : State} (h : s.agr.ranged) (first : Stamp) :
    (workingFrameStart first s).agr.ranged := by
  have counted : (frameCounts (rasterFrameStart first (endFrameReads s))).agr.ranged := by
    obtain ⟨ps, hp⟩ := frameCounts_agr (rasterFrameStart first (endFrameReads s))
    rw [hp, rasterFrameStart_agr, endFrameReads_agr]
    exact h
  unfold workingFrameStart
  simp only [setupStep_agr, selectContent_agr]
  exact frameJobs_ranged (frameChanges_ranged (frameAgreement_ranged counted _ _))

/-! ## Every step -/

theorem resetAgreement_ranged (own : Nat) : (resetAgreement own).ranged :=
  (Agreement.ranged_iff _).2 ⟨by simp [resetAgreement, LevelPair.open], ⟨fun _ h => (nomatch h), by simp [resetAgreement]⟩,
    ⟨le_refl 4096, le_refl 4096⟩, fun _ h => (nomatch h), fun _ h => (nomatch h)⟩

/-- Each move of a command keeps the levels, the records and the fades in range. -/
theorem CoreMove.keeps_ranged {s : State} {a : Agreement} {x : Solver} (h : CoreMove s a x) (hs : s.agr.ranged) :
    a.ranged := by
  cases h with
  | kept => exact hs
  | halted => exact hs
  | reset own => exact resetAgreement_ranged own
  | joined => exact resetAgreement_ranged s.own
  | message sender b u ps qs agr sol =>
    have taken : u.agr.ranged := by rw [agr]; exact hs
    exact takeBody_ranged taken sender b
  | frame first => exact workingFrameStart_ranged hs first
  | boundsPass p running =>
    refine startJobs_ranged ?_
    rw [completeBounds_agr]
    exact hs.boundedAt _
  | coeffPass p running => exact startJobs_ranged (completeCoeff_ranged hs p)

/-- Settles O6: every command makes one of the moves of `CoreMove`, and each keeps the agreement unit in range. -/
theorem agreementStaysSound : Obligations.AgreementStaysSound := by
  intro s t hs hstep
  obtain ⟨q, h⟩ := step_coreMove hstep
  exact h.keeps_ranged hs

end Sys2Proof.Machine
end

section
/-!
PROOFS. The extremes of a pass and of a cut, and the output table (O38, O39, O40).
-/
namespace Sys2Proof.Machine

/-! ## Largest and smallest figures of a list -/

/-- The largest figure among the entries of a kind, or the start value where none is larger. -/
theorem foldl_max_spec {α β : Type} [LinearOrder β] (p : α → Prop) [DecidablePred p] (g : α → β) (l : List α) (b : β) :
    b ≤ l.foldl (fun m n => if p n then max m (g n) else m) b ∧
      (∀ n ∈ l, p n → g n ≤ l.foldl (fun m n => if p n then max m (g n) else m) b) ∧
      (l.foldl (fun m n => if p n then max m (g n) else m) b = b ∨
        ∃ n ∈ l, p n ∧ g n = l.foldl (fun m n => if p n then max m (g n) else m) b) := by
  induction l generalizing b with
  | nil => simp
  | cons x rest ih =>
    rw [List.foldl_cons]
    by_cases hp : p x
    · rw [if_pos hp]
      obtain ⟨low, all, reached⟩ := ih (max b (g x))
      refine ⟨(le_max_left _ _).trans low, ?_, ?_⟩
      · rintro n hn hpn
        obtain rfl | hn := List.mem_cons.1 hn
        · exact (le_max_right _ _).trans low
        · exact all n hn hpn
      · obtain same | ⟨n, hn, hpn, he⟩ := reached
        · rw [same]
          obtain hm | hm := max_choice b (g x)
          · exact .inl hm
          · exact .inr ⟨x, List.mem_cons_self, hp, hm.symm⟩
        · exact .inr ⟨n, List.mem_cons_of_mem _ hn, hpn, he⟩
    · rw [if_neg hp]
      obtain ⟨low, all, reached⟩ := ih b
      refine ⟨low, ?_, ?_⟩
      · rintro n hn hpn
        obtain rfl | hn := List.mem_cons.1 hn
        · exact absurd hpn hp
        · exact all n hn hpn
      · exact reached.imp_right fun ⟨n, hn, hpn, he⟩ => ⟨n, List.mem_cons_of_mem _ hn, hpn, he⟩

/-- The smallest figure among the entries of a kind, or the start value where none is smaller. -/
theorem foldl_min_spec {α β : Type} [LinearOrder β] (p : α → Prop) [DecidablePred p] (g : α → β) (l : List α) (b : β) :
    l.foldl (fun m n => if p n then min m (g n) else m) b ≤ b ∧
      (∀ n ∈ l, p n → l.foldl (fun m n => if p n then min m (g n) else m) b ≤ g n) ∧
      (l.foldl (fun m n => if p n then min m (g n) else m) b = b ∨
        ∃ n ∈ l, p n ∧ g n = l.foldl (fun m n => if p n then min m (g n) else m) b) :=
  foldl_max_spec (β := βᵒᵈ) p g l b

/-! ## The bounds of a pass and the levels of a cut -/

/-- Settles O38: the bounds are the extremes that `foldl_max_spec` and `foldl_min_spec` give. -/
theorem boundsAreExtremes : Obligations.BoundsAreExtremes := by
  intro p own grid
  obtain ⟨-, floorAll, floorReached⟩ := foldl_max_spec (fun n : NodeRecord => 0 < n.share)
    (fun n => (stageOne p own n).blackSum) grid 0
  obtain ⟨-, ceilingAll, ceilingReached⟩ := foldl_min_spec (fun n : NodeRecord => serves n (stageOne p own n) = true)
    (fun n => ceilingTerm n (stageOne p own n)) grid 16777215
  refine ⟨floorAll, floorReached, ceilingAll, ceilingReached, fun n l => ⟨?_, rfl⟩⟩
  simp [serves]

/-- F and C of a list of pairs are its largest floor and its smallest ceiling (R13). -/
theorem reduceBounds_spec (l : List BoundsEntry) :
    (∀ e ∈ l, e.floor ≤ (reduceBounds l).floor ∧ (reduceBounds l).ceiling ≤ e.ceiling) ∧
      ((reduceBounds l).floor = 0 ∨ ∃ e ∈ l, e.floor = (reduceBounds l).floor) ∧
      ((reduceBounds l).ceiling = 16777215 ∨ ∃ e ∈ l, e.ceiling = (reduceBounds l).ceiling) := by
  have floors := foldl_max_spec (fun _ : BoundsEntry => True) (fun e => e.floor) l 0
  have ceilings := foldl_min_spec (fun _ : BoundsEntry => True) (fun e => e.ceiling) l 16777215
  simp only [if_true, true_and, true_implies] at floors ceilings
  exact ⟨fun e he => ⟨floors.2.1 e he, ceilings.2.1 e he⟩, floors.2.2, ceilings.2.2⟩

/-- A pair that does not collapse is not corrected (R14). -/
theorem corrected_of_open {p : LevelPair} (h : p.open) : corrected p = p :=
  if_neg (by
    unfold LevelPair.open at h
    simp only [collapses, decide_eq_true_eq]
    omega)

/-- The correction of a collapsed pair below the top (R14). -/
theorem corrected_of_collapse {p : LevelPair} (h : p.ceiling ≤ p.floor) (hf : p.floor < 16777215) :
    corrected p = ⟨p.floor, p.floor + 1⟩ := by
  simp [corrected, collapses, h, hf]

/-- The correction of a collapsed pair at the top (R14). -/
theorem corrected_of_collapse_top {p : LevelPair} (h : p.ceiling ≤ p.floor) (hf : p.floor = 16777215) :
    corrected p = ⟨16777214, 16777215⟩ := by
  rw [corrected, if_pos (by simpa [collapses] using h), if_neg (by omega)]

/-- Settles O39, by `reduceBounds_spec` and the three cases of the correction. -/
theorem cutLevelsOpen : Obligations.CutLevelsOpen := by
  intro l range q
  obtain ⟨all, floorReached, ceilingReached⟩ := reduceBounds_spec l
  have floorTop : q.floor ≤ 16777215 := by
    obtain h0 | ⟨e, he, h⟩ := floorReached
    · exact h0.le.trans (by omega)
    · exact h.symm.le.trans (range e he).1
  have ceilingTop : q.ceiling ≤ 16777215 := by
    obtain h0 | ⟨e, he, h⟩ := ceilingReached
    · exact h0.le
    · exact h.symm.le.trans (range e he).2
  refine ⟨fun h => by rw [show q = reduceBounds l from rfl, h]; rfl, all, fun hl => ⟨?_, ?_⟩, corrected_open q,
    corrected_of_open, ?_, corrected_of_collapse, corrected_of_collapse_top⟩
  · obtain ⟨e, he⟩ := List.exists_mem_of_ne_nil l hl
    obtain h0 | h := floorReached
    · exact ⟨e, he, le_antisymm (all e he).1 (h0.le.trans (Nat.zero_le _))⟩
    · exact h
  · obtain ⟨e, he⟩ := List.exists_mem_of_ne_nil l hl
    obtain h0 | h := ceilingReached
    · exact ⟨e, he, le_antisymm ((range e he).2.trans h0.ge) (all e he).2⟩
    · exact h
  · by_cases ho : q.open
    · rw [corrected_of_open ho]
      exact ceilingTop
    · have hc : q.ceiling ≤ q.floor := by unfold LevelPair.open at ho; omega
      obtain hf | hf := floorTop.lt_or_eq
      · rw [corrected_of_collapse hc hf]
        exact hf
      · rw [corrected_of_collapse_top hc hf]

/-! ## The output table -/

/-- The output code of a drive below the top is its entry and a part of the step to the next, and that of the top drive the last
entry (R21). -/
theorem outputCode_below {table : List Nat} {d : Nat} (hd : d < 32768) : outputCode table d =
    table.getD (d / 32) 0 + roundDiv ((table.getD (d / 32 + 1) 0 - table.getD (d / 32) 0) * (d % 32)) 32 :=
  if_pos (by omega)

theorem outputCode_top {table : List Nat} : outputCode table 32768 = table.getD 1024 0 := rfl

/-- Rounded quotients keep the order of what is divided. -/
theorem roundDiv_mono {n m : Nat} (h : n ≤ m) (d : Nat) : roundDiv n d ≤ roundDiv m d :=
  Nat.div_le_div_right (by omega)

/-- A quotient of a multiple is exact (00, rounding). -/
theorem roundDiv_mul_self (n : Nat) {d : Nat} (hd : 0 < d) : roundDiv (n * d) d = n := by
  unfold roundDiv
  rw [show 2 * (n * d) + d = d + 2 * d * n by ring, Nat.add_mul_div_left _ _ (by omega), Nat.div_eq_of_lt (by omega),
    Nat.zero_add]

section
variable {table : List Nat} (rises : ∀ i < 1024, table.getD i 0 ≤ table.getD (i + 1) 0)
include rises

/-- The entries of a table that does not fall, in order. -/
theorem table_mono {i j : Nat} (hij : i ≤ j) (hj : j ≤ 1024) : table.getD i 0 ≤ table.getD j 0 := by
  induction j, hij using Nat.le_induction with
  | base => exact le_refl _
  | succ j _ ih => exact (ih (by omega)).trans (rises j (by omega))

/-- The code of a drive lies between the two entries around it (R21). -/
theorem outputCode_between {d : Nat} (hd : d < 32768) :
    table.getD (d / 32) 0 ≤ outputCode table d ∧ outputCode table d ≤ table.getD (d / 32 + 1) 0 := by
  have step := rises (d / 32) (by omega)
  have part : roundDiv ((table.getD (d / 32 + 1) 0 - table.getD (d / 32) 0) * (d % 32)) 32 ≤
      table.getD (d / 32 + 1) 0 - table.getD (d / 32) 0 :=
    (roundDiv_mono (Nat.mul_le_mul_left _ (by omega)) 32).trans (roundDiv_mul_self _ (by omega)).le
  rw [outputCode_below hd]
  omega

/-- A larger drive never gives a smaller code: within one step the part of it grows, and between steps lies an entry (R21). -/
theorem outputCode_mono {d e : Nat} (hde : d ≤ e) (he : e ≤ 32768) : outputCode table d ≤ outputCode table e := by
  obtain rfl | htop := he.eq_or_lt
  · obtain rfl | hd := hde.eq_or_lt
    · exact le_refl _
    · rw [outputCode_top]
      exact (outputCode_between rises hd).2.trans (table_mono rises (by omega) (le_refl _))
  · have hd : d < 32768 := by omega
    by_cases hs : d / 32 = e / 32
    · rw [outputCode_below hd, outputCode_below htop, hs]
      exact Nat.add_le_add_left (roundDiv_mono (Nat.mul_le_mul_left _ (by omega)) 32) _
    · calc outputCode table d ≤ table.getD (d / 32 + 1) 0 := (outputCode_between rises hd).2
        _ ≤ table.getD (e / 32) 0 := table_mono rises (by omega) (by omega)
        _ ≤ outputCode table e := (outputCode_between rises htop).1

end

/-- Settles O40, by `outputCode_between` and `outputCode_mono`. -/
theorem outputCodeMonotone : Obligations.OutputCodeMonotone := by
  intro table d e hlen top rises hde he
  have entry : ∀ i, table.getD i 0 ≤ 4095 := by
    intro i
    rw [List.getD_eq_getElem?_getD]
    cases hi : table[i]? with
    | none => simp
    | some v => exact top v (List.mem_of_getElem? hi)
  have mono := outputCode_mono rises hde he
  obtain rfl | hd : d = 32768 ∨ d < 32768 := by omega
  · exact ⟨(outputCode_top).ge, fun h => absurd h (lt_irrefl _), (outputCode_top).le.trans (entry _), mono⟩
  · obtain ⟨low, high⟩ := outputCode_between rises hd
    exact ⟨low, fun _ => high, high.trans (entry _), mono⟩

end Sys2Proof.Machine
end

section
/-!
PROOFS. The completions of a bounds pass and of a coefficient pass (O36, O37).
-/
namespace Sys2Proof.Machine

/-! ## Records of the pending epoch list -/

/-- The record of `m` after a change of the record of `n` that keeps its frame. -/
theorem record_onRecord (a : Agreement) (n m : FrameNo) {f : EpochRecord → EpochRecord}
    (hf : ∀ r, (f r).frame = r.frame) :
    (a.onRecord n f).record m = (a.record m).map (fun r => if r.frame = n then f r else r) := by
  have frames : ((fun r : EpochRecord => r.frame == m) ∘ fun r => if r.frame = n then f r else r) =
      fun r => r.frame == m := by
    funext r
    simp only [Function.comp_apply]
    split
    · rw [hf]
    · rfl
  unfold Agreement.onRecord Agreement.record
  rw [List.find?_map, frames]

/-- The record found for an epoch bears its number. -/
theorem frame_of_record {a : Agreement} {n : FrameNo} {r : EpochRecord} (h : a.record n = some r) : r.frame = n := by
  simpa using List.find?_some h

theorem Agreement.boundedAt_frame (a : Agreement) (n : FrameNo) : ∃ e, a.boundedAt n = { a with epochs := e } := by
  unfold Agreement.boundedAt
  split
  · split
    · exact ⟨_, rfl⟩
    · exact ⟨a.epochs, rfl⟩
  · exact ⟨a.epochs, rfl⟩

/-- A bounds completion for `m` moves the phase of an OPEN record of `m` alone (R52). -/
theorem phase_boundedAt (a : Agreement) (m n : FrameNo) : ((a.boundedAt m).record n).map (fun x => x.phase) =
    (a.record n).map (fun r => if m = n ∧ r.phase = .opened then .bounded else r.phase) := by
  unfold Agreement.boundedAt
  by_cases hmn : m = n
  · subst hmn
    cases hr : a.record m with
    | none => simp [hr]
    | some r =>
      have hf := frame_of_record hr
      by_cases ho : r.phase = .opened
      · simp only [ho, if_true]
        rw [record_onRecord a m m (f := fun x => { x with phase := .bounded }) (fun _ => rfl), hr]
        simp [hf, ho]
      · simp [ho, hr]
  · have other : ∀ r, a.record n = some r → r.frame ≠ m := fun r hr h => hmn (h.symm.trans (frame_of_record hr))
    have same : ((a.onRecord m (fun x => { x with phase := .bounded })).record n).map (fun x => x.phase) =
        (a.record n).map (fun x => x.phase) := by
      rw [record_onRecord a m n (f := fun x => { x with phase := .bounded }) (fun _ => rfl)]
      cases hr : a.record n with
      | none => rfl
      | some r => simp [other r hr]
    simp only [hmn, false_and, if_false]
    split
    · split
      · exact same
      · rfl
    · rfl

/-- The phase of a record that is not OPEN is kept by the solver's choices (R52, R66). -/
theorem startJobs_keeps_phase {s : State} {n : FrameNo} {ph : Phase} (hph : ph ≠ .opened)
    (h : (s.agr.record n).map (fun x => x.phase) = some ph) :
    ((startJobs s).agr.record n).map (fun x => x.phase) = some ph := by
  refine startJobs_agr (P := fun a => (a.record n).map (fun x => x.phase) = some ph) (fun a m ha => ?_) h
  rw [phase_boundedAt]
  obtain ⟨r, hr, hp⟩ := Option.map_eq_some_iff.1 ha
  rw [hr]
  simp [hp, hph]

/-- An epoch without a record has none after the solver's choices. -/
theorem startJobs_keeps_absence {s : State} {n : FrameNo} (h : s.agr.record n = none) :
    (startJobs s).agr.record n = none := by
  refine startJobs_agr (P := fun a => a.record n = none) (fun a m ha => ?_) h
  have := phase_boundedAt a m n
  rw [ha] at this
  simpa using this

/-! ## The solver's choices -/

/-- A pass at whose epoch this station is not live completes with no BOUNDS and no report (R69). -/
theorem completeBounds_of_not_live {p : Pass} {s : State} (h : p.ownLive s.own = false) : completeBounds p s =
    { s with agr := s.agr.boundedAt p.job.epoch, sol := { s.sol with running := none } } := by
  unfold completeBounds degenerateCount boundsPair takeBoundsResult Agreement.boundedAt
  simp only [h, Bool.false_eq_true, if_false, lt_irrefl, decide_false, reportIf, State.withSol_agr]
  cases s.agr.record p.job.epoch with
  | none => rfl
  | some r => dsimp only; split <;> rfl

/-- The solver's choices change the pending epoch list and the solver alone: a pass that completes at once queues nothing and
reports nothing (R66, R69). -/
theorem chooseJobs_quiet (n : Nat) (s : State) :
    ∃ e y, chooseJobs n s = { s with agr := { s.agr with epochs := e }, sol := y } := by
  induction n generalizing s with
  | zero => exact ⟨s.agr.epochs, s.sol, rfl⟩
  | succ n ih =>
    unfold chooseJobs
    split
    · exact ⟨s.agr.epochs, s.sol, rfl⟩
    · split
      · exact ⟨s.agr.epochs, s.sol, rfl⟩
      · rename_i j _
        obtain ⟨y, hy⟩ := startPass_frame j s
        dsimp only
        split
        · rename_i hc
          have dark : (makePass s.agr j).ownLive (startPass j s).own = false := by
            rw [hy]
            simp only [Bool.and_eq_true, Bool.not_eq_true'] at hc
            exact hc.2
          obtain ⟨e, z, h⟩ := ih (completeBounds (makePass s.agr j) (startPass j s))
          obtain ⟨e', he⟩ := (startPass j s).agr.boundedAt_frame (makePass s.agr j).job.epoch
          exact ⟨e, z, by rw [h, completeBounds_of_not_live dark, he, hy]⟩
        · exact ⟨s.agr.epochs, y, hy⟩

theorem startJobs_quiet (s : State) :
    ∃ e y, startJobs s = { s with agr := { s.agr with epochs := e }, sol := y } := chooseJobs_quiet _ s

@[simp] theorem startJobs_port (s : State) : (startJobs s).port = s.port := by
  obtain ⟨e, y, h⟩ := startJobs_quiet s
  rw [h]

@[simp] theorem startJobs_faults (s : State) : (startJobs s).faults = s.faults := by
  obtain ⟨e, y, h⟩ := startJobs_quiet s
  rw [h]

/-- The job taken next is one of the queue (R66). -/
theorem mem_of_nextJob {q : List Job} {j : Job} (h : nextJob q = some j) : j ∈ q := by
  cases q with
  | nil => exact nomatch h
  | cons x rest =>
    obtain rfl : rest.foldl earlierJob x = j := by simpa [nextJob] using h
    refine List.foldlRecOn (motive := fun b => b ∈ x :: rest) rest earlierJob List.mem_cons_self ?_
    intro b hb a ha
    unfold earlierJob
    split_ifs
    · exact hb
    · exact List.mem_cons_of_mem _ ha
    · exact List.mem_cons_of_mem _ ha
    · exact hb

/-- A bounds pass that starts leaves the banks (R71). -/
theorem startPass_bounds {j : Job} (hj : j.kind = .bounds) (s : State) : startPass j s =
    s.withSol { s.sol with queue := s.sol.queue.erase j, running := some (makePass s.agr j) } := by
  simp [startPass, hj]

/-- With no coefficient job in the queue the solver's choices leave the banks. -/
theorem chooseJobs_banks (n : Nat) {s : State} (hq : ∀ j ∈ s.sol.queue, j.kind = .bounds) :
    (chooseJobs n s).sol.bank0 = s.sol.bank0 ∧ (chooseJobs n s).sol.bank1 = s.sol.bank1 := by
  induction n generalizing s with
  | zero => exact ⟨rfl, rfl⟩
  | succ n ih =>
    unfold chooseJobs
    split
    · exact ⟨rfl, rfl⟩
    · split
      · exact ⟨rfl, rfl⟩
      · rename_i j hj
        have started := startPass_bounds (hq j (mem_of_nextJob hj)) s
        dsimp only
        split
        · have rest : ∀ i ∈ (completeBounds (makePass s.agr j) (startPass j s)).sol.queue, i.kind = .bounds := by
            rw [completeBounds_sol, started]
            exact fun i hi => hq i (List.mem_of_mem_erase hi)
          obtain ⟨h0, h1⟩ := ih rest
          rw [h0, h1, completeBounds_sol, started]
          exact ⟨rfl, rfl⟩
        · rw [started]
          exact ⟨rfl, rfl⟩

/-! ## Banks read back -/

/-- A bank that is not ACTIVE, put in the spare's place, is the spare, and the ACTIVE bank stays (R73). -/
theorem spare_setSpare (x : Solver) {b : Bank} (hb : b.status ≠ .active) :
    (x.setSpare b).spare = b ∧ (x.setSpare b).active = x.active := by
  unfold Solver.setSpare
  split
  · rename_i h
    have h' : x.bank0.status = .active := by simpa [Solver.spareIsOne] using h
    simp [Solver.spare, Solver.active, Solver.spareIsOne, h']
  · rename_i h
    have h' : x.bank0.status ≠ .active := by simpa [Solver.spareIsOne] using h
    simp [Solver.spare, Solver.active, Solver.spareIsOne, h', hb]

/-- The spare and the ACTIVE bank follow from the two banks. -/
theorem spare_of_banks {x y : Solver} (h0 : y.bank0 = x.bank0) (h1 : y.bank1 = x.bank1) :
    y.spare = x.spare ∧ y.active = x.active := by
  simp [Solver.spare, Solver.active, Solver.spareIsOne, h0, h1]

/-! ## Reports in the pending set -/

theorem faultNumber_lt (k : FaultKind) : faultNumber k < 64 := by cases k <;> decide

/-- A report joins the pending set (R187). -/
theorem report_pendingBit (b : Block) (k : FaultKind) (d : Nat) (s : State) :
    (report b k d s).faults.pending.getLsbD (faultNumber k) = true := by
  simp [faultNumber_lt k]

theorem reportIf_pendingBit {c : Bool} (h : c = true) (b : Block) (k : FaultKind) (d : Nat) (s : State) :
    (reportIf c b k d s).faults.pending.getLsbD (faultNumber k) = true := by
  rw [h]
  exact report_pendingBit b k d s

/-! ## BOUNDS_PASS_COMPLETE -/

theorem exec_boundsPassComplete {p : Pass} {s : State} (hr : s.sol.running = some p) (hk : p.job.kind = .bounds) :
    exec .boundsPassComplete s = .next (takeReports (startJobs (completeBounds p s))) := by
  simp [exec, execBoundsPassComplete, finish, hr, hk]

/-- BOUNDS queues itself without a report (R114). -/
theorem enqueue_bounds_frame (e : BitVec 16) (f c : BitVec 24) (s : State) :
    ∃ p, enqueue (.bounds e f c) s = { s with port := p } := by
  unfold enqueue
  dsimp only
  split
  · exact ⟨s.port, rfl⟩
  · exact ⟨_, rfl⟩

/-- BOUNDS goes behind the queue's messages where there is room (R113, R114). -/
theorem enqueue_bounds_room {s : State} (hs : s.port.state ≠ .disabled) (hroom : s.port.bounds.length < 8)
    (e : BitVec 16) (f c : BitVec 24) : (enqueue (.bounds e f c) s).port =
      { s.port with bounds := s.port.bounds ++ [⟨BitVec.ofNat 4 s.own, .bounds e f c⟩] } := by
  simp [enqueue, hs, boundsPlace, hroom]

/-- The agreement unit's part of a bounds completion reports nothing (R52). -/
@[simp] theorem takeBoundsResult_faults (n : FrameNo) (pair : Option LevelPair) (s : State) :
    (takeBoundsResult n pair s).faults = s.faults := by
  unfold takeBoundsResult
  split
  · rfl
  · cases pair with
    | none => dsimp only; split <;> rfl
    | some q =>
      obtain ⟨p, h⟩ := enqueue_bounds_frame (n.setWidth 16) (BitVec.ofNat 24 q.floor) (BitVec.ofNat 24 q.ceiling) s
      dsimp only
      rw [h]
      split <;> rfl

/-- What a bounds completion queues: nothing without a record or a pair, and otherwise the pair as BOUNDS (R52). -/
theorem takeBoundsResult_port (n : FrameNo) (pair : Option LevelPair) (s : State) :
    (takeBoundsResult n pair s).port = match s.agr.record n, pair with
      | some _, some x => (enqueue (.bounds (n.setWidth 16) (BitVec.ofNat 24 x.floor) (BitVec.ofNat 24 x.ceiling)) s).port
      | _, _ => s.port := by
  unfold takeBoundsResult
  cases s.agr.record n with
  | none => rfl
  | some r => cases pair <;> dsimp only <;> split <;> rfl

/-- The port after the completion of a bounds pass, by its record and this station's standing (R52, R69). -/
theorem completeBounds_port (p : Pass) (s : State) :
    (s.agr.record p.job.epoch = none → (completeBounds p s).port = s.port) ∧
    (p.ownLive s.own = false → (completeBounds p s).port = s.port) ∧
    ∀ r, s.agr.record p.job.epoch = some r → p.ownLive s.own = true → s.port.state ≠ .disabled →
      s.port.bounds.length < 8 → (completeBounds p s).port =
        { s.port with bounds := s.port.bounds ++ [⟨BitVec.ofNat 4 s.own, .bounds (p.job.epoch.setWidth 16)
          (BitVec.ofNat 24 (floorBound p s.own s.pix.grid)) (BitVec.ofNat 24 (ceilingBound p s.own s.pix.grid))⟩] } := by
  refine ⟨fun hn => ?_, fun hd => by rw [completeBounds_of_not_live hd], fun r hr hl hs hroom => ?_⟩
  · unfold completeBounds
    dsimp only
    rw [takeBoundsResult_port]
    simp [hn]
  · unfold completeBounds
    dsimp only
    obtain ⟨x, hx⟩ := reportIf_frame (decide (0 < degenerateCount p s.own s.pix.grid)) .solver .nodeDegenerate
      (degenerateCount p s.own s.pix.grid) (s.withSol { s.sol with running := none })
    rw [hx, takeBoundsResult_port]
    simp only [State.withSol_agr, hr, boundsPair, hl, if_true]
    exact enqueue_bounds_room (s := { s.withSol { s.sol with running := none } with faults := x }) hs hroom _ _ _

/-- Settles O36, by the course of R52 that the record and this station's standing give; the choices behind it queue nothing. -/
theorem boundsPassCompletes : Obligations.BoundsPassCompletes := by
  intro p s hrun hkind
  obtain ⟨e, y, q, x, hc⟩ := completeBounds_frame p s
  obtain ⟨e', y', hj⟩ := startJobs_quiet (completeBounds p s)
  obtain ⟨x', ht⟩ := takeReports_frame (startJobs (completeBounds p s))
  have port : (takeReports (startJobs (completeBounds p s))).port = (completeBounds p s).port := by simp
  obtain ⟨absent, dark, queued⟩ := completeBounds_port p s
  have phase := phase_boundedAt s.agr p.job.epoch p.job.epoch
  rw [← completeBounds_agr] at phase
  refine ⟨_, exec_boundsPassComplete hrun hkind, ?_, ?_, ?_, ?_, fun hd => ?_, fun r hr => ⟨fun hl hs hroom => ?_,
    fun hl => ?_, fun ho => ?_, fun hcut => ?_⟩, fun hn => ⟨?_, ?_⟩⟩
  · rw [ht, hj, hc]
  · rw [ht, hj, hc]
  · rw [ht, hj, hc]
  · rw [ht, hj, hc]
  · rw [takeReports_pendingSet, startJobs_faults]
    unfold completeBounds
    dsimp only
    rw [takeBoundsResult_faults]
    exact reportIf_pendingBit (decide_eq_true hd) _ _ _ _
  · rw [port, queued r hr hl hs hroom]
  · rw [port, dark hl]
  · rw [takeReports_agr]
    exact startJobs_keeps_phase (by simp) (by rw [phase, hr]; simp [ho])
  · rw [takeReports_agr]
    obtain hcut | hcut := hcut
    all_goals exact startJobs_keeps_phase (by simp [hcut]) (by rw [phase, hr]; simp [hcut])
  · rw [port, absent hn]
  · rw [takeReports_agr]
    refine startJobs_keeps_absence ?_
    rw [hn] at phase
    simpa using phase

/-! ## COEFF_PASS_COMPLETE -/

theorem exec_coeffPassComplete {p : Pass} {s : State} (hr : s.sol.running = some p) (hk : p.job.kind = .coeff) :
    exec .coeffPassComplete s = .next (takeReports (startJobs (completeCoeff p s))) := by
  simp [exec, execCoeffPassComplete, finish, hr, hk]

/-- The solver after the completion of a coefficient pass (R71, R72). -/
theorem completeCoeff_sol (p : Pass) (s : State) : (completeCoeff p s).sol =
    { s.sol with running := none }.setSpare ⟨s.pix.grid.map (nodeCoeff p s.own), some p.job.epoch, .spareReady⟩ := by
  simp [completeCoeff]

/-- The completion of a coefficient pass changes the pending epoch list, the solver and the fault unit alone. -/
theorem completeCoeff_frame (p : Pass) (s : State) : ∃ e y x, completeCoeff p s =
    { s with agr := { s.agr with epochs := e }, sol := y, faults := x } := by
  unfold completeCoeff
  dsimp only
  generalize hd : decide (0 < degenerateCount p s.own s.pix.grid) = c
  cases c <;> exact ⟨_, _, _, rfl⟩

theorem setSpare_queue (x : Solver) (b : Bank) : (x.setSpare b).queue = x.queue := by
  unfold Solver.setSpare
  split <;> rfl

/-- A rounded quotient is the nearest one, halves up (00, rounding). -/
theorem roundDiv_nearest (n : Nat) {d : Nat} (hd : 0 < d) :
    roundDiv n d * (2 * d) ≤ 2 * n + d ∧ 2 * n + d < (roundDiv n d + 1) * (2 * d) :=
  ⟨Nat.div_mul_le_self _ _, (Nat.lt_mul_div_succ _ (by omega)).trans_eq (Nat.mul_comm _ _)⟩

theorem roundDiv_zero {d : Nat} (hd : 0 < d) : roundDiv 0 d = 0 := Nat.div_eq_of_lt (by omega)

/-- K and A of a node that serves, at a station live at the epoch (R15, R16). -/
theorem nodeCoeff_of_serves {p : Pass} {own : Nat} {n : NodeRecord} (hl : p.ownLive own = true)
    (hs : serves n (stageOne p own n) = true) :
    let l := stageOne p own n
    let d := l.shareSum * (l.white - l.black)
    let k := min 32768 (roundDiv (32768 * n.share * (p.job.levels.floor - l.blackSum)) d)
    nodeCoeff p own n =
      ⟨k, min (32768 - k) (roundDiv (32768 * n.share * (p.job.levels.ceiling - p.job.levels.floor)) d)⟩ := by
  simp [nodeCoeff, hl, hs]

theorem nodeCoeff_of_not {p : Pass} {own : Nat} {n : NodeRecord}
    (h : p.ownLive own = false ∨ serves n (stageOne p own n) = false) : nodeCoeff p own n = ⟨0, 0⟩ := by
  obtain h | h := h <;> simp [nodeCoeff, h]

/-- Each share of a node counts in its sum of shares (R7). -/
theorem share_le_shareSum (p : Pass) (own : Nat) (n : NodeRecord) : n.share ≤ (stageOne p own n).shareSum :=
  Nat.le_add_right _ _

/-- The pass's part of O37: the spare is filled and the record BANKED, and the choices behind it leave the banks. -/
theorem coeffPass_effect {p : Pass} {s : State} (hrun : s.sol.running = some p) (hkind : p.job.kind = .coeff)
    (hq : ∀ j ∈ s.sol.queue, j.kind = .bounds) : ∃ t, exec .coeffPassComplete s = .next t ∧
      t.sol.spare = ⟨s.pix.grid.map (nodeCoeff p s.own), some p.job.epoch, .spareReady⟩ ∧
      t.sol.active = s.sol.active ∧
      (∀ r, s.agr.record p.job.epoch = some r → r.phase = .cut →
        (t.agr.record p.job.epoch).map (fun x => x.phase) = some .banked) ∧
      t.agr.live = s.agr.live ∧ t.agr.peers = s.agr.peers ∧ t.agr.levels = s.agr.levels ∧
      t = { s with agr := t.agr, sol := t.sol, faults := t.faults } := by
  obtain ⟨e, y, x, hc⟩ := completeCoeff_frame p s
  obtain ⟨e', y', hj⟩ := startJobs_quiet (completeCoeff p s)
  obtain ⟨x', ht⟩ := takeReports_frame (startJobs (completeCoeff p s))
  have queue : ∀ j ∈ (completeCoeff p s).sol.queue, j.kind = .bounds := by
    rw [completeCoeff_sol, setSpare_queue]
    exact hq
  obtain ⟨b0, b1⟩ := chooseJobs_banks ((completeCoeff p s).sol.queue.length + 1) queue
  obtain ⟨spare, active⟩ := spare_of_banks b0 b1
  obtain ⟨set, kept⟩ := spare_setSpare { s.sol with running := none }
    (b := ⟨s.pix.grid.map (nodeCoeff p s.own), some p.job.epoch, .spareReady⟩) (by simp)
  rw [← completeCoeff_sol] at set kept
  refine ⟨_, exec_coeffPassComplete hrun hkind, ?_, ?_, fun r hr hp => ?_, ?_, ?_, ?_, ?_⟩
  · rw [takeReports_sol]
    exact spare.trans set
  · rw [takeReports_sol]
    exact active.trans kept
  · rw [takeReports_agr]
    refine startJobs_keeps_phase (by simp) ?_
    rw [completeCoeff_agr, record_onRecord _ _ _ (fun r => by split <;> rfl), hr]
    simp [frame_of_record hr, hp]
  · rw [ht, hj, hc]
  · rw [ht, hj, hc]
  · rw [ht, hj, hc]
  · rw [ht, hj, hc]

/-- Settles O37, by `coeffPass_effect` and the quotients of R15 and R16 to nearest. -/
theorem coeffPassCompletes : Obligations.CoeffPassCompletes := by
  refine ⟨fun p s hrun hkind hq => coeffPass_effect hrun hkind hq, fun p own n => ?_⟩
  intro l levels coeff divisor nearest
  refine ⟨fun live share white => ?_, fun h => ?_⟩
  · have hs : serves n l = true := by simp [serves, share, white]
    have hd : 0 < divisor := Nat.mul_pos (share.trans_le (share_le_shareSum p own n)) (by omega)
    have hc := nodeCoeff_of_serves live hs
    have hk : coeff.k = min 32768 (roundDiv (32768 * n.share * (levels.floor - l.blackSum)) divisor) :=
      congrArg Coeff.k hc
    have ha : coeff.a = min (32768 - coeff.k)
        (roundDiv (32768 * n.share * (levels.ceiling - levels.floor)) divisor) := by
      rw [hk]
      exact congrArg Coeff.a hc
    refine ⟨fun hf => ?_, fun _ => ⟨_, roundDiv_nearest _ hd, hk.trans (min_comm _ _)⟩, fun hf => ?_,
      fun _ => ⟨_, roundDiv_nearest _ hd, ha.trans (min_comm _ _)⟩⟩
    · rw [hk, Nat.sub_eq_zero_of_le hf, Nat.mul_zero, roundDiv_zero hd, Nat.min_zero]
    · rw [ha, Nat.sub_eq_zero_of_le hf, Nat.mul_zero, roundDiv_zero hd, Nat.min_zero]
  · refine nodeCoeff_of_not ?_
    obtain h | h | h := h
    · exact .inl h
    · exact .inr (by simp [serves, h])
    · exact .inr (decide_eq_false fun hs => absurd hs.2 (not_lt.2 h))

end Sys2Proof.Machine
end

section
/-!
PROOFS. The fields of a grid record, read in order (O21).
-/
namespace Sys2Proof.Machine

/-! ## The bytes that the loader reads -/

/-- Bytes read in two parts are read as one (R174, R181). -/
theorem Loader.read_append (l : Loader) (a b : List Byte) : (l.read a).read b = l.read (a ++ b) := by
  simp [Loader.read, crcBytes, Nat.add_assoc, Nat.sub_add_eq]

@[simp] theorem Loader.read_left (l : Loader) (bs : List Byte) : (l.read bs).left = l.left - bs.length := rfl
@[simp] theorem Loader.read_bytes (l : Loader) (bs : List Byte) : (l.read bs).bytes = l.bytes + bs.length := rfl
@[simp] theorem Loader.read_nodes (l : Loader) (bs : List Byte) : (l.read bs).nodes = l.nodes := rfl
@[simp] theorem Loader.read_bodyLength (l : Loader) (bs : List Byte) : (l.read bs).bodyLength = l.bodyLength := rfl

/-! ## Fields read in order (R180) -/

/-- A list of fields of a grid record, each with its bytes and the code it fails with. -/
abbrev Fields := List (List Byte × Option Nat)

/-- The bytes of a list of fields. -/
def fieldBytes (fs : Fields) : List Byte := fs.flatMap (fun f => f.1)

@[simp] theorem fieldBytes_nil : fieldBytes [] = [] := rfl
@[simp] theorem fieldBytes_cons (f : List Byte × Option Nat) (fs : Fields) : fieldBytes (f :: fs) = f.1 ++ fieldBytes fs := rfl
@[simp] theorem fieldBytes_append (a b : Fields) : fieldBytes (a ++ b) = fieldBytes a ++ fieldBytes b := by
  simp [fieldBytes]

/-- Every field passes. -/
def fieldsPass (fs : Fields) : Prop := ∀ f ∈ fs, f.2 = none

/-- Fields that pass, and that the section's length does not cut, are read, and the rest behind them. -/
theorem readFields_append {pre : Fields} (hp : fieldsPass pre) (rest : Fields) {l : Loader}
    (hl : (fieldBytes pre).length ≤ l.left) : readFields (pre ++ rest) l = readFields rest (l.read (fieldBytes pre)) := by
  induction pre generalizing l with
  | nil => rfl
  | cons f pre ih =>
    obtain ⟨bs, code⟩ := f
    obtain rfl : code = none := hp _ List.mem_cons_self
    simp only [fieldBytes_cons, List.length_append] at hl
    rw [List.cons_append, readFields, if_neg (by omega), ih (fun f hf => hp f (List.mem_cons_of_mem _ hf)) (by
      rw [Loader.read_left]; omega), Loader.read_append, fieldBytes_cons]

/-- Fields that all pass are read whole. -/
theorem readFields_pass {fs : Fields} (hp : fieldsPass fs) {l : Loader} (hl : (fieldBytes fs).length ≤ l.left) :
    readFields fs l = (l.read (fieldBytes fs), none) := by
  have h := readFields_append hp [] hl
  rw [List.append_nil] at h
  exact h

/-- A field behind others that pass fails the record with its code. -/
theorem readFields_fails {pre : Fields} (hp : fieldsPass pre) (bs : List Byte) (code : Nat) (rest : Fields) {l : Loader}
    (hl : (fieldBytes pre).length + bs.length ≤ l.left) :
    readFields (pre ++ (bs, some code) :: rest) l = (l.read (fieldBytes pre ++ bs), some code) := by
  rw [readFields_append hp _ (by omega), readFields, if_neg (by rw [Loader.read_left]; omega)]
  simp only [Loader.read_append]

/-- Fields that pass, but that the section's length cuts, fail with code 24. -/
theorem readFields_cut {fs : Fields} (hp : fieldsPass fs) {l : Loader} (hl : l.left < (fieldBytes fs).length) :
    ∃ bs, readFields fs l = (l.read bs, some 24) := by
  induction fs generalizing l with
  | nil => simp at hl
  | cons f fs ih =>
    obtain ⟨bs, code⟩ := f
    obtain rfl : code = none := hp _ List.mem_cons_self
    simp only [fieldBytes_cons, List.length_append] at hl
    rw [readFields]
    split
    · exact ⟨_, rfl⟩
    · obtain ⟨b, h⟩ := ih (fun f hf => hp f (List.mem_cons_of_mem _ hf)) (l := l.read bs) (by
        rw [Loader.read_left]; omega)
      exact ⟨bs ++ b, by rw [← Loader.read_append]; exact h⟩

/-! ## The fields of a grid record -/

/-- The contributor's station is one of the roster (R180). -/
def contributorSits (roster : StationSet) (x : ContributorBytes) : Prop :=
  x.station.toNat < 12 ∧ isMember roster x.station.toNat = true

/-- The contributor's share is in range, and its station one of the roster other than station `own` (R180). -/
def contributorGood (roster : StationSet) (own : Nat) (x : ContributorBytes) : Prop :=
  x.share.toNat ≤ 32768 ∧ contributorSits roster x ∧ x.station.toNat ≠ own

/-- The stations of a contributor list, the last first, as the fields behind it see them. -/
def seenStations (cs : List ContributorBytes) : List Nat := (cs.map (fun x => x.station.toNat)).reverse

theorem mem_seenStations {cs : List ContributorBytes} {x : ContributorBytes} :
    x.station.toNat ∈ seenStations cs ↔ x.station ∈ cs.map (fun y => y.station) := by
  simp [seenStations, BitVec.toNat_inj]

section
variable {roster : StationSet} {own : Nat}

/-- A contributor's station outside the roster fails with code 21 (R180). -/
theorem stationFailure_outside {x : ContributorBytes} (h : ¬ contributorSits roster x) (seen : List Nat) :
    stationFailure roster own seen x.station.toNat = some 21 := by
  refine if_pos ?_
  unfold contributorSits at h
  simp only [Bool.or_eq_true, decide_eq_true_eq, Bool.not_eq_true']
  by_contra hc
  simp only [not_or, Bool.not_eq_false] at hc
  exact h ⟨by omega, hc.2⟩

/-- One of the roster fails with code 22 or 23, where it is the own one or was listed before, and passes otherwise (R180). -/
theorem stationFailure_sits {x : ContributorBytes} (h : contributorSits roster x) (seen : List Nat) :
    stationFailure roster own seen x.station.toNat =
      if x.station.toNat = own then some 22 else if x.station.toNat ∈ seen then some 23 else none := by
  obtain ⟨hlt, hm⟩ := h
  simp [stationFailure, firstFailure, hm, Nat.not_lt.2 (Nat.le_of_lt_succ hlt)]

theorem shareFailure_none {x : BitVec 16} (h : x.toNat ≤ 32768) : shareFailure x = none := if_neg (Nat.not_lt.2 h)

theorem shareFailure_some {x : BitVec 16} (h : 32768 < x.toNat) : shareFailure x = some 19 := if_pos h

/-- The fields of a contributor list, of which some are read before the others. -/
theorem contributorFields_append (seen : List Nat) (a b : List ContributorBytes) :
    contributorFields roster own seen (a ++ b) =
      contributorFields roster own seen a ++ contributorFields roster own (seenStations a ++ seen) b := by
  induction a generalizing seen with
  | nil => rfl
  | cons x a ih => simp [contributorFields, ih, seenStations]

/-- A contributor takes 6 bytes (R180). -/
theorem length_contributorFields (seen : List Nat) (cs : List ContributorBytes) :
    (fieldBytes (contributorFields roster own seen cs)).length = 6 * cs.length := by
  induction cs generalizing seen with
  | nil => rfl
  | cons x cs ih =>
    simp only [contributorFields, fieldBytes_cons, List.length_append, ih, bytes16, bytes24, List.length_cons, List.length_nil]
    omega

/-- Distinct good contributors pass (R180). -/
theorem contributorFields_pass {cs : List ContributorBytes} (good : ∀ x ∈ cs, contributorGood roster own x)
    (distinct : (cs.map (fun x => x.station)).Nodup) {seen : List Nat} (fresh : ∀ x ∈ cs, x.station.toNat ∉ seen) :
    fieldsPass (contributorFields roster own seen cs) := by
  induction cs generalizing seen with
  | nil => exact fun _ h => nomatch h
  | cons x cs ih =>
    obtain ⟨share, sits, other⟩ := good x List.mem_cons_self
    obtain ⟨hx, hd⟩ := List.nodup_cons.1 distinct
    have station : stationFailure roster own seen x.station.toNat = none := by
      rw [stationFailure_sits sits, if_neg other, if_neg (fresh x List.mem_cons_self)]
    have rest := ih (fun y hy => good y (List.mem_cons_of_mem _ hy)) hd (seen := x.station.toNat :: seen) (by
      intro y hy hmem
      obtain he | hmem := List.mem_cons.1 hmem
      · exact hx (List.mem_map.2 ⟨y, hy, BitVec.eq_of_toNat_eq he⟩)
      · exact fresh y (List.mem_cons_of_mem _ hy) hmem)
    intro f hf
    simp only [contributorFields, List.mem_cons] at hf
    obtain rfl | rfl | rfl | hf := hf
    · exact station
    · exact shareFailure_none share
    · rfl
    · exact rest f hf

/-! ## The fixed fields of a record -/

variable {share : BitVec 16} {white black : BitVec 24} {count : BitVec 8}

/-- The fields of a grid record before its contributors (R180). -/
def fixedFields (share : BitVec 16) (white black : BitVec 24) (count : BitVec 8) : Fields :=
  [(bytes16 share, shareFailure share), (bytes24 white, none), (bytes24 black, none),
    ([count], if 3 < count.toNat then some 20 else none)]

theorem recordFields_eq (cs : List ContributorBytes) : recordFields roster own share white black count cs =
    fixedFields share white black count ++ contributorFields roster own [] cs := rfl

theorem length_fixedFields : (fieldBytes (fixedFields share white black count)).length = 9 := rfl

theorem fixedFields_pass (hs : share.toNat ≤ 32768) (hc : count.toNat ≤ 3) :
    fieldsPass (fixedFields share white black count) := by
  intro f hf
  simp only [fixedFields, List.mem_cons, List.not_mem_nil, or_false] at hf
  obtain rfl | rfl | rfl | rfl := hf
  · exact shareFailure_none hs
  · rfl
  · rfl
  · exact if_neg (Nat.not_lt.2 hc)

/-- A record takes 9 bytes and 6 for each contributor (R180). -/
theorem length_recordFields (cs : List ContributorBytes) :
    (fieldBytes (recordFields roster own share white black count cs)).length = 9 + 6 * cs.length := by
  rw [recordFields_eq, fieldBytes_append, List.length_append, length_fixedFields, length_contributorFields]

theorem recordFields_pass {cs : List ContributorBytes} (hs : share.toNat ≤ 32768) (hc : count.toNat ≤ 3)
    (good : ∀ x ∈ cs, contributorGood roster own x) (distinct : (cs.map (fun x => x.station)).Nodup) :
    fieldsPass (recordFields roster own share white black count cs) := by
  intro f hf
  rw [recordFields_eq] at hf
  obtain hf | hf := List.mem_append.1 hf
  · exact fixedFields_pass hs hc f hf
  · exact contributorFields_pass good distinct (fun _ _ => List.not_mem_nil) f hf

/-- A share above 32768 fails the record with code 19. -/
theorem readFields_share (hs : 32768 < share.toNat) (cs : List ContributorBytes) {l : Loader} (hl : 9 ≤ l.left) :
    ∃ bs, readFields (recordFields roster own share white black count cs) l = (l.read bs, some 19) := by
  have h := readFields_fails (pre := []) (fun _ h => nomatch h) (bytes16 share) 19
    ((bytes24 white, none) :: (bytes24 black, none) :: ([count], if 3 < count.toNat then some 20 else none)
      :: contributorFields roster own [] cs) (l := l) (by simp [bytes16]; omega)
  unfold recordFields
  rw [shareFailure_some hs]
  exact ⟨_, h⟩

/-- A count above 3 fails the record with code 20. -/
theorem readFields_count (hs : share.toNat ≤ 32768) (hc : 3 < count.toNat) (cs : List ContributorBytes) {l : Loader}
    (hl : 9 ≤ l.left) :
    ∃ bs, readFields (recordFields roster own share white black count cs) l = (l.read bs, some 20) := by
  have pass : fieldsPass [(bytes16 share, shareFailure share), (bytes24 white, none), (bytes24 black, none)] := by
    simp [fieldsPass, shareFailure_none hs]
  have h := readFields_fails pass [count] 20 (contributorFields roster own [] cs) (l := l) (by
    simp [bytes16, bytes24]; omega)
  unfold recordFields
  rw [if_pos hc]
  exact ⟨_, h⟩

/-- A contributor whose station fails behind others that pass fails the record with the station's code. -/
theorem readFields_station {before behind : List ContributorBytes} {x : ContributorBytes} (hs : share.toNat ≤ 32768)
    (hc : count.toNat ≤ 3) (good : ∀ y ∈ before, contributorGood roster own y) (distinct : (before.map (fun y => y.station)).Nodup)
    {code : Nat} (hx : stationFailure roster own (seenStations before) x.station.toNat = some code) {l : Loader}
    (hl : 9 + 6 * (before ++ x :: behind).length ≤ l.left) :
    ∃ bs, readFields (recordFields roster own share white black count (before ++ x :: behind)) l =
      (l.read bs, some code) := by
  have h := readFields_fails (recordFields_pass (white := white) (black := black) hs hc good distinct) [x.station] code
    ((bytes16 x.share, shareFailure x.share) :: (bytes24 x.black, none) ::
      contributorFields roster own (x.station.toNat :: seenStations before) behind) (l := l) (by
    rw [length_recordFields]
    simp only [List.length_append, List.length_cons, List.length_nil] at hl ⊢
    omega)
  rw [recordFields_eq, contributorFields_append, List.append_nil, contributorFields, hx, ← List.append_assoc,
    ← recordFields_eq]
  exact ⟨_, h⟩

/-- A contributor whose share fails behind a station and others that pass fails the record with code 19. -/
theorem readFields_contributorShare {before behind : List ContributorBytes} {x : ContributorBytes}
    (hs : share.toNat ≤ 32768) (hc : count.toNat ≤ 3) (good : ∀ y ∈ before, contributorGood roster own y)
    (distinct : (before.map (fun y => y.station)).Nodup)
    (hx : stationFailure roster own (seenStations before) x.station.toNat = none) (hshare : 32768 < x.share.toNat)
    {l : Loader} (hl : 9 + 6 * (before ++ x :: behind).length ≤ l.left) :
    ∃ bs, readFields (recordFields roster own share white black count (before ++ x :: behind)) l =
      (l.read bs, some 19) := by
  have pass : fieldsPass (recordFields roster own share white black count before ++ [([x.station], none)]) := by
    intro f hf
    obtain hf | hf := List.mem_append.1 hf
    · exact recordFields_pass hs hc good distinct f hf
    · rw [List.mem_singleton.1 hf]
  have h := readFields_fails pass (bytes16 x.share) 19 ((bytes24 x.black, none) ::
      contributorFields roster own (x.station.toNat :: seenStations before) behind) (l := l) (by
    rw [fieldBytes_append, List.length_append, length_recordFields]
    simp only [List.length_append, List.length_cons, List.length_nil, fieldBytes_cons, fieldBytes_nil, bytes16] at hl ⊢
    omega)
  rw [List.append_assoc, List.singleton_append] at h
  rw [recordFields_eq, contributorFields_append, List.append_nil, contributorFields, hx, shareFailure_some hshare,
    ← List.append_assoc, ← recordFields_eq]
  exact ⟨_, h⟩

end

/-! ## The end of a record -/

section
variable {k : Nat} {l : Loader} {bs : List Byte} (hl : bs.length ≤ l.left)
include hl

/-- The section must end exactly at the last node's record (R176). -/
theorem recordEndFailure_ends (h : ¬(k = l.nodes ↔ l.left = bs.length)) : recordEndFailure k (l.read bs) = some 24 := by
  refine if_pos ?_
  have left : l.left - bs.length = 0 ↔ l.left = bs.length := by omega
  simp only [Loader.read_nodes, Loader.read_left, bne_iff_ne, ne_eq, left]
  exact mt decide_eq_decide.1 h

/-- The body must end with the section (R180). -/
theorem recordEndFailure_of_ends (h : k = l.nodes ↔ l.left = bs.length) : recordEndFailure k (l.read bs) =
    if l.left = bs.length ∧ l.bytes + l.left < 16 + l.bodyLength then some 4 else none := by
  have left : l.left - bs.length = 0 ↔ l.left = bs.length := by omega
  have both : (l.left = bs.length ∧ l.bytes + bs.length < 16 + l.bodyLength) ↔
      (l.left = bs.length ∧ l.bytes + l.left < 16 + l.bodyLength) := by
    constructor <;> rintro ⟨he, hlt⟩ <;> exact ⟨he, by omega⟩
  simp [recordEndFailure, firstFailure, left, h, both]

end

/-! ## GRID_RECORD_CHECK -/

/-- The state `t` is one in which the load has failed with code `k`, at settings and an agreement unit as in `s` (R174, R182). -/
def LoadFailed (k : Nat) (s t : State) : Prop := t.ctl.condition = .halted ∧ t.loader.state = .failed ∧
  t.loader.code = some k ∧ t.line.running = true ∧ t.settings = s.settings ∧ t.agr = s.agr

theorem failLoad_loadFailed (k : Nat) {s u : State} (hs : u.settings = s.settings) (ha : u.agr = s.agr) :
    LoadFailed k s (takeReports (failLoad k u)) := by
  unfold LoadFailed
  simp only [takeReports_ctl, takeReports_loader, takeReports_line, takeReports_settings, takeReports_agr]
  exact ⟨rfl, rfl, rfl, rfl, hs, ha⟩

section
variable {share : BitVec 16} {white black : BitVec 24} {count : BitVec 8} {cs : List ContributorBytes} {s : State}
  (reading : readingSection 7 0 s = true)
include reading

/-- A record that fails at a field fails the load with the field's code. -/
theorem execGridRecordCheck_fails {l : Loader} {k : Nat}
    (h : readFields (recordFields s.loader.roster s.own share white black count cs) s.loader = (l, some k)) :
    ∃ t, exec (.gridRecordCheck share white black count cs) s = .next t ∧ LoadFailed k s t := by
  refine ⟨takeReports (failLoad k (s.withLoader l)), ?_, failLoad_loadFailed k rfl rfl⟩
  simp [exec, execGridRecordCheck, finish, reading, h]

/-- A record whose fields pass is kept, and the load goes on or fails with what is found at its end. -/
theorem execGridRecordCheck_kept {l : Loader}
    (h : readFields (recordFields s.loader.roster s.own share white black count cs) s.loader = (l, none)) :
    exec (.gridRecordCheck share white black count cs) s = .next (takeReports (failLoadIf
      (recordEndFailure (s.pix.grid.length + 1) l) ((s.withLoader l.endSection).withPix
        { s.pix with grid := s.pix.grid ++ [nodeRecordOf share white black cs] }))) := by
  simp [exec, execGridRecordCheck, finish, reading, h]

end

theorem readingSection_mono {n a b : Nat} (h : a ≤ b) {s : State} (hs : readingSection n b s = true) :
    readingSection n a s = true ∧ b ≤ s.loader.left ∧ s.loader.state = .readingBody := by
  simp only [readingSection, Bool.and_eq_true, decide_eq_true_eq, beq_iff_eq] at hs ⊢
  obtain ⟨rest, hb⟩ := hs
  exact ⟨⟨rest, h.trans hb⟩, hb, rest.1.1.2⟩

/-- Settles O21: the fields are read in order up to the first that fails, and a record that passes is judged at its end. -/
theorem gridRecordKept : Obligations.GridRecordKept := by
  intro share white black count cs s settled hread
  obtain ⟨reading, nine, body⟩ := readingSection_mono (Nat.zero_le 9) hread
  intro c bytes sits good inOrder ends goesOn fails
  have failsAt : ∀ k, (∃ bs, readFields (recordFields s.loader.roster s.own share white black count cs) s.loader =
      (s.loader.read bs, some k)) → fails k := fun k ⟨_, h⟩ => execGridRecordCheck_fails reading h
  have pass : inOrder → fieldsPass (recordFields s.loader.roster s.own share white black count cs) :=
    fun ⟨hs, hc, hg, hd⟩ => recordFields_pass hs hc hg hd
  have size := length_recordFields (roster := s.loader.roster) (own := s.own) (share := share) (white := white)
    (black := black) (count := count) cs
  have whole : inOrder → bytes ≤ s.loader.left → _ := fun ho hb =>
    execGridRecordCheck_kept reading (readFields_pass (pass ho) (by rw [size]; exact hb))
  refine ⟨fun ho hb he hg => ?_, fun hs => failsAt 19 (readFields_share hs cs nine),
    fun hs hc => failsAt 20 (readFields_count hs hc cs nine), ?_,
    fun ho hb => failsAt 24 (readFields_cut (pass ho) (by rw [size]; exact hb)), fun ho hb he => ?_, fun ho hb he hg => ?_⟩
  · have atEnd : recordEndFailure (s.pix.grid.length + 1) _ = none :=
      (recordEndFailure_of_ends (size.trans_le hb) (by rw [size]; exact he)).trans (by rw [size]; exact if_neg hg)
    have run := whole ho hb
    rw [atEnd, failLoadIf, takeReports_of_settled (by exact settled)] at run
    refine ⟨_, run, rfl, ?_, ?_, body, ?_, rfl⟩
    · exact congrArg (s.loader.bytes + ·) size
    · exact congrArg (s.loader.left - ·) size
    · show decide (s.loader.left - _ ≠ 0) = _
      rw [size]
      exact decide_eq_decide.2 (by omega)
  · rintro before x behind hs hc rfl hb hg hd
    have hl : 9 + 6 * (before ++ x :: behind).length ≤ s.loader.left := hb
    refine ⟨fun hx => ?_, fun hx hown => ?_, fun hx hown hm => ?_, fun hx hown hm hshare => ?_⟩
    · exact failsAt 21 (readFields_station hs hc hg hd (stationFailure_outside hx _) hl)
    · exact failsAt 22 (readFields_station hs hc hg hd ((stationFailure_sits hx _).trans (if_pos hown)) hl)
    · refine failsAt 23 (readFields_station hs hc hg hd ?_ hl)
      rw [stationFailure_sits hx, if_neg hown, if_pos (mem_seenStations.2 hm)]
    · refine failsAt 19 (readFields_contributorShare hs hc hg hd ?_ hshare hl)
      rw [stationFailure_sits hx, if_neg hown, if_neg (mt mem_seenStations.1 hm)]
  · have run := whole ho hb
    rw [recordEndFailure_ends (size.trans_le hb) (by rw [size]; exact he)] at run
    exact ⟨_, run, failLoad_loadFailed 24 rfl rfl⟩
  · have run := whole ho hb
    rw [recordEndFailure_of_ends (size.trans_le hb) (by rw [size]; exact he), if_pos (by rw [size]; exact hg)] at run
    exact ⟨_, run, failLoad_loadFailed 4 rfl rfl⟩

end Sys2Proof.Machine
end

section
/-!
PROOFS. The frame setup and the codes that follow from it (O31).
-/
namespace Sys2Proof.Machine

/-! ## The frame setup (R151) -/

/-- The state `t` keeps of `s` the frame store but for the MEMORY_ECC mark, the pixel path, the loader, the settings, the
maintenance port and the queue, as the parts of a frame start before the selection do. -/
def KeepsPicture (s t : State) : Prop := ∃ b k a y l p n w x, t = { s with
  store := { s.store with eccReported := b }
  ctl := k, agr := a, sol := y, line := l, port := p, link := n, light := w, faults := x }

theorem KeepsPicture.trans {s t u : State} (h : KeepsPicture s t) (g : KeepsPicture t u) : KeepsPicture s u := by
  obtain ⟨b, k, a, y, l, p, n, w, x, rfl⟩ := h
  obtain ⟨b', k', a', y', l', p', n', w', x', rfl⟩ := g
  exact ⟨b', k', a', y', l', p', n', w', x', rfl⟩

theorem beforeSelection_keepsPicture (first : Stamp) (joining : Bool) (old : FrameNo) (s : State) : KeepsPicture s
    (frameJobs (frameChanges (frameAgreement joining old (frameCounts (rasterFrameStart first (endFrameReads s)))))) := by
  have ended : KeepsPicture s (endFrameReads s) := by
    obtain ⟨b, x, h⟩ := endFrameReads_frame s
    exact ⟨b, _, _, _, _, _, _, _, _, h⟩
  have raster : ∀ t, KeepsPicture t (rasterFrameStart first t) := fun t => by
    obtain ⟨x, h⟩ := rasterFrameStart_frame first t
    exact ⟨t.store.eccReported, _, _, _, _, _, _, _, _, h⟩
  have counts : ∀ t, KeepsPicture t (frameCounts t) := fun t => by
    obtain ⟨p, n, x, h⟩ := frameCounts_frame t
    exact ⟨t.store.eccReported, _, _, _, _, _, _, _, _, h⟩
  have agreement : ∀ t, KeepsPicture t (frameAgreement joining old t) := fun t => by
    obtain ⟨a, y, k, x, h⟩ := frameAgreement_frame joining old t
    exact ⟨t.store.eccReported, _, _, _, _, _, _, _, _, h⟩
  have changes : ∀ t, KeepsPicture t (frameChanges t) := fun t => by
    obtain ⟨e, y, p, w, x, h⟩ := frameChanges_frame t
    exact ⟨t.store.eccReported, _, _, _, _, _, _, _, _, h⟩
  have jobs : ∀ t, KeepsPicture t (frameJobs t) := fun t => by
    obtain ⟨e, y, p, x, h⟩ := frameJobs_frame t
    exact ⟨t.store.eccReported, _, _, _, _, _, _, _, _, h⟩
  exact ((((ended.trans (raster _)).trans (counts _)).trans (agreement _)).trans (changes _)).trans (jobs _)

/-- A selection leaves the frame memory and its errors (R143 to R147). -/
theorem selectContent_memory (s : State) :
    (selectContent s).store.memory = s.store.memory ∧ (selectContent s).store.errors = s.store.errors := by
  unfold selectContent
  simp only [reportIf_store, State.withStore_store]
  split <;> exact ⟨rfl, rfl⟩

/-- The setup's part of O31: the setup is taken from what each owner holds once the other parts of the frame start are done. -/
theorem frameStart_setup {first : Stamp} {s : State} (hw : s.working = true) (hr : s.line.running = true) :
    ∃ t, exec (.frameStart first) s = .next t ∧
      t.pix.setup = some
        { frame := t.line.frameNo, patchOn := decide (t.line.frameNo.toNat % 8 < 4), identify := t.agr.onFrame
          condition := t.ctl.condition, bank := t.sol.activeNo, m := t.agr.fade.m, source := t.store.showing } ∧
      t.store.memory = s.store.memory ∧ t.store.errors = s.store.errors ∧ t.pix.mesh = s.pix.mesh ∧
      t.pix.grid = s.pix.grid ∧
      t = { s with ctl := t.ctl, agr := t.agr, sol := t.sol, line := t.line, port := t.port, link := t.link
                   store := t.store, pix := t.pix, light := t.light, faults := t.faults } := by
  refine ⟨_, exec_frameStart hw hr, ?_⟩
  obtain ⟨b, k, a, y, l, p, n, w, x, hu⟩ :=
    beforeSelection_keepsPicture first (s.ctl.condition == .joining) s.line.frameNo s
  rw [hu]
  generalize hv : ({ s with
    store := { s.store with eccReported := b }
    ctl := k, agr := a, sol := y, line := l, port := p, link := n, light := w, faults := x } : State) = v
  obtain ⟨z, x', hs⟩ := selectContent_frame v
  obtain ⟨hm, he⟩ := selectContent_memory v
  obtain ⟨x'', ht⟩ := takeReports_frame (setupStep (selectContent v))
  have memory : v.store.memory = s.store.memory ∧ v.store.errors = s.store.errors := by rw [← hv]; exact ⟨rfl, rfl⟩
  have setup : (takeReports (setupStep (selectContent v))).store = { (selectContent v).store with eccReported := false } := by
    rw [takeReports_store]
    rfl
  refine ⟨?_, ?_, ?_, ?_, ?_, ?_⟩
  · rw [ht]
    rfl
  · rw [setup]
    exact hm.trans memory.1
  · rw [setup]
    exact he.trans memory.2
  all_goals rw [ht, setupStep_frame, hs, ← hv]

/-! ## Blends and drives (R18, R20) -/

/-- A quotient by an even divisor, rounded to nearest, halves up (00, rounding). -/
theorem roundDiv_even (n k : Nat) : roundDiv n (2 * k) = (n + k) / (2 * k) := by
  rw [roundDiv, ← Nat.mul_add, Nat.mul_div_mul_left _ _ (by decide)]

/-- An unsigned blend is the weighted sum of the four nodes around the pixel, over 256, halves up (R18). -/
theorem blend_eq (g : Nat → Nat → Nat) (x y : Nat) : blend g x y =
    ((16 - x % 16) * (16 - y % 16) * g (x / 16) (y / 16) + (x % 16) * (16 - y % 16) * g (x / 16 + 1) (y / 16) +
      (16 - x % 16) * (y % 16) * g (x / 16) (y / 16 + 1) + (x % 16) * (y % 16) * g (x / 16 + 1) (y / 16 + 1) + 128) / 256 := by
  unfold blend blendSum
  dsimp only
  norm_cast
  exact roundDiv_even _ 128

/-- The drive of one colour with its quotient written out (R20). -/
theorem driveOf_eq (k a m l : Nat) : driveOf k a m l = min 32768 (k + (m * a * l + 67108864) / 134217728) := by
  rw [driveOf, show 134217728 = 2 * 67108864 from rfl, roundDiv_even]

/-- The patch rectangle (R159). -/
theorem inPatch_iff (st : Settings) (x y : Nat) : inPatch st x y = true ↔
    (st.patchLeft ≤ x ∧ x < st.patchLeft + st.patchWidth) ∧ (st.patchTop ≤ y ∧ y < st.patchTop + st.patchHeight) := by
  simp only [inPatch, decide_eq_true_eq, and_assoc]

/-- The codes outside JOINING, LIVE and DARK are raw code 0 (R158). -/
theorem pixelCodes_of_not_working {s : State} (h : s.working = false) (x y : Nat) : pixelCodes s x y = ⟨0, 0, 0⟩ := by
  simp [pixelCodes, h]

/-- The codes of a working station are those of its setup. -/
theorem pixelCodes_of_setup {s : State} {f : Setup} (hw : s.working = true) (hf : s.pix.setup = some f) (x y : Nat) :
    pixelCodes s x y = setupCodes s f x y := by
  simp [pixelCodes, hw, hf]

/-- The codes are the drives through the output table (R21). -/
theorem setupCodes_of_drive {s : State} {f : Setup} {x y red green blue : Nat}
    (h : pixelDrive s f x y = ⟨red, green, blue⟩) : setupCodes s f x y =
      ⟨outputCode s.pix.output red, outputCode s.pix.output green, outputCode s.pix.output blue⟩ := by
  simp [setupCodes, h]

/-! ## The picture value (R154 to R156) -/

/-- A blend of four equal parts of weight 0 but for the first is the first (R156). -/
theorem blend64_exact (ul ur ll lr : Nat) : blend64 0 0 ul ur ll lr = ul := by
  unfold blend64 roundDiv
  omega

/-- Without a source the picture value is 0 (R148). -/
theorem pixelLinear_none (s : State) (x y : Nat) : pixelLinear s none x y = ⟨0, 0, 0⟩ := by
  simp [pixelLinear, neighbour, blend64, roundDiv]

/-- At a position on a source pixel the picture value is that neighbour's alone (R156). -/
theorem pixelLinear_exact {s : State} {x y : Nat} {column line : Int} (hx : sourceX s x y = 8 * column)
    (hy : sourceY s x y = 8 * line) (source : Option Nat) : pixelLinear s source x y = neighbour s source column line := by
  have column8 : Int.fdiv (8 * column) 8 = column := Int.mul_fdiv_cancel_left column (by decide)
  have line8 : Int.fdiv (8 * line) 8 = line := Int.mul_fdiv_cancel_left line (by decide)
  simp [pixelLinear, hx, hy, column8, line8, blend64_exact]

/-- A neighbour inside the source frame whose word can be corrected gives its codes' linear values (R155). -/
theorem neighbour_inside {s : State} {slot : Nat} {column line : Int}
    (hin : (0 ≤ column ∧ column < s.settings.inWidth) ∧ (0 ≤ line ∧ line < s.settings.inHeight))
    (he : pixelAddress slot line.toNat column.toNat ∉ s.store.errors) : neighbour s (some slot) column line =
      linearOf s.pix (memRead s.store.memory (pixelAddress slot line.toNat column.toNat)) := by
  have inside : insideSource s.settings column line = true :=
    decide_eq_true ⟨hin.1.1, hin.1.2, hin.2.1, hin.2.2⟩
  simp [neighbour, inside, he]

/-- A neighbour outside the source frame, or whose word cannot be corrected, gives 0 (R149, R154). -/
theorem neighbour_outside {s : State} {slot : Nat} {column line : Int}
    (h : ¬((0 ≤ column ∧ column < s.settings.inWidth) ∧ (0 ≤ line ∧ line < s.settings.inHeight)) ∨
      pixelAddress slot line.toNat column.toNat ∈ s.store.errors) : neighbour s (some slot) column line = ⟨0, 0, 0⟩ := by
  refine if_neg fun hc => ?_
  simp only [Bool.and_eq_true, Bool.not_eq_true', List.contains_eq_mem, decide_eq_false_iff_not, insideSource,
    decide_eq_true_eq] at hc
  obtain ⟨⟨c0, c1, l0, l1⟩, he⟩ := hc
  exact h.elim (fun ho => ho ⟨⟨c0, c1⟩, l0, l1⟩) he

/-- Settles O31: the setup by `frameStart_setup`, the codes by the cases of R157 in order, and the picture value at a source pixel
by `pixelLinear_exact`. -/
theorem frameSetupTaken : Obligations.FrameSetupTaken := by
  refine ⟨fun first s hw hr => frameStart_setup hw hr,
    fun s x y => ⟨fun h => pixelCodes_of_not_working h x y, fun f hw hf => ?_⟩,
    fun s x y => ⟨pixelLinear_none s x y, fun slot column line hx hy => ⟨fun hin he => ?_, fun h => ?_⟩⟩⟩
  · intro st patch sends blended
    have codes : ∀ {red green blue}, pixelDrive s f x y = ⟨red, green, blue⟩ → sends red green blue :=
      fun h => (pixelCodes_of_setup hw hf x y).trans (setupCodes_of_drive h)
    have inside : patch → inPatch s.settings x y = true := (inPatch_iff st x y).2
    have outside : ¬patch → inPatch s.settings x y = false := fun h => Bool.eq_false_iff.2 (mt (inPatch_iff st x y).1 h)
    refine ⟨fun hp ho => codes ?_, fun hp ho => codes ?_, fun hp hi => ⟨_, rfl, codes ?_⟩, fun hp hi hc => codes ?_,
      fun hp hi hc => codes ?_⟩
    · simp [pixelDrive, inside hp, ho]
    · simp [pixelDrive, inside hp, ho]
    · have half : ∀ n, roundDiv n 2 = (n + 1) / 2 := fun n => roundDiv_even n 1
      simp [pixelDrive, outside hp, hi, half, blend_eq, blended]
    · simp [pixelDrive, outside hp, hi, hc]
    · simp [pixelDrive, outside hp, hi, hc, driveOf_eq, blend_eq, blended]
  · rw [pixelLinear_exact hx hy, neighbour_inside hin he]
    rfl
  · rw [pixelLinear_exact hx hy, neighbour_outside h]

end Sys2Proof.Machine
end

section
/-!
PROOFS. A frame start up to its jobs, with one record pending that is not due.
-/
namespace Sys2Proof.Machine

/-! ## A frame start with one record that is not due -/

/-- The last bounds of every station through a change of the peer records that keeps them. -/
theorem bounds_onPeers (a : Agreement) (own : Nat) {f : Nat → PeerRecord → PeerRecord}
    (hf : ∀ i r, (f i r).bounds = r.bounds) (i : Nat) : ((a.onPeers own f).peer i).bounds = (a.peer i).bounds := by
  simp only [Agreement.peer, Agreement.onPeers, List.getD_eq_getElem?_getD, List.getElem?_mapIdx]
  cases a.peers[i]? with
  | none => rfl
  | some r =>
    simp only [Option.map_some, Option.getD_some]
    split
    · rfl
    · exact hf i r

theorem bounds_onPeer (a : Agreement) (j : Nat) {f : PeerRecord → PeerRecord} (hf : ∀ r, (f r).bounds = r.bounds)
    (i : Nat) : ((a.onPeer j f).peer i).bounds = (a.peer i).bounds := by
  simp only [Agreement.peer, Agreement.onPeer, List.getD_eq_getElem?_getD, List.getElem?_modify]
  cases a.peers[i]? with
  | none => rfl
  | some r =>
    rw [Option.map_eq_map, Option.map_some, Option.getD_some, Option.getD_some]
    split
    · exact hf r
    · rfl

/-- With no record due, no record takes effect (R44). -/
theorem applyDue_of_none {old : FrameNo} {s : State} (h : ∀ r ∈ s.agr.epochs, isDue old s.current r = false) :
    applyDue old s = s := by
  have due : s.agr.epochs.filter (isDue old s.current) = [] :=
    List.filter_eq_nil_iff.2 fun r hr => by rw [h r hr]; decide
  have kept : s.agr.epochs.filter (fun r => !isDue old s.current r) = s.agr.epochs :=
    List.filter_eq_self.2 fun r hr => by rw [h r hr]; rfl
  unfold applyDue
  dsimp only
  rw [due, kept]
  rfl

/-- The show state leaves the records and the peer table. -/
theorem identifyFadeFrameStart_frame (old new : FrameNo) (a : Agreement) :
    (identifyFrameStart new (fadeFrameStart old new a)).epochs = a.epochs ∧
      (identifyFrameStart new (fadeFrameStart old new a)).peers = a.peers := by
  obtain ⟨f, p, d, h⟩ := fadeFrameStart_frame old new a
  rw [h]
  exact ⟨rfl, rfl⟩

/-- The agreement part of a frame start leaves the self-silence count where no record is due. -/
theorem frameAgreement_selfSilence {joining : Bool} {old : FrameNo} {s : State}
    (h : applyDue old (lateSwapStep (viewStep joining old s)) = lateSwapStep (viewStep joining old s)) :
    (frameAgreement joining old s).ctl.selfSilence = s.ctl.selfSilence := by
  obtain ⟨v, ps, x, hr⟩ := foldl_repairPeer_frame (if joining then [] else repairDue s)
    (lateSwapStep (viewStep joining old s))
  obtain ⟨y, hy⟩ := lateSwapStep_frame (viewStep joining old s)
  unfold frameAgreement
  dsimp only
  rw [h, hr, hy]
  unfold showStep dwellStep lightSourceStep
  cases joining <;> simp only [Bool.false_eq_true, if_false, if_true] <;> split <;> rfl

/-- The held late swap, as a change of the solver (R75). -/
theorem lateSwapStep_sol (s : State) : (lateSwapStep s).sol = s.sol ∨
    ∃ n, s.sol.readyFor n = true ∧ (lateSwapStep s).sol = { s.sol.swap with lateSwap := none } := by
  unfold lateSwapStep
  split
  · exact .inl rfl
  · split
    · exact .inr ⟨_, ‹_›, rfl⟩
    · exact .inl rfl

/-- Below the timeout self-silence enters no change (R37). -/
theorem selfSilenceStep_below {s : State} (h : s.ctl.selfSilence < s.settings.silenceTimeout) : selfSilenceStep s = s :=
  if_neg fun hc => absurd hc.2.1 (not_le.2 h)

/-- What stands before the jobs of a frame start with one record `r` that is not due and no self-silence. -/
structure BeforeJobs (r : EpochRecord) (s u : State) : Prop where
  epochs : u.agr.epochs = [r]
  bounds : ∀ i, (u.agr.peer i).bounds = (s.agr.peer i).bounds
  own : u.own = s.own
  sol : u.sol = s.sol ∨ ∃ n, s.sol.readyFor n = true ∧ u.sol = { s.sol.swap with lateSwap := none }

/-- The agreement part of a frame start and its changes leave the one record that is not due, every station's last bounds, and the
solver but for a late swap. -/
theorem frameChanges_beforeJobs {r : EpochRecord} {s : State} (joining : Bool) {old : FrameNo}
    (he : s.agr.epochs = [r]) (hd : isDue old s.current r = false)
    (hs : s.ctl.selfSilence < s.settings.silenceTimeout) :
    BeforeJobs r s (frameChanges (frameAgreement joining old s)) := by
  have noneDue : ∀ t : State, t.line = s.line → t.agr.epochs = [r] → applyDue old t = t := fun t hl ht => by
    refine applyDue_of_none fun x hx => ?_
    rw [ht, List.mem_singleton] at hx
    rw [hx, State.current, hl]
    exact hd
  have swapLine : (lateSwapStep (viewStep joining old s)).line = s.line ∧
      (lateSwapStep (viewStep joining old s)).agr.epochs = [r] := by
    obtain ⟨y, hy⟩ := lateSwapStep_frame (viewStep joining old s)
    rw [hy]
    cases joining <;> exact ⟨rfl, he⟩
  have quiet := noneDue _ swapLine.1 swapLine.2
  obtain ⟨a, y, k, x, hf⟩ := frameAgreement_frame joining old s
  have agr : (frameAgreement joining old s).agr.epochs = [r] ∧
      ∀ i, ((frameAgreement joining old s).agr.peer i).bounds = (s.agr.peer i).bounds := by
    refine frameAgreement_agr (P := fun b => b.epochs = [r] ∧ ∀ i, (b.peer i).bounds = (s.agr.peer i).bounds) joining
      (fun _ _ h => h) (fun b own f hf h => ⟨h.1, fun i => (bounds_onPeers b own hf i).trans (h.2 i)⟩)
      (fun b j f hf h => ⟨h.1, fun i => (bounds_onPeer b j hf i).trans (h.2 i)⟩)
      (fun t hl h => by rw [noneDue t hl h.1]; exact h) (fun b h => ?_) ⟨he, fun _ => rfl⟩
    obtain ⟨epochs, peers⟩ := identifyFadeFrameStart_frame old s.current b
    refine ⟨epochs.trans h.1, fun i => ?_⟩
    rw [Agreement.peer, peers]
    exact h.2 i
  have sol : (frameAgreement joining old s).sol = (lateSwapStep (viewStep joining old s)).sol := by
    rw [frameAgreement_sol, quiet]
  have silence := frameAgreement_selfSilence quiet
  obtain ⟨u, ⟨p, w, z, hu⟩, ca, cs⟩ := frameChanges_core (frameAgreement joining old s)
  have still : selfSilenceStep u = u := by
    refine selfSilenceStep_below ?_
    have hc : u.ctl.selfSilence = s.ctl.selfSilence := by rw [hu]; exact silence
    have hset : u.settings = s.settings := by rw [hu, hf]
    rw [hc, hset]
    exact hs
  rw [still] at ca cs
  obtain ⟨e', y', p', w', x', hch⟩ := frameChanges_frame (frameAgreement joining old s)
  refine ⟨?_, fun i => ?_, ?_, ?_⟩
  · rw [ca, hu]
    exact agr.1
  · rw [ca, hu]
    exact agr.2 i
  · rw [State.own, hch, hf]
    rfl
  · have viewed : (viewStep joining old s).sol = s.sol := by cases joining <;> rfl
    rw [cs, hu]
    show (frameAgreement joining old s).sol = s.sol ∨ ∃ n, s.sol.readyFor n = true ∧
      (frameAgreement joining old s).sol = { s.sol.swap with lateSwap := none }
    rw [sol, ← viewed]
    exact lateSwapStep_sol _

end Sys2Proof.Machine
end

section
/-!
PROOFS. The table, the reports and the coefficient job of a cut, and the solver's choice behind it.
-/
namespace Sys2Proof.Machine

/-! ## The table of a cut -/

/-- The pair a station contributes to a cut: its received pair, or else its last bounds as a stand-in (R12, R53). -/
theorem cutEntry_eq_some {a : Agreement} {r : EpochRecord} (hnd : (r.bounds.map (fun e => e.station)).Nodup) {i : Nat}
    {e : BoundsEntry} : cutEntry a r i = some e ↔ e.station = i ∧ ((e ∈ r.bounds ∧ e.received = true) ∨
      ((∀ y ∈ r.bounds, y.station = i → y.received = false) ∧ e.received = false ∧
        (a.peer i).bounds.map (fun b => (b.floor, b.ceiling)) = some (e.floor, e.ceiling))) := by
  unfold cutEntry
  split
  · rename_i e' h
    have hmem := List.mem_of_find?_eq_some h
    have hp := List.find?_some h
    simp only [Bool.and_eq_true, beq_iff_eq] at hp
    obtain ⟨hs, hrec⟩ := hp
    constructor
    · rintro he
      obtain rfl := Option.some.inj he
      exact ⟨hs, .inl ⟨hmem, hrec⟩⟩
    · rintro ⟨he, ⟨hm, -⟩ | ⟨hnone, -⟩⟩
      · rw [List.inj_on_of_nodup_map hnd hmem hm (hs.trans he.symm)]
      · exact absurd (hnone e' hmem hs) (by rw [hrec]; decide)
  · rename_i h
    have unreceived : ∀ y ∈ r.bounds, y.station = i → y.received = false := fun y hy hs => by
      simpa [hs] using List.find?_eq_none.1 h y hy
    constructor
    · intro he
      obtain ⟨b, hb, rfl⟩ := Option.map_eq_some_iff.1 he
      exact ⟨rfl, .inr ⟨unreceived, rfl, by rw [hb]; rfl⟩⟩
    · rintro ⟨rfl, ⟨hm, hrec⟩ | ⟨-, hrec, hb⟩⟩
      · exact absurd (unreceived e hm rfl) (by rw [hrec]; decide)
      · obtain ⟨b, hb, hpair⟩ := Option.map_eq_some_iff.1 hb
        obtain ⟨hf, hc⟩ := Prod.mk.inj hpair
        rw [hb, Option.map_some, hf, hc, ← hrec]

/-- The table of a cut: the pairs of the stations live at the epoch (R53). -/
theorem mem_cutTable {a : Agreement} {r : EpochRecord} (hnd : (r.bounds.map (fun e => e.station)).Nodup)
    {e : BoundsEntry} : e ∈ cutTable a r ↔ e.station < 12 ∧ isMember (projectLive a r.frame) e.station = true ∧
      ((e ∈ r.bounds ∧ e.received = true) ∨ ((∀ y ∈ r.bounds, y.station = e.station → y.received = false) ∧
        e.received = false ∧ (a.peer e.station).bounds.map (fun b => (b.floor, b.ceiling)) = some (e.floor, e.ceiling))) := by
  simp only [cutTable, List.mem_filterMap, List.mem_filter, List.mem_range, cutEntry_eq_some hnd]
  constructor
  · rintro ⟨i, ⟨hi, hm⟩, rfl, h⟩
    exact ⟨hi, hm, h⟩
  · rintro ⟨hi, hm, h⟩
    exact ⟨_, ⟨hi, hm⟩, rfl, h⟩

/-- The live view projected to the epoch of the only record pending is that with its memberships (R49). -/
theorem projectLive_single {a : Agreement} {r : EpochRecord} (h : a.epochs = [r]) :
    projectLive a r.frame = applyMemberships a.live r.states := by
  simp [projectLive, h, notAfter]

/-! ## Reports that stay in the pending set -/

theorem report_keepsBit {i : Nat} {s : State} (h : s.faults.pending.getLsbD i = true) (b : Block) (k : FaultKind) (d : Nat) :
    (report b k d s).faults.pending.getLsbD i = true := by
  simp [h]

theorem reportIf_keepsBit {i : Nat} {s : State} (h : s.faults.pending.getLsbD i = true) (c : Bool) (b : Block)
    (k : FaultKind) (d : Nat) : (reportIf c b k d s).faults.pending.getLsbD i = true := by
  cases c
  · exact h
  · exact report_keepsBit h b k d

/-- Reports of one kind about the entries of a list, of which there is one, put the kind in the pending set. -/
theorem foldl_report_pendingBit {α : Type} {l : List α} {x : α} (hx : x ∈ l) (b : Block) (k : FaultKind) (d : α → Nat)
    (s : State) : (l.foldl (fun u e => report b k (d e) u) s).faults.pending.getLsbD (faultNumber k) = true := by
  have keep : ∀ (l : List α) (u : State), u.faults.pending.getLsbD (faultNumber k) = true →
      (l.foldl (fun u e => report b k (d e) u) u).faults.pending.getLsbD (faultNumber k) = true := fun l u hu =>
    List.foldlRecOn (motive := fun (t : State) => t.faults.pending.getLsbD (faultNumber k) = true) l _ hu
      (fun _ ht _ _ => report_keepsBit ht _ _ _)
  obtain ⟨before, behind, rfl⟩ := List.append_of_mem hx
  rw [List.foldl_append, List.foldl_cons]
  exact keep behind _ (report_pendingBit b k (d x) _)

/-- A selection leaves the pending set's kinds (R187). -/
theorem selectContent_keepsBit {i : Nat} {s : State} (h : s.faults.pending.getLsbD i = true) :
    (selectContent s).faults.pending.getLsbD i = true := by
  unfold selectContent
  dsimp only
  refine reportIf_keepsBit (reportIf_keepsBit ?_ _ _ _ _) _ _ _ _
  exact h

/-! ## A cut -/

/-- The reports of a cut: each peer's stand-in, and a collapse (R12, R14). -/
theorem cutRecord_faults (s : State) (r : EpochRecord) : (cutRecord s r).faults =
    (reportIf (collapses (reduceBounds (cutTable s.agr r))) .agreement .levelCollapse (r.frame.setWidth 16).toNat
      (((cutTable s.agr r).filter (fun e => !e.received && !(e.station == s.own))).foldl
        (fun u e => report .agreement .staleBound e.station u) s)).faults := rfl

theorem cutRecord_staleBound {s : State} {r : EpochRecord} {e : BoundsEntry} (he : e ∈ cutTable s.agr r)
    (hrec : e.received = false) (hown : e.station ≠ s.own) : (cutRecord s r).faults.pending.getLsbD 1 = true := by
  rw [cutRecord_faults]
  exact reportIf_keepsBit (foldl_report_pendingBit (x := e) (List.mem_filter.2 ⟨he, by simp [hrec, hown]⟩) .agreement
    .staleBound (fun e => e.station) s) _ _ _ _

theorem cutRecord_levelCollapse {s : State} {r : EpochRecord}
    (h : (reduceBounds (cutTable s.agr r)).ceiling ≤ (reduceBounds (cutTable s.agr r)).floor) :
    (cutRecord s r).faults.pending.getLsbD 2 = true := by
  rw [cutRecord_faults]
  exact reportIf_pendingBit (k := .levelCollapse) (decide_eq_true h) _ _ _

/-- A cut's coefficient job arrives at the solver (R53, R76). -/
theorem cutRecord_sol (s : State) (r : EpochRecord) : (cutRecord s r).sol =
    s.sol.queueCoeff ⟨.coeff, r.frame, corrected (reduceBounds (cutTable s.agr r))⟩ := by
  obtain ⟨x, hx⟩ := foldl_faults (fun u e => report .agreement .staleBound e.station u) (fun _ _ => ⟨_, rfl⟩)
    ((cutTable s.agr r).filter (fun e => !e.received && !(e.station == s.own))) s
  unfold cutRecord
  dsimp only
  rw [hx]
  simp only [State.withSol_sol, State.withAgr_sol, reportIf_sol]

/-! ## Coefficient jobs that arrive -/

/-- A spare that is ready for an epoch holds a coefficient job that counts (R76). -/
theorem coeffAlive_of_ready {x : Solver} {n : FrameNo} (h : x.readyFor n = true) : x.coeffAlive ≠ none := by
  simp only [Solver.readyFor, Bool.and_eq_true, beq_iff_eq] at h
  unfold Solver.coeffAlive
  split
  · simp
  · split
    · split <;> simp [h.1, h.2]
    · simp [h.1, h.2]

/-- Where no coefficient job counts, the queue holds bounds jobs alone, and no coefficient pass runs. -/
theorem bounds_of_coeffAlive_none {x : Solver} (h : x.coeffAlive = none) : ∀ j ∈ x.queue, j.kind = .bounds := by
  intro j hj
  unfold Solver.coeffAlive at h
  split at h
  · exact nomatch h
  · rename_i hq
    have := List.find?_eq_none.1 hq j hj
    cases hk : j.kind with
    | bounds => rfl
    | coeff => simp [hk] at this

theorem coeffAlive_append {x : Solver} {q : List Job} (hq : ∀ j ∈ q, j.kind = .bounds) :
    Solver.coeffAlive { x with queue := x.queue ++ q } = x.coeffAlive := by
  have noCoeff : q.find? (fun j => j.kind == .coeff) = none := List.find?_eq_none.2 fun j hj => by simp [hq j hj]
  have find : (x.queue ++ q).find? (fun j => j.kind == .coeff) = x.queue.find? (fun j => j.kind == .coeff) := by
    rw [List.find?_append, noCoeff, Option.or_none]
  simp [Solver.coeffAlive, find, Solver.spare, Solver.spareIsOne]

/-- A coefficient pass that runs counts where the queue holds bounds jobs alone (R76). -/
theorem coeffAlive_of_running {x : Solver} {p : Pass} (hq : ∀ j ∈ x.queue, j.kind = .bounds)
    (hp : x.running = some p) (hk : p.job.kind = .coeff) : x.coeffAlive = some p.job.epoch := by
  have noCoeff : x.queue.find? (fun j => j.kind == .coeff) = none := List.find?_eq_none.2 fun j hj => by simp [hq j hj]
  simp [Solver.coeffAlive, noCoeff, hp, hk]

theorem setSpare_running (x : Solver) (b : Bank) : (x.setSpare b).running = x.running := by
  unfold Solver.setSpare
  split <;> rfl

/-- What is left of the queue and of the running pass when the coefficient job for `n` is abandoned (R76). -/
theorem abandon_queue (x : Solver) (n : FrameNo) :
    (x.abandon n).queue = x.queue.filter (fun j => !(j.kind == .coeff && j.epoch == n)) := by
  unfold Solver.abandon
  dsimp only
  split
  · rw [setSpare_queue]
  · rfl

theorem abandon_running (x : Solver) (n : FrameNo) : (x.abandon n).running = match x.running with
    | some p => if p.job.kind = .coeff ∧ p.job.epoch = n then none else some p
    | none => none := by
  unfold Solver.abandon
  dsimp only
  split
  · exact setSpare_running _ _
  · rfl

/-- Bounds jobs and a bounds pass stay when a coefficient job arrives (R76). -/
theorem queueCoeff_keeps_bounds {x : Solver} {j : Job} (c : Job) (hj : j ∈ x.queue) (hk : j.kind = .bounds) :
    j ∈ (x.queueCoeff c).queue := by
  unfold Solver.queueCoeff
  split
  · exact List.mem_append_left _ hj
  · split
    · exact hj
    · refine List.mem_append_left _ ?_
      rw [abandon_queue]
      exact List.mem_filter.2 ⟨hj, by simp [hk]⟩

theorem queueCoeff_keeps_boundsPass {x : Solver} {p : Pass} (c : Job) (hp : x.running = some p)
    (hk : p.job.kind = .bounds) : (x.queueCoeff c).running = some p := by
  unfold Solver.queueCoeff
  split
  · exact hp
  · split
    · exact hp
    · dsimp only
      rw [abandon_running, hp]
      simp [hk]

/-! ## The solver's choice with a coefficient job waiting -/

/-- While a pass runs the solver makes no choice (R66). -/
theorem startJobs_of_running {s : State} {p : Pass} (h : s.sol.running = some p) : startJobs s = s := by
  simp [startJobs, chooseJobs, h]

/-- A coefficient job behind bounds jobs is taken before them (R66). -/
theorem nextJob_coeff {q : List Job} (hq : ∀ j ∈ q, j.kind = .bounds) {j : Job} (hj : j.kind = .coeff) :
    nextJob (q ++ [j]) = some j := by
  cases q with
  | nil => rfl
  | cons x rest =>
    have first : (rest.foldl earlierJob x).kind = .bounds := hq _ (mem_of_nextJob (q := x :: rest) rfl)
    show some ((rest ++ [j]).foldl earlierJob x) = some j
    rw [List.foldl_append]
    simp [earlierJob, first, hj]

/-- An idle solver starts the coefficient job that waits behind bounds jobs, and its spare is being filled (R66, R71). -/
theorem startJobs_coeff {s : State} {q : List Job} {j : Job} (hq : ∀ i ∈ q, i.kind = .bounds) (hj : j.kind = .coeff)
    (hr : s.sol.running = none) (hs : s.sol.queue = q ++ [j]) :
    (startJobs s).sol.running.map (fun p => p.job) = some j ∧ (startJobs s).sol.spare.status = .spareFilling ∧
      (startJobs s).sol.spare.tag = some j.epoch := by
  have start : startJobs s = startPass j s := by
    have next : nextJob s.sol.queue = some j := by rw [hs]; exact nextJob_coeff hq hj
    simp [startJobs, chooseJobs, hr, next, hj]
  rw [start]
  unfold startPass
  simp only [hj, if_true, State.withSol_sol]
  rw [setSpare_running]
  obtain ⟨set, -⟩ := spare_setSpare { s.sol with queue := s.sol.queue.erase j, running := some (makePass s.agr j) }
    (b := ⟨s.sol.spare.coeffs, some j.epoch, .spareFilling⟩) (by simp)
  exact ⟨rfl, congrArg Bank.status set, congrArg Bank.tag set⟩

/-! ## The jobs of a frame start with one record -/

/-- The bounds job of the record is to be queued at a frame start numbered `cur` (R52). -/
def jobNear (cur : FrameNo) (r : EpochRecord) : Bool := !r.jobQueued && notAfter r.frame (cur + 3)

/-- The record once its bounds job is queued, where it is near (R52). -/
def nearRecord (cur : FrameNo) (r : EpochRecord) : EpochRecord := if jobNear cur r then { r with jobQueued := true } else r

/-- The bounds job of the record, where it is near (R52). -/
def nearJobs (cur : FrameNo) (r : EpochRecord) : List Job :=
  if jobNear cur r then [⟨.bounds, r.frame, ⟨0, 16777215⟩⟩] else []

/-- The record is to be cut at a frame start numbered `cur` (R53). -/
def cutsAt (cur : FrameNo) (r : EpochRecord) : Bool :=
  (r.phase == .opened || r.phase == .bounded) && notAfter r.frame (cur + 1)

theorem nearRecord_eq (cur : FrameNo) (r : EpochRecord) : nearRecord cur r =
    { r with jobQueued := r.jobQueued || notAfter r.frame (cur + 3) } := by
  obtain ⟨frame, states, lights, bounds, levels, phase, jobQueued⟩ := r
  unfold nearRecord jobNear
  dsimp only
  generalize notAfter frame (cur + 3) = near
  cases jobQueued <;> cases near <;> rfl

theorem nearJobs_bounds (cur : FrameNo) (r : EpochRecord) : ∀ j ∈ nearJobs cur r, j.kind = .bounds := by
  intro j hj
  unfold nearJobs at hj
  split at hj
  · rw [List.mem_singleton.1 hj]
  · exact absurd hj List.not_mem_nil

theorem queueBoundsJobs_single {s : State} {r : EpochRecord} (h : s.agr.epochs = [r]) : queueBoundsJobs s =
    (s.withSol { s.sol with queue := s.sol.queue ++ nearJobs s.current r }).withAgr
      { s.agr with epochs := [nearRecord s.current r] } := by
  show (s.withSol { s.sol with queue := s.sol.queue ++
    (s.agr.epochs.filter (jobNear s.current)).map (fun r => ⟨.bounds, r.frame, ⟨0, 16777215⟩⟩) }).withAgr
      { s.agr with epochs := s.agr.epochs.map (nearRecord s.current) } = _
  rw [h]
  unfold nearJobs
  cases hn : jobNear s.current r <;> simp [hn]

theorem cutStep_single {s : State} {r : EpochRecord} (h : s.agr.epochs = [r]) :
    cutStep s = if cutsAt s.current r then cutRecord s r else s := by
  show (s.agr.epochs.filter (cutsAt s.current)).foldl cutRecord s = _
  rw [h]
  cases hc : cutsAt s.current r <;> simp [hc]

/-- A single record through the solver's choices: its phase may become BOUNDED, and nothing else of it changes (R52). -/
theorem startJobs_single {s : State} {x : EpochRecord} (h : s.agr.epochs = [x]) : (startJobs s).agr.epochs = [x] ∨
    (x.phase = .opened ∧ (startJobs s).agr.epochs = [{ x with phase := .bounded }]) := by
  refine startJobs_agr (P := fun a => a.epochs = [x] ∨ (x.phase = .opened ∧ a.epochs = [{ x with phase := .bounded }]))
    (fun a n ha => ?_) (.inl h)
  unfold Agreement.boundedAt
  split
  · rename_i r hr
    split
    · rename_i ho
      obtain ha | ⟨hx, ha⟩ := ha
      · obtain rfl : r = x := by
          have := List.mem_of_find?_eq_some hr
          rw [ha] at this
          exact List.mem_singleton.1 this
        exact .inr ⟨ho, by simp [Agreement.onRecord, ha, frame_of_record hr]⟩
      · exact .inr ⟨hx, by simp [Agreement.onRecord, ha]⟩
    · exact ha
  · exact ha

end Sys2Proof.Machine
end

section
/-!
PROOFS. The jobs of a frame start with one record pending (O29).
-/
namespace Sys2Proof.Machine

/-! ## The coefficient job that a cut brings -/

section
variable {x : Solver} {j : Job}

theorem queueCoeff_of_none (h : x.coeffAlive = none) : x.queueCoeff j = { x with queue := x.queue ++ [j] } := by
  simp [Solver.queueCoeff, h]

theorem queueCoeff_of_later {n : FrameNo} (h : x.coeffAlive = some n) (ha : after n j.epoch = true) :
    x.queueCoeff j = x := by
  simp [Solver.queueCoeff, h, ha]

theorem queueCoeff_of_earlier {n : FrameNo} (h : x.coeffAlive = some n) (ha : after n j.epoch = false) :
    x.queueCoeff j = { x.abandon n with queue := (x.abandon n).queue ++ [j] } := by
  simp [Solver.queueCoeff, h, ha]

end

/-- A coefficient job that arrives where none counts (R65, R66): an idle solver starts it, and while a pass runs it waits. -/
theorem startJobs_fresh_coeff {s : State} {x : Solver} {j : Job} (hx : x.coeffAlive = none) (hj : j.kind = .coeff)
    (hs : s.sol = x.queueCoeff j) :
    (x.running = none → (startJobs s).sol.running.map (fun p => p.job) = some j ∧
      (startJobs s).sol.spare.status = .spareFilling ∧ (startJobs s).sol.spare.tag = some j.epoch) ∧
    ∀ p, x.running = some p → (startJobs s).sol.running = some p ∧ j ∈ (startJobs s).sol.queue := by
  rw [queueCoeff_of_none hx] at hs
  refine ⟨fun hr => ?_, fun p hp => ?_⟩
  · exact startJobs_coeff (bounds_of_coeffAlive_none hx) hj (by rw [hs]; exact hr) (by rw [hs])
  · have running : s.sol.running = some p := by rw [hs]; exact hp
    rw [startJobs_of_running running]
    exact ⟨running, by rw [hs]; exact List.mem_append_right _ (List.mem_singleton.2 rfl)⟩

/-- A coefficient job that arrives while a coefficient pass runs (R76): a pass for a later epoch goes on, and any other is
abandoned, so that the job starts. -/
theorem startJobs_second_coeff {s : State} {x : Solver} {j : Job} {p : Pass} (hq : ∀ i ∈ x.queue, i.kind = .bounds)
    (hp : x.running = some p) (hk : p.job.kind = .coeff) (hj : j.kind = .coeff) (hs : s.sol = x.queueCoeff j) :
    (after p.job.epoch j.epoch = true → (startJobs s).sol.running = some p) ∧
      (after p.job.epoch j.epoch = false → (startJobs s).sol.running.map (fun q => q.job) = some j) := by
  have alive := coeffAlive_of_running hq hp hk
  refine ⟨fun ha => ?_, fun ha => ?_⟩
  · rw [queueCoeff_of_later alive ha] at hs
    have running : s.sol.running = some p := by rw [hs]; exact hp
    rw [startJobs_of_running running]
    exact running
  · rw [queueCoeff_of_earlier alive ha] at hs
    have idle : s.sol.running = none := by
      rw [hs]
      show (x.abandon p.job.epoch).running = none
      rw [abandon_running, hp]
      simp [hk]
    have left : ∀ i ∈ (x.abandon p.job.epoch).queue, i.kind = .bounds := by
      rw [abandon_queue]
      exact fun i hi => hq i (List.mem_of_mem_filter hi)
    exact (startJobs_coeff left hj idle (by rw [hs])).1

/-! ## The solver before the jobs -/

theorem swap_queue (x : Solver) : x.swap.queue = x.queue ∧ x.swap.running = x.running := by
  unfold Solver.swap
  split <;> exact ⟨rfl, rfl⟩

/-- Before the jobs the solver's queue and running pass are as they were. -/
theorem BeforeJobs.queue {r : EpochRecord} {s u : State} (h : BeforeJobs r s u) :
    u.sol.queue = s.sol.queue ∧ u.sol.running = s.sol.running := by
  obtain hs | ⟨n, -, hs⟩ := h.sol
  · rw [hs]
    exact ⟨rfl, rfl⟩
  · rw [hs]
    exact swap_queue s.sol

/-- A late swap needs a coefficient job that counts, so without one the solver is as it was. -/
theorem BeforeJobs.sol_of_none {r : EpochRecord} {s u : State} (h : BeforeJobs r s u) (hn : s.sol.coeffAlive = none) :
    u.sol = s.sol := by
  obtain hs | ⟨n, ready, -⟩ := h.sol
  · exact hs
  · exact absurd hn (coeffAlive_of_ready ready)

/-! ## The jobs of a frame start with one record, in parts -/

section
variable {r : EpochRecord} {u : State} (he : u.agr.epochs = [r])
include he

theorem queueBoundsJobs_sol :
    (queueBoundsJobs u).sol = { u.sol with queue := u.sol.queue ++ nearJobs u.current r } := by
  rw [queueBoundsJobs_single he]
  rfl

theorem queueBoundsJobs_epochs : (queueBoundsJobs u).agr.epochs = [nearRecord u.current r] := by
  rw [queueBoundsJobs_single he]
  rfl

/-- The jobs of a frame start with one record that is to be cut (R53). -/
theorem frameJobs_cut (hc : cutsAt u.current r = true) :
    frameJobs u = startJobs (cutRecord (queueBoundsJobs u) (nearRecord u.current r)) := by
  have same : cutsAt (queueBoundsJobs u).current (nearRecord u.current r) = true := by
    rw [nearRecord_eq]
    exact hc
  unfold frameJobs
  rw [cutStep_single (queueBoundsJobs_epochs he), if_pos same]

/-- The jobs of a frame start with one record that is not to be cut. -/
theorem frameJobs_uncut (hc : cutsAt u.current r = false) : frameJobs u = startJobs (queueBoundsJobs u) := by
  have same : ¬ cutsAt (queueBoundsJobs u).current (nearRecord u.current r) = true := by
    rw [nearRecord_eq]
    exact Bool.eq_false_iff.1 hc
  unfold frameJobs
  rw [cutStep_single (queueBoundsJobs_epochs he), if_neg same]

/-- The one record after its cut (R53). -/
theorem cutRecord_epochs : (cutRecord (queueBoundsJobs u) (nearRecord u.current r)).agr.epochs =
    [{ nearRecord u.current r with
        bounds := cutTable (queueBoundsJobs u).agr (nearRecord u.current r)
        levels := some (corrected (reduceBounds (cutTable (queueBoundsJobs u).agr (nearRecord u.current r))))
        phase := .cut }] := by
  rw [cutRecord_agr]
  simp [Agreement.onRecord, queueBoundsJobs_epochs he]

/-- The table of that cut, by the record's own pairs and the last bounds (R12, R53). -/
theorem mem_cutTable_single (hnd : (r.bounds.map (fun e => e.station)).Nodup) {e : BoundsEntry} :
    e ∈ cutTable (queueBoundsJobs u).agr (nearRecord u.current r) ↔
      e.station < 12 ∧ isMember (applyMemberships u.agr.live r.states) e.station = true ∧
        ((e ∈ r.bounds ∧ e.received = true) ∨ ((∀ y ∈ r.bounds, y.station = e.station → y.received = false) ∧
          e.received = false ∧
          (u.agr.peer e.station).bounds.map (fun b => (b.floor, b.ceiling)) = some (e.floor, e.ceiling))) := by
  have bounds : (nearRecord u.current r).bounds = r.bounds := by rw [nearRecord_eq]
  have states : (nearRecord u.current r).states = r.states := by rw [nearRecord_eq]
  rw [mem_cutTable (by rw [bounds]; exact hnd), projectLive_single (queueBoundsJobs_epochs he), bounds, states]
  rfl

end

theorem nearRecord_frame (cur : FrameNo) (r : EpochRecord) : (nearRecord cur r).frame = r.frame := by
  rw [nearRecord_eq]

/-- The jobs of a frame start leave the live view. -/
theorem frameJobs_live (u : State) : (frameJobs u).agr.live = u.agr.live := by
  obtain ⟨e, y, p, x, h⟩ := frameJobs_frame u
  rw [h]

/-- A bounds job queued at a frame start waits while a bounds pass runs (R52, R65). -/
theorem frameJobs_boundsJob {r : EpochRecord} {u : State} (he : u.agr.epochs = [r]) {p : Pass}
    (hp : u.sol.running = some p) (hk : p.job.kind = .bounds) (hn : jobNear u.current r = true) :
    ⟨.bounds, r.frame, ⟨0, 16777215⟩⟩ ∈ (frameJobs u).sol.queue := by
  have sol := queueBoundsJobs_sol he
  have running : (queueBoundsJobs u).sol.running = some p := by rw [sol]; exact hp
  have queued : (⟨.bounds, r.frame, ⟨0, 16777215⟩⟩ : Job) ∈ (queueBoundsJobs u).sol.queue := by
    rw [sol]
    exact List.mem_append_right _ (by simp [nearJobs, hn])
  cases hc : cutsAt u.current r with
  | false =>
    rw [frameJobs_uncut he hc, startJobs_of_running running]
    exact queued
  | true =>
    have kept : (cutRecord (queueBoundsJobs u) (nearRecord u.current r)).sol.running = some p := by
      rw [cutRecord_sol]
      exact queueCoeff_keeps_boundsPass _ running hk
    rw [frameJobs_cut he hc, startJobs_of_running kept, cutRecord_sol]
    exact queueCoeff_keeps_bounds _ queued rfl

/-! ## What the frame start answers -/

/-- What the selection, the setup and the fault unit leave of the state after the jobs. -/
theorem afterJobs (w : State) : (takeReports (setupStep (selectContent w))).agr = w.agr ∧
    (takeReports (setupStep (selectContent w))).sol = w.sol ∧ (takeReports (setupStep (selectContent w))).line = w.line ∧
    ∀ i, w.faults.pending.getLsbD i = true →
      (takeReports (setupStep (selectContent w))).faults.pending.getLsbD i = true := by
  obtain ⟨y, x, h⟩ := selectContent_frame w
  refine ⟨by simp, by simp, ?_, fun i hi => ?_⟩
  · rw [takeReports_line, setupStep_frame, h]
  · rw [takeReports_pendingSet]
    exact selectContent_keepsBit hi

/-- The counts before the agreement part of a frame start leave the record, the self-silence count below its timeout, the solver,
and every station's last bounds. -/
theorem frameCounts_before {r : EpochRecord} {first : Stamp} {s : State} (he : s.agr.epochs = [r])
    (hs : s.ctl.selfSilence + 1 < s.settings.silenceTimeout) :
    let c := frameCounts (rasterFrameStart first (endFrameReads s))
    c.agr.epochs = [r] ∧ (∀ i, (c.agr.peer i).bounds = (s.agr.peer i).bounds) ∧ c.own = s.own ∧ c.sol = s.sol ∧
      c.ctl.selfSilence < c.settings.silenceTimeout := by
  obtain ⟨b, x1, h1⟩ := endFrameReads_frame s
  obtain ⟨x2, h2⟩ := rasterFrameStart_frame first (endFrameReads s)
  obtain ⟨p, l, x3, h3⟩ := frameCounts_frame (rasterFrameStart first (endFrameReads s))
  dsimp only
  refine ⟨?_, fun i => ?_, ?_, by simp, ?_⟩
  · rw [h3, h2, h1]
    exact he
  · have silenced : ∀ t : State, ((silenceStep t).agr.peer i).bounds = (t.agr.peer i).bounds := by
      intro t
      unfold silenceStep
      split
      · exact bounds_onPeers t.agr t.own (f := fun _ r => { r with silence := satInc 65535 r.silence }) (fun _ _ => rfl) i
      · rfl
    rw [h3, h2, h1]
    exact silenced _
  · rw [State.own, h3, h2, h1]
    rfl
  · rw [h3, h2, h1]
    show satInc 65535 s.ctl.selfSilence < s.settings.silenceTimeout
    unfold satInc
    split <;> omega

/-- A frame start of a working station with the one record `r` answers what the jobs leave of a state `u`, in which that record, when
it is not due, stands as it was. -/
theorem frameStart_single {r : EpochRecord} {first : Stamp} {s : State} (hw : s.working = true)
    (hr : s.line.running = true) (hs : s.ctl.selfSilence + 1 < s.settings.silenceTimeout) (he : s.agr.epochs = [r]) :
    ∃ t u, exec (.frameStart first) s = .next t ∧ t.agr = (frameJobs u).agr ∧ t.sol = (frameJobs u).sol ∧
      t.line.frameNo = u.current ∧
      (∀ i, (frameJobs u).faults.pending.getLsbD i = true → t.faults.pending.getLsbD i = true) ∧
      (isDue s.line.frameNo u.current r = false → BeforeJobs r s u) := by
  obtain ⟨epochs, bounds, own, sol, silence⟩ := frameCounts_before (first := first) he hs
  refine ⟨_, frameChanges (frameAgreement (s.ctl.condition == .joining) s.line.frameNo
    (frameCounts (rasterFrameStart first (endFrameReads s)))), exec_frameStart hw hr, ?_⟩
  generalize frameCounts (rasterFrameStart first (endFrameReads s)) = c at epochs bounds own sol silence ⊢
  obtain ⟨a, y, k, x, ha⟩ := frameAgreement_frame (s.ctl.condition == .joining) s.line.frameNo c
  obtain ⟨e', y', p', w', x', hc⟩ := frameChanges_frame (frameAgreement (s.ctl.condition == .joining) s.line.frameNo c)
  have line : (frameChanges (frameAgreement (s.ctl.condition == .joining) s.line.frameNo c)).line = c.line := by rw [hc, ha]
  have before : isDue s.line.frameNo c.current r = false → BeforeJobs r c _ := fun hd =>
    frameChanges_beforeJobs (s.ctl.condition == .joining) epochs hd silence
  generalize frameChanges (frameAgreement (s.ctl.condition == .joining) s.line.frameNo c) = u at line before ⊢
  obtain ⟨tAgr, tSol, tLine, tBit⟩ := afterJobs (frameJobs u)
  refine ⟨tAgr, tSol, ?_, tBit, fun hd => ?_⟩
  · obtain ⟨e, y, p, x, hj⟩ := frameJobs_frame u
    rw [tLine, hj]
    rfl
  · have B := before (by rw [State.current, ← line]; exact hd)
    exact ⟨B.epochs, fun i => (B.bounds i).trans (bounds i), B.own.trans own, by rw [← sol]; exact B.sol⟩

/-! ## The one record after the frame start -/

theorem cutsAt_iff {cur : FrameNo} {r : EpochRecord} : cutsAt cur r = true ↔
    (r.phase = .opened ∨ r.phase = .bounded) ∧ notAfter r.frame (cur + 1) = true := by
  simp only [cutsAt, Bool.and_eq_true, Bool.or_eq_true, beq_iff_eq]

theorem jobNear_iff {cur : FrameNo} {r : EpochRecord} :
    jobNear cur r = true ↔ r.jobQueued = false ∧ notAfter r.frame (cur + 3) = true := by
  simp only [jobNear, Bool.and_eq_true, Bool.not_eq_true']

section
variable {r : EpochRecord} {u : State} (he : u.agr.epochs = [r])
include he

/-- A record that is not cut keeps all but its phase and the mark of its bounds job (R52). -/
theorem frameJobs_uncut_epochs (hc : cutsAt u.current r = false) :
    ∃ ph, (frameJobs u).agr.epochs = [{ nearRecord u.current r with phase := ph }] := by
  rw [frameJobs_uncut he hc]
  obtain h | ⟨-, h⟩ := startJobs_single (queueBoundsJobs_epochs he)
  · exact ⟨(nearRecord u.current r).phase, h⟩
  · exact ⟨.bounded, h⟩

/-- A record that is cut is as its cut left it (R53). -/
theorem frameJobs_cut_epochs (hc : cutsAt u.current r = true) : (frameJobs u).agr.epochs =
    [{ nearRecord u.current r with
        bounds := cutTable (queueBoundsJobs u).agr (nearRecord u.current r)
        levels := some (corrected (reduceBounds (cutTable (queueBoundsJobs u).agr (nearRecord u.current r))))
        phase := .cut }] := by
  rw [frameJobs_cut he hc]
  obtain h | ⟨hp, -⟩ := startJobs_single (cutRecord_epochs he)
  · exact h
  · exact nomatch hp

/-- The reports of the cut stand in the pending set (R12, R14). -/
theorem frameJobs_cut_faults (hc : cutsAt u.current r = true) :
    (frameJobs u).faults = (cutRecord (queueBoundsJobs u) (nearRecord u.current r)).faults := by
  rw [frameJobs_cut he hc, startJobs_faults]

end

/-- The coefficient job of the cut, by what the solver held (R66, R76). -/
theorem frameJobs_cut_sol {r : EpochRecord} {s u : State} (B : BeforeJobs r s u) (hc : cutsAt u.current r = true) :
    let job : Job := ⟨.coeff, r.frame, corrected (reduceBounds (cutTable (queueBoundsJobs u).agr (nearRecord u.current r)))⟩
    (s.sol.coeffAlive = none →
      (s.sol.running = none → (frameJobs u).sol.running.map (fun p => p.job) = some job ∧
        (frameJobs u).sol.spare.status = .spareFilling ∧ (frameJobs u).sol.spare.tag = some r.frame) ∧
      ∀ p, s.sol.running = some p → (frameJobs u).sol.running = some p ∧ job ∈ (frameJobs u).sol.queue) ∧
    ∀ p, s.sol.running = some p → p.job.kind = .coeff → s.sol.queue = [] →
      (after p.job.epoch r.frame = true → (frameJobs u).sol.running = some p) ∧
      (after p.job.epoch r.frame = false → (frameJobs u).sol.running.map (fun p => p.job) = some job) := by
  have queued := queueBoundsJobs_sol B.epochs
  have near := nearJobs_bounds u.current r
  obtain ⟨queue, running⟩ := B.queue
  have arrives := cutRecord_sol (queueBoundsJobs u) (nearRecord u.current r)
  rw [nearRecord_frame] at arrives
  rw [frameJobs_cut B.epochs hc]
  refine ⟨fun hn => ?_, fun p hp hk hq => ?_⟩
  · have fresh : (queueBoundsJobs u).sol.coeffAlive = none := by
      rw [queued, coeffAlive_append near, B.sol_of_none hn]
      exact hn
    have same : (queueBoundsJobs u).sol.running = s.sol.running := by rw [queued]; exact running
    rw [← same]
    exact startJobs_fresh_coeff fresh rfl arrives
  · have boundsJobs : ∀ i ∈ (queueBoundsJobs u).sol.queue, i.kind = .bounds := by
      rw [queued]
      dsimp only
      rw [queue, hq]
      exact near
    have passes : (queueBoundsJobs u).sol.running = some p := by rw [queued]; exact running.trans hp
    have second := startJobs_second_coeff boundsJobs passes hk rfl arrives
    exact second

/-- Settles O29: before the jobs the one record that is not due stands as it was; then its bounds job is queued, and where it is
to be cut its table, levels, reports and coefficient job follow, each as the lemmas above say. -/
theorem frameStartCuts : Obligations.FrameStartCuts := by
  intro r first s hw hr _ hs he hnd
  obtain ⟨t, u, run, tAgr, tSol, number, tBit, before⟩ := frameStart_single (first := first) hw hr hs he
  refine ⟨t, run, fun hd => ?_⟩
  rw [number] at hd
  have B := before hd
  have mark := nearRecord_eq u.current r
  have boundsJob : ∀ p, s.sol.running = some p → p.job.kind = .bounds → r.jobQueued = false →
      notAfter r.frame (u.current + 3) = true → ⟨.bounds, r.frame, ⟨0, 16777215⟩⟩ ∈ (frameJobs u).sol.queue :=
    fun p hp hk hj hn => frameJobs_boundsJob B.epochs (B.queue.2.trans hp) hk (jobNear_iff.2 ⟨hj, hn⟩)
  rw [tAgr, tSol, number]
  cases hc : cutsAt u.current r with
  | false =>
    have uncut := Bool.eq_false_iff.1 hc
    obtain ⟨ph, epochs⟩ := frameJobs_uncut_epochs B.epochs hc
    rw [mark] at epochs
    exact ⟨_, epochs, rfl, rfl, rfl, Bool.or_eq_true _ _ ▸ Iff.rfl, boundsJob, fun _ => ⟨rfl, rfl⟩,
      fun cuts => absurd (cutsAt_iff.2 cuts) uncut⟩
  | true =>
    have epochs := frameJobs_cut_epochs B.epochs hc
    have faults := frameJobs_cut_faults B.epochs hc
    obtain ⟨fresh, second⟩ := frameJobs_cut_sol B hc
    refine ⟨_, epochs, nearRecord_frame _ _, by rw [mark], by rw [mark], by rw [mark]; exact Bool.or_eq_true _ _ ▸ Iff.rfl,
      boundsJob, fun uncut => absurd (cutsAt_iff.1 hc) uncut, fun _ => ⟨rfl, rfl, fun e => ?_, ?_, fun collapse => ?_,
        fresh, second⟩⟩
    · rw [mem_cutTable_single B.epochs hnd, frameJobs_live, B.bounds]
    · rintro ⟨e, hm, hrec, hown⟩
      refine tBit 1 ?_
      rw [faults]
      exact cutRecord_staleBound hm hrec (by rw [queueBoundsJobs_single B.epochs]; exact B.own ▸ hown)
    · refine tBit 2 ?_
      rw [faults]
      exact cutRecord_levelCollapse collapse

end Sys2Proof.Machine
end

section
/-!
PROOFS. A halted station through every command but a reset (O13).
-/
namespace Sys2Proof.Machine

/-! ## What a halted station keeps -/

/-- The state `u` is `s` but for the port, the fault unit, the maintenance port, and the frame line unit, which keeps its number,
its trims and its integral term. -/
def HaltedKeeps (s u : State) : Prop := ∃ l p x m, u = { s with line := l, port := p, faults := x, maint := m } ∧
  l.frameNo = s.line.frameNo ∧ l.trim = s.line.trim ∧ l.staged = s.line.staged ∧ l.integral = s.line.integral

theorem HaltedKeeps.refl (s : State) : HaltedKeeps s s := ⟨s.line, s.port, s.faults, s.maint, rfl, rfl, rfl, rfl, rfl⟩

theorem HaltedKeeps.of_port (s : State) (p : Port) (x : FaultUnit) : HaltedKeeps s { s with port := p, faults := x } :=
  ⟨s.line, p, x, s.maint, rfl, rfl, rfl, rfl, rfl⟩

theorem HaltedKeeps.of_maint (s : State) (x : FaultUnit) (m : Maintenance) :
    HaltedKeeps s { s with faults := x, maint := m } := ⟨s.line, s.port, x, m, rfl, rfl, rfl, rfl, rfl⟩

theorem HaltedKeeps.takeReports {s u : State} (h : HaltedKeeps s u) : HaltedKeeps s (takeReports u) := by
  obtain ⟨l, p, x, m, rfl, kept⟩ := h
  obtain ⟨y, hy⟩ := takeReports_frame { s with line := l, port := p, faults := x, maint := m }
  exact ⟨l, p, y, m, hy, kept⟩

/-- A conditional effect is that of the branch taken. -/
theorem HaltedKeeps.ite {s u v : State} {c : Prop} [Decidable c] (hu : c → HaltedKeeps s u) (hv : ¬c → HaltedKeeps s v) :
    HaltedKeeps s (if c then u else v) := by
  split
  · exact hu ‹_›
  · exact hv ‹_›

/-- A command whose condition fails has no effect. -/
theorem HaltedKeeps.of_not {s u : State} {c : Prop} [Decidable c] (h : ¬c) : HaltedKeeps s (if c then u else s) := by
  rw [if_neg h]
  exact .refl s

/-! ## The conditions of a halted station's commands -/

section
variable {s : State} (h : s.ctl.condition = .halted)
include h

theorem not_working_of_halted : s.working = false := by simp [State.working, h]

theorem not_inStart_of_halted : s.inStart = false := by simp [State.inStart, h]

theorem not_takesFrames_of_halted : takesFrames s = false := by simp [takesFrames, not_working_of_halted h]

theorem not_readingSection_of_halted (n k : Nat) : readingSection n k s = false := by
  simp [readingSection, not_inStart_of_halted h]

/-- A halted station reads no words (R124). -/
theorem takeWords_of_halted (words : List (List LaneWord)) : takeWords words s = s := by
  simp [takeWords, State.reads, not_working_of_halted h]

/-- A halted station's frame start keeps the number, the trims and the integral term (R81, R88). -/
theorem frameStart_haltedKeeps (first : Stamp) : HaltedKeeps s (if s.line.running = false then s
    else if s.working then workingFrameStart first s
    else if s.ctl.condition = .halted then haltedFrameStart first s
    else s) := by
  rw [if_neg (c := s.working = true) (by simp [not_working_of_halted h]), if_pos h]
  exact .ite (fun _ => .refl s) fun _ => ⟨_, s.port, s.faults, s.maint, rfl, rfl, rfl, rfl, rfl⟩

end

/-- A write of the maintenance port that is no complete RESTART changes the fault unit and that port alone (R189). -/
theorem portWrite_haltedKeeps {b : Byte} {w : I2cWrite} (h : writesCommand .restart b w = false) (straps : BitVec 4)
    (s : State) : HaltedKeeps s (portWrite b w straps s) := by
  cases ha : acknowledgesAddress w.address with
  | false =>
    rw [portWrite_other ha]
    exact .refl s
  | true =>
    cases hb : selectorOf b with
    | none =>
      rw [portWrite_refused hb ha]
      exact .of_maint s s.faults _
    | some x =>
      have effect : ∃ y m, selectorEffect x w straps s = { s with faults := y, maint := m } := by
        cases x with
        | view n => exact ⟨s.faults, _, if_pos ha⟩
        | clearFaults =>
          unfold selectorEffect
          dsimp only
          split
          · exact ⟨_, s.maint, rfl⟩
          · exact ⟨s.faults, s.maint, rfl⟩
        | restart =>
          have incomplete : writeCompletes (bytesCalled .restart) w = false := by simpa [writesCommand, hb] using h
          exact ⟨s.faults, s.maint, selectorEffect_incomplete incomplete (fun _ => Selector.noConfusion) straps s⟩
        | attnMask =>
          unfold selectorEffect
          dsimp only
          split
          · exact ⟨_, s.maint, rfl⟩
          · exact ⟨s.faults, s.maint, rfl⟩
      obtain ⟨y, m, he⟩ := effect
      rw [portWrite_selector hb ha, he]
      exact .of_maint s y _

/-! ## Every command -/

/-- Every command but a reset leaves a halted station with no pass running as `HaltedKeeps` says. -/
theorem exec_haltedKeeps {c : Instr} {s t : State} (hh : s.ctl.condition = .halted) (hp : s.sol.running = none)
    (hc : isReset c = false) (h : exec c s = .next t) : ∃ u, HaltedKeeps s u ∧ takeReports u = t := by
  have hw := not_working_of_halted hh
  have hi := not_inStart_of_halted hh
  have hs := not_readingSection_of_halted hh
  have idle : ∀ {c : Instr}, exec c s = finish s → exec c s = .next t → ∃ u, HaltedKeeps s u ∧ takeReports u = t :=
    fun e h => ⟨s, .refl s, finish_eq_next.1 (e ▸ h)⟩
  have bus : ∀ f, HaltedKeeps s (receiveFrame f s) := fun f => by
    rw [receiveFrame_of_not_takes (not_takesFrames_of_halted hh)]
    exact .refl s
  have words : ∀ l, HaltedKeeps s (takeWords l s) := fun l => by
    rw [takeWords_of_halted hh]
    exact .refl s
  have write : ∀ (b : Byte) (w : I2cWrite), selectorOf b ≠ some .restart →
      HaltedKeeps s (portWrite b w s.loader.strapped s) := fun b w hb =>
    portWrite_haltedKeeps (by simp [writesCommand, hb]) _ s
  cases c with
  | powerOnReset straps => exact nomatch hc
  | warmReset straps => exact nomatch hc
  | imageHeaderCheck pattern version bodyLength crc imageId => exact idle (by simp [exec, execImageHeaderCheck, hi]) h
  | sectionHeadCheck code length => exact idle (by simp [exec, execSectionHeadCheck, hi]) h
  | settingsSectionEnd entries => exact idle (by simp [exec, execSettingsSectionEnd, hs]) h
  | tableEntryCheck entry => exact idle (by simp [exec, execTableEntryCheck, readingTable, hs]) h
  | gridRecordCheck share white black count contributors => exact idle (by simp [exec, execGridRecordCheck, hs]) h
  | loadComplete => exact idle (by simp [exec, execLoadComplete, bodyRead, hi]) h
  | frameStart first => exact ⟨_, frameStart_haltedKeeps hh first, finish_eq_next.1 h⟩
  | frameLineRelease =>
    refine ⟨_, .ite (fun _ => ?_) (fun _ => .refl s), finish_eq_next.1 h⟩
    exact ⟨_, s.port, s.faults, s.maint, rfl, rfl, rfl, rfl, rfl⟩
  | frameLineEdge falling stamp =>
    refine ⟨_, ?_, finish_eq_next.1 h⟩
    exact ⟨_, s.port, s.faults, s.maint, rfl, rfl, rfl, rfl, rfl⟩
  | boundsPassComplete => exact idle (by simp [exec, execBoundsPassComplete, hp]) h
  | coeffPassComplete => exact idle (by simp [exec, execCoeffPassComplete, hp]) h
  | sendEvent =>
    refine ⟨_, .ite (fun _ => ?_) (fun _ => .refl s), finish_eq_next.1 h⟩
    dsimp only
    rw [if_neg (by simp [hw])]
    exact ⟨_, s.port, s.faults, s.maint, rfl, rfl, rfl, rfl, rfl⟩
  | windowCompletion => exact idle (by simp [exec, execWindowCompletion, hw]) h
  | busIdleJoin => exact ⟨_, .ite (fun _ => .of_port s _ _) (fun _ => .refl s), finish_eq_next.1 h⟩
  | beginAttempt => exact idle (by simp [exec, execBeginAttempt, hw]) h
  | lostArbitration =>
    refine ⟨_, ?_, finish_eq_next.1 h⟩
    split
    · exact .refl s
    · exact .ite (fun _ => .of_port s _ _) (fun _ => .of_port s _ _)
  | attemptFailed =>
    refine ⟨_, ?_, finish_eq_next.1 h⟩
    split
    · exact .refl s
    · rename_i m _
      obtain ⟨p, x, hf⟩ := failHaltedAttempt_frame m s
      rw [if_neg (by simp [hw]), hf]
      exact .of_port s p x
  | messageComplete =>
    refine ⟨_, ?_, finish_eq_next.1 h⟩
    split
    · exact .refl s
    · rw [if_neg (by simp [hw])]
      exact .of_port s _ _
  | stationClash frame => exact ⟨_, bus _, finish_eq_next.1 h⟩
  | foreignMessage frame => exact ⟨_, bus _, finish_eq_next.1 h⟩
  | receiveChange sender live reason subject epoch lam => exact ⟨_, bus _, finish_eq_next.1 h⟩
  | receiveLight sender epoch lam => exact ⟨_, bus _, finish_eq_next.1 h⟩
  | receivePulse sender condition driving heldValid frame held => exact ⟨_, bus _, finish_eq_next.1 h⟩
  | receiveBounds sender epochLow floor ceiling => exact ⟨_, bus _, finish_eq_next.1 h⟩
  | receiveLevels sender lam mNow target remaining => exact ⟨_, bus _, finish_eq_next.1 h⟩
  | showFade sender start target duration => exact ⟨_, bus _, finish_eq_next.1 h⟩
  | showIdentify sender start mask period on => exact ⟨_, bus _, finish_eq_next.1 h⟩
  | showIdentifyOff sender endFrame => exact ⟨_, bus _, finish_eq_next.1 h⟩
  | lanesActive => exact idle (by simp [exec, execLanesActive, hw]) h
  | laneActivityLost lane received => exact idle (by simp [exec, execLaneActivityLost, hw]) h
  | settleExpiry => exact idle (by simp [exec, execSettleExpiry, hw]) h
  | trainingDecision => exact idle (by simp [exec, execTrainingDecision, hw]) h
  | inputTimeout => exact idle (by simp [exec, execInputTimeout, hw]) h
  | packetLost ws => exact ⟨_, words _, finish_eq_next.1 h⟩
  | laneSkew ws => exact ⟨_, words _, finish_eq_next.1 h⟩
  | frameStartPacket heads payload => exact ⟨_, words _, finish_eq_next.1 h⟩
  | linePacket heads payload => exact ⟨_, words _, finish_eq_next.1 h⟩
  | frameEndPacket heads payload => exact ⟨_, words _, finish_eq_next.1 h⟩
  | otherPacket heads kind payload => exact ⟨_, words _, finish_eq_next.1 h⟩
  | strayLinePacket heads frameEnd payload => exact ⟨_, words _, finish_eq_next.1 h⟩
  | memoryEcc line column =>
    refine ⟨_, ?_, finish_eq_next.1 h⟩
    split
    · split
      · exact .of_not (by simp [hw])
      · exact .refl s
    · exact .refl s
  | lightSample value ahead => exact idle (by simp [exec, execLightSample, hw]) h
  | selectCondition w => exact ⟨_, write 1 w (by decide), finish_eq_next.1 h⟩
  | selectInput w => exact ⟨_, write 2 w (by decide), finish_eq_next.1 h⟩
  | selectStore w => exact ⟨_, write 3 w (by decide), finish_eq_next.1 h⟩
  | selectLock w => exact ⟨_, write 4 w (by decide), finish_eq_next.1 h⟩
  | selectPeers w => exact ⟨_, write 5 w (by decide), finish_eq_next.1 h⟩
  | selectEpochs w => exact ⟨_, write 6 w (by decide), finish_eq_next.1 h⟩
  | selectLevels w => exact ⟨_, write 7 w (by decide), finish_eq_next.1 h⟩
  | selectFaults w => exact ⟨_, write 8 w (by decide), finish_eq_next.1 h⟩
  | selectCounters w => exact ⟨_, write 9 w (by decide), finish_eq_next.1 h⟩
  | selectImage w => exact ⟨_, write 10 w (by decide), finish_eq_next.1 h⟩
  | clearFaults w => exact ⟨_, write 64 w (by decide), finish_eq_next.1 h⟩
  | restart w straps => exact ⟨_, portWrite_haltedKeeps hc straps s, finish_eq_next.1 h⟩
  | attnMask w => exact ⟨_, write 66 w (by decide), finish_eq_next.1 h⟩
  | selectorRefused selector w => exact ⟨_, portWrite_haltedKeeps hc _ s, finish_eq_next.1 h⟩
  | syncRecognised lane bits0 bits1 bits2 bits3 => exact idle (by simp [exec, execSyncRecognised, hw]) h
  | warpMeshEntryRead sx sy => exact idle (by simp [exec, execWarpMeshEntryRead, hs]) h

/-- Settles O13: no command but a reset does more to a halted station than `HaltedKeeps` allows. -/
theorem haltedUntilReset : Obligations.HaltedUntilReset := by
  intro c s t hh hp hc h
  obtain ⟨u, kept, rfl⟩ := exec_haltedKeeps hh hp hc h
  obtain ⟨l, p, x, m, hu, number, trim, staged, integral⟩ := kept.takeReports
  rw [hu]
  exact ⟨rfl, rfl, rfl, rfl, rfl, rfl, rfl, rfl, rfl, number, trim, staged, integral⟩

end Sys2Proof.Machine
end

section
/-!
PROOFS. Frames that the station does not take, and a PULSE that it takes (O43, O44).
-/
namespace Sys2Proof.Machine

/-! ## One report in a settled state -/

/-- One report of a settled state, once taken (R184 to R187). -/
theorem takeReports_report {s : State} (h : s.settled) (b : Block) (k : FaultKind) (d : Nat) :
    takeReports (report b k d s) = reported k d s := by
  have moment : (report b k d s).faults.moment = [(b, ⟨k, s.line.frameNo, BitVec.ofNat 16 d⟩)] := by
    rw [report_moment, h, List.nil_append]
  rw [takeReports_eq, takeReports_single moment, report_eq]
  unfold reported
  simp only [State.withFaults_faults, report_counters, report_pendingSet, report_first, report_mask, report_freeCount]
  rw [← h]
  rfl

/-! ## Frames refused -/

/-- A frame at a station that takes frames, without its own number, that fails a check (R111). -/
theorem receiveFrame_foreign {f : BusFrame} {s : State} (ht : takesFrames s = true) (hc : clashes s.own f = false)
    (hm : frameMessage f = none) : receiveFrame f s = report .port .foreignMessage f.identifier.toNat s := by
  simp [receiveFrame, ht, hc, hm]

/-- A well-formed frame of a station outside the roster (R111). -/
theorem receiveFrame_stray {f : BusFrame} {m : Message} {s : State} (ht : takesFrames s = true)
    (hc : clashes s.own f = false) (hm : frameMessage f = some m) (hs : strayed s m = true) :
    receiveFrame f s = report .port .strayStation m.sender.toNat s := by
  simp [receiveFrame, ht, hc, hm, hs]

/-- Settles O43: a frame that is not taken leaves the state, and one that fails a check makes one report. -/
theorem refusedFrames : Obligations.RefusedFrames := by
  refine ⟨fun s hs ht => ?_, fun f s hs ht hc => ⟨fun hm => ?_, fun m hm hi hr => ?_⟩⟩
  · have refused : ∀ f, finish (receiveFrame f s) = .next s := fun f => by
      rw [receiveFrame_of_not_takes ht, finish_eq_next, takeReports_of_settled hs]
    exact ⟨fun _ => refused _, fun _ => refused _, fun _ _ _ _ _ _ => refused _, fun _ _ _ => refused _,
      fun _ _ _ _ _ _ => refused _, fun _ _ _ _ => refused _, fun _ _ _ _ _ => refused _, fun _ _ _ _ => refused _,
      fun _ _ _ _ _ => refused _, fun _ _ => refused _⟩
  · show finish (receiveFrame f s) = _
    rw [receiveFrame_foreign ht hc hm, finish_eq_next, takeReports_report hs]
  · have stray : strayed s m = true := by simp [strayed, hi, hr]
    show finish (receiveFrame f s) = _
    rw [receiveFrame_stray ht hc hm stray, finish_eq_next, takeReports_report hs]

/-! ## A message read back from its frame (R103 to R105, R111) -/

theorem reasonOf_subcode (live : Bool) (r : Reason) :
    reasonOf ((BitVec.ofBool live ++ reasonCode r).extractLsb' 0 3) = some r ∧
      (BitVec.ofBool live ++ reasonCode r).msb = live := by
  cases live <;> cases r <;> decide

theorem pulseConditionOf_subcode (c : PulseCondition) (d v : Bool) :
    let sub := pulseConditionCode c ++ (BitVec.ofBool d ++ BitVec.ofBool v)
    pulseConditionOf (sub.extractLsb' 2 2) = some c ∧ sub[1] = d ∧ sub[0] = v := by
  cases c <;> cases d <;> cases v <;> decide

/-- The fields of a message read back from its kind, its subcode and its payload (R104, R105). -/
theorem bodyOf_payload (b : Body) : bodyOf (kindCode b) (subcode b) (payload b) = some b := by
  cases b with
  | change live reason subject epoch lam =>
    obtain ⟨hr, hl⟩ := reasonOf_subcode live reason
    simp [bodyOf, kindCode, subcode, payload, bytes32, bytes16, hr, hl]
  | pulse condition driving heldValid frame held =>
    obtain ⟨hc, hd, hv⟩ := pulseConditionOf_subcode condition driving heldValid
    simp [bodyOf, kindCode, subcode, payload, bytes32, bytes16, hc, hd, hv]
  | fade start target duration => simp [bodyOf, kindCode, subcode, payload, bytes32, bytes16]
  | identify start mask period on => simp [bodyOf, kindCode, subcode, payload, bytes32, bytes16]
  | identifyOff endFrame => simp [bodyOf, kindCode, subcode, payload, bytes32]
  | light epoch lam => simp [bodyOf, kindCode, subcode, payload, bytes32, bytes16]
  | bounds epochLow floor ceiling => simp [bodyOf, kindCode, subcode, payload, bytes24, bytes16]
  | levels lam mNow target remaining => simp [bodyOf, kindCode, subcode, payload, bytes16]

/-- A message of a legal sender passes the checks of its own frame, and is read back from it (R111). -/
theorem frameMessage_messageFrame {m : Message} (h : kindCode m.body = 2 ↔ 12 ≤ m.sender.toNat) :
    frameMessage (messageFrame m) = some m := by
  have format : formatBad (messageFrame m) = false := by
    cases hb : m.body <;> simp [formatBad, messageFrame, hb, payload, bytes16, bytes24, bytes32]
  have kind : kindBad (messageFrame m) = false := by
    cases hb : m.body <;> simp [kindBad, messageFrame, hb, kindCode]
  have sender : senderBad (messageFrame m) = false := by
    have two : (kindCode m.body).toNat = 2 ↔ 12 ≤ m.sender.toNat := by
      rw [← h]
      exact ⟨fun e => BitVec.eq_of_toNat_eq e, fun e => by rw [e]; rfl⟩
    by_cases hk : 12 ≤ m.sender.toNat
    · simp [senderBad, messageFrame, two.2 hk, hk]
    · simp [senderBad, messageFrame, mt two.1 hk, not_le.1 hk]
  unfold frameMessage
  rw [format, kind, sender]
  simp [messageFrame, bodyOf_payload]

/-- A message of a station of the roster that is not this one is accepted from its frame (R110 to R112). -/
theorem receiveFrame_messageFrame {m : Message} {s : State} (ht : takesFrames s = true) (hi : m.sender.toNat < 12)
    (ho : m.sender.toNat ≠ s.own) (hr : isMember s.settings.roster m.sender.toNat = true) (hk : kindCode m.body ≠ 2) :
    receiveFrame (messageFrame m) s = acceptMessage m s := by
  refine receiveFrame_of_message ht ?_ (frameMessage_messageFrame ⟨fun h => absurd h hk, fun h => absurd h (not_le.2 hi)⟩) ?_
  · simp [clashes, messageFrame, ho]
  · simp [strayed, hr]

/-! ## The records of the peer table -/

theorem peer_onPeer_same {a : Agreement} {i : Nat} (h : i < a.peers.length) (f : PeerRecord → PeerRecord) :
    (a.onPeer i f).peer i = f (a.peer i) := by
  simp [Agreement.onPeer, Agreement.peer, h]

theorem peer_onPeer_other {a : Agreement} {i j : Nat} (h : j ≠ i) (f : PeerRecord → PeerRecord) :
    (a.onPeer i f).peer j = a.peer j := by
  simp [Agreement.onPeer, Agreement.peer, h.symm]

/-! ## A PULSE -/

/-- The situation of R98, by the own condition and the PULSE's. -/
theorem mayAdoptCount_iff (s : State) (p : PulseInfo) : mayAdoptCount s p = true ↔
    s.ctl.condition = .joining ∨ s.ctl.condition = .dark ∨
      (s.ctl.condition = .live ∧ s.line.lock = .locked ∧ p.condition = .live ∧ p.driving = true) := by
  simp only [mayAdoptCount, Bool.or_eq_true, Bool.and_eq_true, beq_iff_eq]
  tauto

/-- The target of R98 moves to a number after it, or after the current number when there is none. -/
theorem nextTarget_eq (current : FrameNo) (old : Option FrameNo) (n : FrameNo) :
    nextTarget current old n = if after n (old.getD current) then some n else old := by
  cases old <;> rfl

/-- The frame line unit once a PULSE has been considered (R98). -/
theorem considerCount_line (p : PulseInfo) (s : State) : (considerCount p s).line =
    if mayAdoptCount s p = true ∧ after p.frame (s.line.target.getD s.line.frameNo) = true
    then { s.line with target := some p.frame } else s.line := by
  unfold considerCount
  rw [nextTarget_eq]
  by_cases hm : mayAdoptCount s p = true
  · by_cases ha : after p.frame (s.line.target.getD s.line.frameNo) = true
    · simp [hm, ha, State.current]
    · simp [hm, ha, State.current]
  · simp [hm]

/-- Settles O44: the frame is read back as its PULSE, which is written into the sender's record and offered to R98. -/
theorem pulseTaken : Obligations.PulseTaken := by
  intro i c d v n h s hs ht hi ho hr hlen
  let p : PulseInfo := ⟨n, h, v, c, d, s.line.frameNo⟩
  let a := (s.agr.onPeer i.toNat (fun r => { r with heard := true })).onPeer i.toNat
    (fun r => { r with pulse := some p, silence := 0 })
  have run : exec (.receivePulse i c d v n h) s = finish (considerCount p (s.withAgr a)) :=
    congrArg finish (receiveFrame_messageFrame (m := ⟨i, .pulse c d v n h⟩) ht hi ho hr (by simp [kindCode]))
  obtain ⟨l, hl⟩ := considerCount_frame p (s.withAgr a)
  have settled : takeReports (considerCount p (s.withAgr a)) = considerCount p (s.withAgr a) :=
    takeReports_of_settled (by rw [hl]; exact hs)
  have record : a.peer i.toNat = { s.agr.peer i.toNat with heard := true, pulse := some p, silence := 0 } := by
    rw [peer_onPeer_same (by simp [Agreement.onPeer, hlen, hi]), peer_onPeer_same (by rw [hlen]; exact hi)]
  have others : ∀ j, j ≠ i.toNat → a.peer j = s.agr.peer j := fun j hj => by
    rw [peer_onPeer_other hj, peer_onPeer_other hj]
  refine ⟨_, run.trans (finish_eq_next.2 settled), ?_, ?_, ?_, ?_, fun had => ?_, fun hnot => ?_⟩
  · rw [hl]
    exact ⟨record, others⟩
  · rw [hl]; rfl
  · rw [hl]; rfl
  · rw [hl]; rfl
  · rw [considerCount_line]
    exact if_pos ⟨(mayAdoptCount_iff (s.withAgr a) p).2 had.1, had.2⟩
  · rw [considerCount_line]
    exact if_neg fun hc => hnot ⟨(mayAdoptCount_iff (s.withAgr a) p).1 hc.1, hc.2⟩

end Sys2Proof.Machine
end

section
/-!
PROOFS. A frame with the station's own number (O42).
-/
namespace Sys2Proof.Machine

/-! ## The place of a halt in the walk (R158, log 30) -/

/-- The moment at which the walk of the frame in progress begins its raster position `k`, in stamps after the frame start's stamp
(R80, R82, R152). -/
def positionTime (l : FrameLine) (k : Nat) : ℚ :=
  (l.startFrac.num : ℚ) / l.startFrac.den + (k : ℚ) * 100000000 * 2 ^ 24 / (l.raster.f0 * (2 ^ 24 + (l.trim : ℚ)))

/-- A rounded-up quotient is above `k` when the dividend is above `k` divisors. -/
theorem lt_ceilDiv_iff {n d k : Nat} (hd : 0 < d) : k < (n + d - 1) / d ↔ k * d < n := by
  rw [← Nat.succ_le_iff, Nat.le_div_iff_mul_le hd, Nat.succ_mul]
  omega

/-- The positions begun before a stamp are those whose moments lie before it (R158, log 30). -/
theorem lt_positionsBefore_iff {l : FrameLine} (hden : 0 < l.startFrac.den) (hf : 0 < l.raster.f0)
    (ht : 0 < 2 ^ 24 + l.trim) (t : Stamp) (k : Nat) :
    k < positionsBefore l t ↔ positionTime l k < ((stampDiff t l.startStamp).toNat : ℚ) := by
  obtain ⟨rate, hrate⟩ := Int.eq_ofNat_of_zero_le ht.le
  have rateQ : (2 ^ 24 + (l.trim : ℚ)) = rate := by exact_mod_cast hrate
  have ratePos : (0 : ℚ) < rate := by rw [← rateQ]; exact_mod_cast ht
  have fPos : (0 : ℚ) < l.raster.f0 := by exact_mod_cast hf
  have denPos : (0 : ℚ) < l.startFrac.den := by exact_mod_cast hden
  unfold positionsBefore positionTime
  dsimp only
  rw [lt_ceilDiv_iff (by positivity), rateQ, hrate, Int.toNat_natCast]
  generalize (stampDiff t l.startStamp).toNat = now
  rw [div_add_div _ _ denPos.ne' (by positivity), div_lt_iff₀ (by positivity)]
  have whole : k * (l.startFrac.den * (100000000 * 2 ^ 24)) < (now * l.startFrac.den - l.startFrac.num) * (l.raster.f0 * rate) ↔
      l.startFrac.num * (l.raster.f0 * rate) + l.startFrac.den * (k * 100000000 * 2 ^ 24) <
        now * (l.startFrac.den * (l.raster.f0 * rate)) := by
    rw [Nat.sub_mul, lt_tsub_iff_left]
    ring_nf
  rw [whole]
  exact_mod_cast Iff.rfl

/-! ## What the halt leaves to the pixel path -/

/-- The halted solver's banks hold their coefficients (R78). -/
theorem haltSolver_coeffs (x : Solver) (b : Nat) : ((haltSolver x).bankNo b).coeffs = (x.bankNo b).coeffs := by
  unfold haltSolver
  dsimp only
  split
  · unfold Solver.setSpare Solver.spare Solver.bankNo emptied
    by_cases h : x.spareIsOne = true
    · have h' : Solver.spareIsOne { x with queue := [], running := none, lateSwap := none } = true := h
      rw [if_pos h', if_pos h]
      split <;> rfl
    · have h' : ¬ Solver.spareIsOne { x with queue := [], running := none, lateSwap := none } = true := h
      rw [if_neg h', if_neg h]
      split <;> rfl
  · rfl

/-- The codes of a pixel under a setup are those of the image, the banks' coefficients and the frame memory alone. -/
theorem setupCodes_congr {s t : State} (hset : t.settings = s.settings) (hgrid : t.pix.grid = s.pix.grid)
    (hmesh : t.pix.mesh = s.pix.mesh) (hred : t.pix.inputRed = s.pix.inputRed) (hgreen : t.pix.inputGreen = s.pix.inputGreen)
    (hblue : t.pix.inputBlue = s.pix.inputBlue) (hout : t.pix.output = s.pix.output)
    (hbank : ∀ b, (t.sol.bankNo b).coeffs = (s.sol.bankNo b).coeffs) (hmem : t.store.memory = s.store.memory)
    (herr : t.store.errors = s.store.errors) (f : Setup) (x y : Nat) : setupCodes t f x y = setupCodes s f x y := by
  have k : nodeK t = nodeK s := by funext b c r; simp only [nodeK, hset, hbank]
  have a : nodeA t = nodeA s := by funext b c r; simp only [nodeA, hset, hbank]
  have share : nodeShare t = nodeShare s := by funext c r; simp only [nodeShare, hset, hgrid]
  have near : neighbour t = neighbour s := by
    funext src c r
    simp only [neighbour, hset, herr, hmem, linearOf, hred, hgreen, hblue]
  have linear : pixelLinear t = pixelLinear s := by
    funext src px py
    simp only [pixelLinear, sourceX, sourceY, hset, hmesh, near]
  simp only [setupCodes, pixelDrive, hset, hout, k, a, share, linear]

/-- Without the place of a halt a frame's codes are those in force. -/
theorem sentCodes_of_no_halt {s : State} (h : s.line.haltPlace = none) (x y : Nat) :
    sentCodes s x y = pixelCodes s x y := by
  simp [sentCodes, h]

/-! ## The halted state -/

/-- The halted solver holds no job and no late swap (R78). -/
theorem haltSolver_idle (x : Solver) :
    (haltSolver x).queue = [] ∧ (haltSolver x).running = none ∧ (haltSolver x).lateSwap = none := by
  unfold haltSolver Solver.setSpare
  dsimp only
  split_ifs <;> exact ⟨rfl, rfl, rfl⟩

/-- The state that a halt with the fault unit at `f` leaves of `s` (R32). -/
def halted (s : State) (f : FaultUnit) : State := enterHalted (s.withFaults f)

theorem halted_condition (s : State) (f : FaultUnit) : (halted s f).ctl.condition = .halted := rfl

/-- The frame in progress at a halt: the positions begun before it have the codes of the setup set aside, and the others raw
code 0 (R158). -/
theorem sentCodes_halted {s : State} (hw : s.working = true) (f : FaultUnit) (x y : Nat) : sentCodes (halted s f) x y =
    match haltPlaceNow s.line with
    | some n => if y * s.line.raster.hTotal + x < n then pixelCodes s x y else ⟨0, 0, 0⟩
    | none => ⟨0, 0, 0⟩ := by
  have still := not_working_of_halted (halted_condition s f)
  have place : (halted s f).line.haltPlace = haltPlaceNow s.line := rfl
  have aside : (halted s f).pix.aside = s.pix.setup := rfl
  have total : (halted s f).line.raster.hTotal = s.line.raster.hTotal := rfl
  unfold sentCodes
  rw [place, aside, total, pixelCodes_of_not_working still]
  cases haltPlaceNow s.line with
  | none => rfl
  | some n =>
    cases hp : s.pix.setup with
    | none => simp [pixelCodes, hp]
    | some g =>
      have codes : setupCodes (halted s f) g x y = setupCodes s g x y :=
        setupCodes_congr (s := s) (t := halted s f) rfl rfl rfl rfl rfl rfl rfl (haltSolver_coeffs s.sol) rfl rfl g x y
      simp [pixelCodes, hp, hw, still, codes]

/-- The frame that begins in HALTED is raw code 0 (R158). -/
theorem exec_frameStart_halted {s : State} (hh : s.ctl.condition = .halted)
    (hp : s.line.running = false → s.line.haltPlace = none) (first : Stamp) :
    ∃ u, exec (.frameStart first) s = .next u ∧ ∀ x y, sentCodes u x y = ⟨0, 0, 0⟩ := by
  have dark : ∀ v : State, v.ctl.condition = .halted → v.line.haltPlace = none →
      ∀ x y, sentCodes (takeReports v) x y = ⟨0, 0, 0⟩ := fun v hv hn x y => by
    rw [sentCodes_of_no_halt (by rw [takeReports_line]; exact hn),
      pixelCodes_of_not_working (not_working_of_halted (by rw [takeReports_ctl]; exact hv))]
  refine ⟨_, rfl, ?_⟩
  rw [not_working_of_halted hh, hh]
  by_cases hr : s.line.running = false
  · rw [if_pos hr]
    exact dark s hh (hp hr)
  · rw [if_neg hr]
    exact dark _ hh rfl

/-- Settles O42: the clash makes its report and halts the station, and the place of the halt parts the frame in progress. -/
theorem clashHalts : Obligations.ClashHalts := by
  intro f s hs ht hext hrem hown
  let r : FaultRecord := ⟨.stationClash, s.line.frameNo, BitVec.ofNat 16 f.identifier.toNat⟩
  have clash : clashes s.own f = true := by simp [clashes, hext, hrem, hown]
  have working : s.working = true := by
    unfold takesFrames at ht
    exact (Bool.and_eq_true _ _ ▸ ht).1
  have run : exec (.stationClash f) s = finish (enterHalted (report .controller .stationClash f.identifier.toNat s)) := by
    show finish (receiveFrame f s) = _
    simp [receiveFrame, ht, clash, clashHalt]
  have moment : (enterHalted (report .controller .stationClash f.identifier.toNat s)).faults.moment =
      [(.controller, r)] := by
    show s.faults.moment ++ [(Block.controller, r)] = _
    rw [hs, List.nil_append]
  have state : takeReports (enterHalted (report .controller .stationClash f.identifier.toNat s)) =
      halted s (takeReports (enterHalted (report .controller .stationClash f.identifier.toNat s))).faults := takeReports_eq _
  have last : (takeReports (enterHalted (report .controller .stationClash f.identifier.toNat s))).faults.last = some r := by
    rw [takeReports_single moment]
  generalize (takeReports (enterHalted (report .controller .stationClash f.identifier.toNat s))).faults = z at state last
  refine ⟨halted s z, run.trans (finish_eq_next.2 state), rfl, rfl, rfl, fun ha => ?_, rfl, rfl,
    pixelCodes_of_not_working (not_working_of_halted (halted_condition s z)), fun hr hd hden hf hrate x y => ?_,
    fun hno => ?_, exec_frameStart_halted (halted_condition s z) fun hr => ?_, ?_⟩
  · show (haltPort s.port).state = .disabled
    simp [haltPort, ha]
  · have place : haltPlaceNow s.line = some (positionsBefore s.line s.line.stamp) := by simp [haltPlaceNow, hr, hd]
    have begun := lt_positionsBefore_iff hden hf hrate s.line.stamp (y * s.line.raster.hTotal + x)
    rw [sentCodes_halted working, place]
    exact ⟨fun h => if_pos (begun.2 h), fun h => if_neg fun h' => absurd (begun.1 h') (not_lt.2 h)⟩
  · show haltPlaceNow s.line = none
    obtain hr | hd := hno
    · simp [haltPlaceNow, hr]
    · simp [haltPlaceNow, hd]
  · have off : s.line.running = false := hr
    show haltPlaceNow s.line = none
    simp [haltPlaceNow, off]
  · obtain ⟨queue, running, swap⟩ := haltSolver_idle s.sol
    refine ⟨queue, running, swap, rfl, rfl, rfl, rfl, rfl, ?_, rfl⟩
    rw [← BitVec.ofNat_toNat]
    exact last

end Sys2Proof.Machine
end

section
/-!
PROOFS. The end of a load (O22).
-/
namespace Sys2Proof.Machine

section
variable {h : Header} {x : Settings} {s : State} (hb : bodyRead s = true) (hh : s.loader.header = some h)
  (hx : s.loader.settings = some x)
include hb hh hx

/-- A load whose CRC matches completes (R181). -/
theorem exec_loadComplete_match (hc : ~~~s.loader.crc = h.crc) :
    exec .loadComplete s = finish (completeLoad x s) := by
  simp [exec, execLoadComplete, hb, hh, hx, hc]

/-- A load whose CRC does not match fails with code 25 (R181). -/
theorem exec_loadComplete_mismatch (hc : ~~~s.loader.crc ≠ h.crc) :
    exec .loadComplete s = finish (failLoad 25 s) := by
  simp [exec, execLoadComplete, hb, hh, hx, hc]

end

/-- The one report of a load that fails in a settled state (R182, R186). -/
theorem failLoad_last {s : State} (hs : s.settled) (code : Nat) : (takeReports (failLoad code s)).faults.last =
    some ⟨.imageInvalid, s.line.frameNo, BitVec.ofNat 16 code⟩ := by
  let r : FaultRecord := ⟨.imageInvalid, s.line.frameNo, BitVec.ofNat 16 code⟩
  have moment : (failLoad code s).faults.moment = [(.loader, r)] := by
    show s.faults.moment ++ [(Block.loader, r)] = _
    rw [hs, List.nil_append]
  rw [takeReports_single moment]

/-- Settles O22: a load completes or fails by its CRC, and each outcome is the model's own state. -/
theorem loadCompletes : Obligations.LoadCompletes := by
  intro h x s hs hb hh hx
  refine ⟨fun hc => ?_, fun hc => ?_⟩
  · have settled : takeReports (completeLoad x s) = completeLoad x s := takeReports_of_settled hs
    exact ⟨_, (exec_loadComplete_match hb hh hx hc).trans (finish_eq_next.2 settled),
      rfl, rfl, rfl, rfl, rfl, rfl, rfl, rfl, rfl, rfl⟩
  · have raster : failureRaster s.loader = imageRaster x := by simp [failureRaster, hx]
    have state := takeReports_eq (failLoad 25 s)
    have last := failLoad_last hs 25
    generalize (takeReports (failLoad 25 s)).faults = z at state last
    exact ⟨_, (exec_loadComplete_mismatch hb hh hx hc).trans (finish_eq_next.2 state), rfl, rfl, rfl, rfl, raster, last⟩

end Sys2Proof.Machine
end

section
/-!
PROOFS. What an operation can do to the fault records and to the counts of the controller, the link receiver, the light monitor and
the peer table: reports only add to the records, and the counts stay in their ranges.
-/
namespace Sys2Proof.Machine

/-! ## The fault records (R184 to R187) -/

/-- The fault records of `y` are those of `x` or come from them by reports: sound counters stay sound and never fall, FIRST keeps
what it holds, and the pending set loses no kind. -/
structure FaultUnit.Grows (x y : FaultUnit) : Prop where
  counters : x.sound → y.sound ∧ ∀ i, x.counters.getD i 0 ≤ y.counters.getD i 0
  first : ∀ r, x.first = some r → y.first = some r
  pending : ∀ i, x.pending.getLsbD i = true → y.pending.getLsbD i = true

theorem FaultUnit.Grows.refl (x : FaultUnit) : x.Grows x := ⟨fun h => ⟨h, fun _ => le_refl _⟩, fun _ h => h, fun _ h => h⟩

theorem FaultUnit.Grows.trans {x y z : FaultUnit} (h : x.Grows y) (g : y.Grows z) : x.Grows z := by
  refine ⟨fun hx => ?_, fun r hr => g.first r (h.first r hr), fun i hi => g.pending i (h.pending i hi)⟩
  obtain ⟨hy, le⟩ := h.counters hx
  obtain ⟨hz, le'⟩ := g.counters hy
  exact ⟨hz, fun i => (le i).trans (le' i)⟩

/-- A saturating count stays in its range and does not fall. -/
theorem satInc_le {top n : Nat} (h : n ≤ top) : satInc top n ≤ top ∧ n ≤ satInc top n := by
  unfold satInc
  split <;> omega

/-- A count that saturates at `top` is at most `top` once it has increased. -/
theorem satInc_le_top (top n : Nat) : satInc top n ≤ top := by
  unfold satInc
  split <;> omega

/-- An element of a list with one entry changed is an old element, or the changed one. -/
theorem mem_modify {α : Type} {f : α → α} {l : List α} {i : Nat} {x : α} (h : x ∈ l.modify i f) :
    x ∈ l ∨ ∃ y ∈ l, x = f y := by
  obtain ⟨j, hj⟩ := List.mem_iff_getElem?.1 h
  rw [List.getElem?_modify] at hj
  obtain ⟨y, hy, rfl⟩ := Option.map_eq_some_iff.1 hj
  have hm := List.mem_of_getElem? hy
  split
  · exact .inr ⟨y, hm, rfl⟩
  · exact .inl hm

/-- A report in any frame adds to the records. -/
theorem reportIn_grows (n : FrameNo) (b : Block) (k : FaultKind) (d : Nat) (s : State) :
    s.faults.Grows (reportIn n b k d s).faults := by
  refine ⟨fun hs => ⟨⟨?_, fun c hc => ?_⟩, fun i => ?_⟩, fun _ h => h, fun i hi => ?_⟩
  · exact (List.length_modify _ _ _).trans hs.1
  · obtain h | ⟨y, -, rfl⟩ := mem_modify hc
    · exact hs.2 c h
    · exact satInc_le_top _ _
  · show s.faults.counters.getD i 0 ≤ (s.faults.counters.modify (faultNumber k) (satInc 65535)).getD i 0
    simp only [List.getD_eq_getElem?_getD, List.getElem?_modify]
    cases hc : s.faults.counters[i]? with
    | none => exact le_refl _
    | some c =>
      have := hs.2 c (List.mem_of_getElem? hc)
      rw [Option.map_eq_map, Option.map_some, Option.getD_some, Option.getD_some]
      split
      · exact (satInc_le this).2
      · exact le_refl _
  · show (s.faults.pending ||| (1#64 <<< faultNumber k)).getLsbD i = true
    simp [hi]

/-- The reports once taken leave the counters and the pending set, and FIRST takes one only where it was absent (R186). -/
theorem takeReports_grows (s : State) : s.faults.Grows (takeReports s).faults := by
  unfold takeReports
  split
  · exact .refl _
  · exact ⟨fun hs => ⟨hs, fun _ => le_refl _⟩, fun r hr => by simp [hr], fun _ h => h⟩

/-! ## The counts of four blocks -/

/-- The counts of the controller, the link receiver, the light monitor and the peer table are in their ranges. -/
def State.countsSound (s : State) : Prop := s.ctl.sound ∧ s.link.sound ∧ s.light.sound ∧ s.agr.peersSound

/-- From `s` to `t` the fault records only grow, and the counts stay in their ranges. -/
def KeepsCounts (s t : State) : Prop := s.faults.Grows t.faults ∧ (s.countsSound → t.countsSound)

theorem KeepsCounts.refl (s : State) : KeepsCounts s s := ⟨.refl _, id⟩

theorem KeepsCounts.trans {s t u : State} (h : KeepsCounts s t) (g : KeepsCounts t u) : KeepsCounts s u :=
  ⟨h.1.trans g.1, g.2 ∘ h.2⟩

/-- A conditional effect is that of the branch taken. -/
theorem KeepsCounts.ite {s u v : State} {c : Prop} [Decidable c] (hu : c → KeepsCounts s u) (hv : ¬c → KeepsCounts s v) :
    KeepsCounts s (if c then u else v) := by
  split
  · exact hu ‹_›
  · exact hv ‹_›

/-- A list of operations, one after another. -/
theorem KeepsCounts.foldl {α : Type} {f : State → α → State} (hf : ∀ s a, KeepsCounts s (f s a)) (l : List α) (s : State) :
    KeepsCounts s (l.foldl f s) :=
  List.foldlRecOn (motive := fun t => KeepsCounts s t) l f (.refl s) (fun _ ht a _ => ht.trans (hf _ a))

theorem reportIn_keepsCounts (n : FrameNo) (b : Block) (k : FaultKind) (d : Nat) (s : State) :
    KeepsCounts s (reportIn n b k d s) := ⟨reportIn_grows n b k d s, id⟩

theorem report_keepsCounts (b : Block) (k : FaultKind) (d : Nat) (s : State) : KeepsCounts s (report b k d s) :=
  reportIn_keepsCounts _ b k d s

theorem reportIf_keepsCounts (c : Bool) (b : Block) (k : FaultKind) (d : Nat) (s : State) :
    KeepsCounts s (reportIf c b k d s) := .ite (fun _ => report_keepsCounts b k d s) (fun _ => .refl s)

theorem takeReports_keepsCounts (s : State) : KeepsCounts s (takeReports s) := by
  refine ⟨takeReports_grows s, fun h => ?_⟩
  unfold State.countsSound
  rw [takeReports_ctl, takeReports_link, takeReports_light, takeReports_agr]
  exact h

theorem withLine_keepsCounts (s : State) (l : FrameLine) : KeepsCounts s (s.withLine l) := KeepsCounts.refl s

theorem withPort_keepsCounts (s : State) (p : Port) : KeepsCounts s (s.withPort p) := KeepsCounts.refl s

theorem withSol_keepsCounts (s : State) (x : Solver) : KeepsCounts s (s.withSol x) := KeepsCounts.refl s

theorem withStore_keepsCounts (s : State) (x : Store) : KeepsCounts s (s.withStore x) := KeepsCounts.refl s

theorem withLoader_keepsCounts (s : State) (x : Loader) : KeepsCounts s (s.withLoader x) := KeepsCounts.refl s

theorem withPix_keepsCounts (s : State) (x : PixelPath) : KeepsCounts s (s.withPix x) := KeepsCounts.refl s

/-- A controller in the place of the one before. -/
theorem withCtl_keepsCounts {s : State} {k : Controller} (h : s.ctl.sound → k.sound) : KeepsCounts s (s.withCtl k) :=
  ⟨.refl _, fun ⟨ctl, link, light, peers⟩ => ⟨h ctl, link, light, peers⟩⟩

theorem withLink_keepsCounts {s : State} {l : Link} (h : s.link.sound → l.sound) : KeepsCounts s (s.withLink l) :=
  ⟨.refl _, fun ⟨ctl, link, light, peers⟩ => ⟨ctl, h link, light, peers⟩⟩

theorem withLight_keepsCounts {s : State} {x : LightMonitor} (h : s.light.sound → x.sound) :
    KeepsCounts s (s.withLight x) :=
  ⟨.refl _, fun ⟨ctl, link, light, peers⟩ => ⟨ctl, link, h light, peers⟩⟩

theorem withAgr_keepsCounts {s : State} {a : Agreement} (h : s.agr.peersSound → a.peersSound) :
    KeepsCounts s (s.withAgr a) :=
  ⟨.refl _, fun ⟨ctl, link, light, peers⟩ => ⟨ctl, link, light, h peers⟩⟩

/-! ## The peer table (R33) -/

/-- The counts of a peer record are in their ranges (R33). -/
def PeerRecord.countsSound (r : PeerRecord) : Prop := r.silence ≤ 65535 ∧ r.repair ≤ 2

/-- A change of one record that keeps its counts in range. -/
theorem Agreement.peersSound.modify {a b : Agreement} (h : a.peersSound) {i : Nat} {f : PeerRecord → PeerRecord}
    (hb : b.peers = a.peers.modify i f) (hf : ∀ r, r.countsSound → (f r).countsSound) : b.peersSound := by
  refine ⟨by rw [hb, List.length_modify]; exact h.1, fun r hr => ?_⟩
  rw [hb] at hr
  obtain hr | ⟨q, hq, rfl⟩ := mem_modify hr
  · exact h.2 r hr
  · exact hf q (h.2 q hq)

/-- A change of every peer's record that keeps its counts in range. -/
theorem Agreement.peersSound.onPeers {a : Agreement} (h : a.peersSound) (own : Nat) {f : Nat → PeerRecord → PeerRecord}
    (hf : ∀ i r, r.countsSound → (f i r).countsSound) : (a.onPeers own f).peersSound := by
  refine ⟨(List.length_mapIdx ..).trans h.1, fun r hr => ?_⟩
  obtain ⟨i, hi, rfl⟩ := List.mem_mapIdx.1 hr
  have hq := h.2 _ (List.getElem_mem hi)
  split
  · exact hq
  · exact hf i _ hq

theorem resetAgreement_peersSound (own : Nat) : (resetAgreement own).peersSound := by
  refine ⟨by simp [resetAgreement, emptyPeers], fun r hr => ?_⟩
  obtain ⟨i, -, rfl⟩ := List.mem_map.1 hr
  split <;> exact ⟨Nat.zero_le _, Nat.zero_le _⟩

end Sys2Proof.Machine
end

section
/-!
PROOFS. The fault records and the counts through the port, the agreement unit, the solver and a frame start.
-/
namespace Sys2Proof.Machine

/-! ## The port and the frame line -/

/-- An arrival at a queue keeps the counts (R113, R114). -/
theorem enqueue_keepsCounts (b : Body) (s : State) : KeepsCounts s (enqueue b s) := by
  unfold enqueue
  dsimp only
  refine .ite (fun _ => .refl s) fun _ => ?_
  cases b with
  | change live reason subject epoch lam => exact .ite (fun _ => KeepsCounts.refl s) (fun _ => report_keepsCounts _ _ _ s)
  | pulse condition driving heldValid frame held => exact (withPort_keepsCounts s _).trans (.foldl (fun t m => report_keepsCounts _ _ (pulseDetail m) t) _ _)
  | _ => exact KeepsCounts.refl s

theorem jump_keepsCounts (e : Int) (s : State) : KeepsCounts s (jump e s) := by
  unfold jump
  exact (withLine_keepsCounts s _).trans (report_keepsCounts _ _ _ _)

theorem lockStep_keepsCounts (m : Measurement) (s : State) : KeepsCounts s (lockStep m s) := by
  have far : ∀ (c : Prop) [Decidable c] (d : Nat) (e : Int) (l : FrameLine), KeepsCounts s
      (if c then report .frameLine .farPhase d (s.withLine l) else jump e s) := fun c _ d e l =>
    .ite (fun _ => report_keepsCounts _ _ _ (s.withLine l)) (fun _ => jump_keepsCounts e s)
  unfold lockStep
  split
  · unfold listenStep
    split
    · exact .ite (fun _ => jump_keepsCounts _ s) (fun _ => KeepsCounts.refl s)
    · exact KeepsCounts.refl s
  · exact .ite (fun _ => KeepsCounts.refl s) (fun _ => KeepsCounts.refl s)
  · split
    · exact .ite (fun _ => KeepsCounts.refl s) fun _ => .ite (fun _ => far _ _ _ _) (fun _ => KeepsCounts.refl s)
    · exact KeepsCounts.refl s
  · split
    · refine .ite (fun _ => far _ _ _ _) fun _ => .ite (fun _ => ?_) (fun _ => KeepsCounts.refl s)
      exact .ite (fun _ => KeepsCounts.refl s) (fun _ => KeepsCounts.refl s)
    · exact KeepsCounts.refl s
  · split
    · refine .ite (fun _ => KeepsCounts.refl s) fun _ => .ite (fun _ => ?_) (fun _ => KeepsCounts.refl s)
      exact report_keepsCounts _ _ _ (s.withLine _)
    · exact KeepsCounts.refl s

theorem completeWindow_keepsCounts (s : State) : KeepsCounts s (completeWindow s) := by
  unfold completeWindow
  refine (withLine_keepsCounts s _).trans (.ite (fun _ => ?_) (fun _ => lockStep_keepsCounts _ _))
  exact (withLine_keepsCounts _ _).trans (report_keepsCounts _ _ _ _)

theorem failAttempt_keepsCounts (m : Message) (s : State) : KeepsCounts s (failAttempt m s) := by
  have skipped : ∀ c d p, KeepsCounts s (reportIf c .port .pulseSkipped d (s.withPort p)) := fun c d p =>
    reportIf_keepsCounts c _ _ d (s.withPort p)
  refine .ite (fun _ => ?_) (fun _ => skipped _ _ _)
  exact (skipped _ _ _).trans (report_keepsCounts _ _ _ (State.withPort _ _))

theorem failHaltedAttempt_keepsCounts (m : Message) (s : State) : KeepsCounts s (failHaltedAttempt m s) := by
  unfold failHaltedAttempt
  exact (withPort_keepsCounts s _).trans (reportIf_keepsCounts _ _ _ _ _)

theorem queuePeriodic_keepsCounts (s : State) : KeepsCounts s (queuePeriodic s) :=
  .ite (fun _ => (enqueue_keepsCounts _ s).trans (enqueue_keepsCounts _ _)) (fun _ => enqueue_keepsCounts _ s)

/-! ## Messages -/

/-- A change taken keeps the counts from its LATE_CHANGE report on (R40 to R43). -/
theorem takeChange_keepsReport (c : Change) (n : FrameNo) (s : State) : KeepsCounts
    (reportIf (notAfter n (s.current + 3)) .agreement .lateChange (changeSubject c) s) (takeChange c n s) := by
  have removed : ∀ t, KeepsCounts t (removePending c t) := fun t => by
    obtain ⟨y, h⟩ := removePending_frame c t
    rw [h]
    exact KeepsCounts.refl t
  have placed : ∀ t m, KeepsCounts t (placeChange c m t) := fun t m =>
    .ite (fun _ => KeepsCounts.refl t) fun _ => .ite (fun _ => KeepsCounts.refl t) fun _ =>
      report_keepsCounts _ _ _ (t.withAgr (t.agr.onRecord _ _))
  refine .ite (fun _ => .ite (fun _ => removed _) (fun _ => .refl _)) fun _ => ?_
  exact (removed _).trans (placed _ _)

theorem takeChange_keepsCounts (c : Change) (n : FrameNo) (s : State) : KeepsCounts s (takeChange c n s) :=
  (reportIf_keepsCounts _ _ _ _ s).trans (takeChange_keepsReport c n s)

/-- A change of one peer record that keeps its counts in range. -/
theorem onPeer_keepsCounts {s : State} (i : Nat) {f : PeerRecord → PeerRecord}
    (hf : ∀ r, r.countsSound → (f r).countsSound) : KeepsCounts s (s.withAgr (s.agr.onPeer i f)) :=
  withAgr_keepsCounts fun h => h.modify rfl hf

theorem takeBounds_keepsCounts (i : Nat) (b : LastBounds) (s : State) : KeepsCounts s (takeBounds i b s) := by
  refine (onPeer_keepsCounts (f := fun r => { r with bounds := some b }) i fun _ h => h).trans ?_
  unfold takeBounds
  dsimp only
  split
  · exact report_keepsCounts _ _ _ _
  · exact .ite (fun _ => .refl _) (fun _ => KeepsCounts.refl _)

theorem takeLevels_keepsCounts (i : Nat) (x : LevelsInfo) (s : State) : KeepsCounts s (takeLevels i x s) := by
  have written := onPeer_keepsCounts (s := s) (f := fun r => { r with levels := some x }) i fun _ h => h
  refine .ite (fun _ => written) fun _ => written.trans ?_
  have factor := onPeer_keepsCounts (s := s.withAgr (s.agr.onPeer i fun r => { r with levels := some x })) i
    (f := fun r => { r with factor := factorFromLevels (s.ctl.condition == .joining) r.factor x.lam }) fun _ h => h
  refine factor.trans ?_
  split <;> exact KeepsCounts.refl _

/-- A message taken keeps the counts (R112, R116). -/
theorem takeBody_keepsCounts (i : Nat) (b : Body) (s : State) : KeepsCounts s (takeBody i b s) := by
  cases b with
  | change live reason subject epoch lam =>
    exact .ite (fun _ => report_keepsCounts _ _ _ s) fun _ => .ite (fun _ => .refl s) fun _ => takeChange_keepsCounts _ _ s
  | light epoch lam => exact takeChange_keepsCounts _ _ s
  | pulse condition driving heldValid frame held => exact onPeer_keepsCounts i fun _ h => ⟨Nat.zero_le _, h.2⟩
  | bounds epochLow floor ceiling => exact takeBounds_keepsCounts _ _ s
  | levels lam mNow target remaining => exact takeLevels_keepsCounts _ _ s
  | fade start target duration =>
    exact .ite (fun _ => report_keepsCounts _ _ _ s) fun _ => .ite (fun _ => KeepsCounts.refl s) fun _ =>
      report_keepsCounts _ _ _ (s.withAgr { s.agr with pendingFade := _ })
  | identify start mask period on =>
    exact .ite (fun _ => report_keepsCounts _ _ _ s) fun _ => .ite (fun _ => KeepsCounts.refl s) fun _ => .refl s
  | identifyOff endFrame => exact KeepsCounts.refl s

theorem setHeard_keepsCounts (i : Nat) (s : State) : KeepsCounts s (setHeard i s) := onPeer_keepsCounts i fun _ h => h

/-- A factor of 16 bits announced keeps the counts (R170). -/
theorem setAnnounced_keepsCounts {lam : Nat} {s : State} (h : s.light.sound → lam ≤ 65535) :
    KeepsCounts s (setAnnounced lam s) :=
  withLight_keepsCounts fun hl => ⟨hl.1, hl.2.1, h hl, hl.2.2.2.1, Nat.zero_le _⟩

theorem ownNotice_keepsCounts (b : Body) (s : State) : KeepsCounts s (ownNotice b s) := by
  cases b with
  | pulse condition driving heldValid frame held =>
    have cleared : KeepsCounts s (s.withCtl { s.ctl with selfSilence := 0 }) :=
      withCtl_keepsCounts fun ⟨listen, dwell, aligned, _⟩ => ⟨listen, dwell, aligned, Nat.zero_le _⟩
    exact cleared.trans (setHeard_keepsCounts _ _)
  | light epoch lam => exact setAnnounced_keepsCounts fun _ => Nat.le_of_lt_succ lam.isLt
  | _ => exact .refl s

/-- Entry to HALTED keeps the counts (R32, R119, R172). -/
theorem enterHalted_keepsCounts (s : State) : KeepsCounts s (enterHalted s) := by
  refine ⟨.refl _, fun ⟨ctl, ⟨miss, run, lanes⟩, light, peers⟩ => ⟨ctl, ⟨miss, ?_, lanes⟩, light, peers⟩⟩
  show (if s.link.state = .up then 0 else s.link.cleanRun) ≤ 255
  split
  · exact Nat.zero_le _
  · exact run

theorem receiveFrame_keepsCounts (f : BusFrame) (s : State) : KeepsCounts s (receiveFrame f s) := by
  unfold receiveFrame
  refine .ite (fun _ => .refl s) fun _ => .ite (fun _ => ?_) fun _ => ?_
  · exact (report_keepsCounts _ _ _ s).trans (enterHalted_keepsCounts _)
  · split
    · exact report_keepsCounts _ _ _ s
    · rename_i m _
      refine .ite (fun _ => report_keepsCounts _ _ _ s) fun _ => ?_
      have taken := (setHeard_keepsCounts m.sender.toNat s).trans (takeBody_keepsCounts m.sender.toNat m.body _)
      obtain ⟨l, h⟩ := offerCount_frame m.body (takeBody m.sender.toNat m.body (setHeard m.sender.toNat s))
      unfold acceptMessage
      rw [h]
      exact taken

/-! ## The solver -/

theorem startJobs_keepsCounts (s : State) : KeepsCounts s (startJobs s) := by
  obtain ⟨e, y, h⟩ := startJobs_quiet s
  rw [h]
  exact KeepsCounts.refl s

theorem completeBounds_keepsCounts (p : Pass) (s : State) : KeepsCounts s (completeBounds p s) := by
  have result : ∀ n q t, KeepsCounts t (takeBoundsResult n q t) := fun n q t => by
    unfold takeBoundsResult
    split
    · exact .refl t
    · cases q with
      | none => exact .ite (fun _ => KeepsCounts.refl t) (fun _ => .refl t)
      | some x => exact (enqueue_keepsCounts _ t).trans (.ite (fun _ => KeepsCounts.refl _) (fun _ => .refl _))
  unfold completeBounds
  exact ((withSol_keepsCounts s _).trans (reportIf_keepsCounts _ _ _ _ _)).trans (result _ _ _)

theorem completeCoeff_keepsCounts (p : Pass) (s : State) : KeepsCounts s (completeCoeff p s) := by
  unfold completeCoeff
  refine KeepsCounts.trans ?_ (reportIf_keepsCounts _ _ _ _ _)
  exact KeepsCounts.refl s

end Sys2Proof.Machine
end

section
/-!
PROOFS. The fault records and the counts through a frame start.
-/
namespace Sys2Proof.Machine

/-! ## The counts of a frame start -/

theorem eccReport_keepsCounts (s : State) : KeepsCounts s (eccReport s) := by
  unfold eccReport
  split
  · exact (withStore_keepsCounts s _).trans (report_keepsCounts _ _ _ _)
  · exact .refl s

theorem endFrameReads_keepsCounts (s : State) : KeepsCounts s (endFrameReads s) :=
  (eccReport_keepsCounts s).trans (takeReports_keepsCounts _)

theorem rasterFrameStart_keepsCounts (first : Stamp) (s : State) : KeepsCounts s (rasterFrameStart first s) := by
  unfold rasterFrameStart
  exact (withLine_keepsCounts s _).trans (reportIf_keepsCounts _ _ _ _ _)

theorem portFrameStart_keepsCounts (s : State) : KeepsCounts s (portFrameStart s) := by
  obtain ⟨p, h⟩ := portFrameStart_frame s
  rw [h]
  exact KeepsCounts.refl s

/-- The miss count of a frame start, and the clean run count where it falls (R134, R135). -/
theorem missStep_sound {l : Link} (h : l.sound) (c : Prop) [Decidable c] :
    (if c then { missStep l with cleanRun := 0 } else missStep l).sound := by
  obtain ⟨-, run, lanes⟩ := h
  have miss : (missStep l).miss ≤ 255 := by
    unfold missStep
    dsimp only
    split
    · exact Nat.zero_le _
    · exact satInc_le_top _ _
  split
  · exact ⟨miss, Nat.zero_le _, lanes⟩
  · exact ⟨miss, run, lanes⟩

theorem inputHealthStep_keepsCounts (s : State) : KeepsCounts s (inputHealthStep s) := by
  have counted : s.link.sound → _ := fun h => missStep_sound h (s.settings.holdLimit ≤ (missStep s.link).miss)
  have plain := withLink_keepsCounts (s := s) counted
  unfold inputHealthStep
  dsimp only
  generalize (if s.settings.holdLimit ≤ (missStep s.link).miss then { missStep s.link with cleanRun := 0 }
    else missStep s.link) = l at counted plain ⊢
  split
  · refine .ite (fun _ => plain) fun _ => ?_
    have fallen : KeepsCounts s (s.withLink { l with health := .failed, cleanRun := 0 }) :=
      withLink_keepsCounts fun h => ⟨(counted h).1, Nat.zero_le _, (counted h).2.2⟩
    exact fallen.trans (report_keepsCounts _ _ _ _)
  · exact .ite (fun _ => withLink_keepsCounts fun h => counted h) (fun _ => plain)

theorem spacingStep_keepsCounts (s : State) : KeepsCounts s (spacingStep s) :=
  withLight_keepsCounts fun ⟨measured, filtered, announced, out, _⟩ =>
    ⟨measured, filtered, announced, out, satInc_le_top _ _⟩

theorem silenceStep_keepsCounts (s : State) : KeepsCounts s (silenceStep s) :=
  .ite (fun _ => withAgr_keepsCounts fun h => h.onPeers _ fun _ _ hr => ⟨satInc_le_top _ _, hr.2⟩) (fun _ => .refl s)

theorem countStep_keepsCounts (s : State) : KeepsCounts s (countStep s) := by
  refine withCtl_keepsCounts fun ⟨listen, dwell, _, _⟩ => ⟨?_, dwell, ?_, satInc_le_top _ _⟩
  · dsimp only
    split
    · exact satInc_le_top _ _
    · exact listen
  · dsimp only
    split
    · exact satInc_le_top _ _
    · exact Nat.zero_le _

/-- The counts of a frame start stay in their ranges (R25, R35, R37, R109, R134, R135, R170). -/
theorem frameCounts_keepsCounts (s : State) : KeepsCounts s (frameCounts s) :=
  ((((portFrameStart_keepsCounts s).trans (inputHealthStep_keepsCounts _)).trans (spacingStep_keepsCounts _)).trans
    (silenceStep_keepsCounts _)).trans (countStep_keepsCounts _)

/-! ## The agreement part -/

/-- The repair count of a peer stays within 0 to 2 (R46). -/
theorem repairCount_le {a : Agreement} {old : FrameNo} {i : Nat} {r : PeerRecord} (h : r.repair ≤ 2) :
    repairCount a old i r ≤ 2 := by
  unfold repairCount
  split_ifs with pending full
  · exact Nat.zero_le _
  · exact h
  · split
    · split_ifs
      · exact Nat.zero_le _
      · omega
      · exact h
    · exact h

theorem viewStep_keepsCounts (joining : Bool) (old : FrameNo) (s : State) : KeepsCounts s (viewStep joining old s) := by
  unfold viewStep
  refine .ite (fun _ => withAgr_keepsCounts fun h => h) fun _ => ?_
  exact withAgr_keepsCounts fun h => h.onPeers _ fun _ _ hr => ⟨hr.1, repairCount_le hr.2⟩

theorem lateSwapStep_keepsCounts (s : State) : KeepsCounts s (lateSwapStep s) := by
  obtain ⟨y, h⟩ := lateSwapStep_frame s
  rw [h]
  exact KeepsCounts.refl s

/-- A state change that takes effect keeps the counts (R29, R44). -/
theorem applyState_keepsCounts (s : State) (c : StateChange) : KeepsCounts s (applyState s c) := by
  have member : KeepsCounts s (s.withAgr { s.agr with live := setMember s.agr.live c.subject c.live }) :=
    withAgr_keepsCounts fun h => h
  refine .ite (fun _ => member) fun _ => member.trans ?_
  refine KeepsCounts.trans (withAgr_keepsCounts fun h => ?_) (withCtl_keepsCounts fun h => ?_)
  · dsimp only
    unfold applyStateToPeers
    split
    · exact h.modify rfl (fun _ hr => hr)
    · exact h
  · unfold moveCondition
    obtain ⟨listen, dwell, aligned, silence⟩ := h
    split_ifs <;> first | exact ⟨listen, dwell, aligned, silence⟩ | exact ⟨listen, Nat.zero_le _, aligned, silence⟩

theorem answerSwap_keepsCounts (r : EpochRecord) (s : State) : KeepsCounts s (answerSwap r s) := by
  unfold answerSwap
  refine .ite (fun _ => withSol_keepsCounts s _) fun _ => .ite (fun _ => ?_) (fun _ => report_keepsCounts _ _ _ s)
  exact (withSol_keepsCounts s _).trans (report_keepsCounts _ _ _ _)

/-- A record that takes effect keeps the counts (R44). -/
theorem applyRecord_keepsCounts (s : State) (r : EpochRecord) : KeepsCounts s (applyRecord s r) := by
  have states := KeepsCounts.foldl applyState_keepsCounts r.states s
  have lights : ∀ t, KeepsCounts t (applyLights r t) := fun t => withAgr_keepsCounts fun h => by
    refine List.foldlRecOn (motive := fun ps => Agreement.peersSound { t.agr with peers := ps }) r.lights applyLightToPeers
      h (fun ps hps c _ => ?_)
    exact Agreement.peersSound.modify (b := { t.agr with peers := applyLightToPeers ps c }) hps rfl (fun _ hr => hr)
  exact ((states.trans (lights _)).trans (answerSwap_keepsCounts r _)).trans (withSol_keepsCounts _ _)

theorem repairPeer_keepsCounts (s : State) (i : Nat) : KeepsCounts s (repairPeer s i) := by
  have repaired : ∀ v, KeepsCounts s (s.withAgr (Agreement.onPeer { s.agr with live := v } i
      (fun r => { r with repair := 0 }))) := fun v =>
    withAgr_keepsCounts fun h => Agreement.peersSound.modify (a := { s.agr with live := v }) h rfl
      (fun _ hr => ⟨hr.1, Nat.zero_le _⟩)
  unfold repairPeer
  exact (repaired _).trans (report_keepsCounts _ _ _ _)

theorem lightSourceStep_keepsCounts (s : State) : KeepsCounts s (lightSourceStep s) := by
  refine withAgr_keepsCounts fun h => h.onPeers _ fun i r hr => ?_
  unfold sourceToLevels
  split
  · split <;> exact hr
  · exact hr

theorem dwellStep_keepsCounts (s : State) : KeepsCounts s (dwellStep s) :=
  .ite (fun _ => withCtl_keepsCounts fun ⟨listen, _, aligned, silence⟩ => ⟨listen, satInc_le_top _ _, aligned, silence⟩)
    (fun _ => .refl s)

theorem showStep_keepsCounts (old : FrameNo) (s : State) : KeepsCounts s (showStep old s) :=
  withAgr_keepsCounts fun h => by
    have peers := (identifyFadeFrameStart_frame old s.current s.agr).2
    exact ⟨by rw [peers]; exact h.1, by rw [peers]; exact h.2⟩

/-- The agreement part of a frame start keeps the counts (R30, R44 to R46, R48, R56, R63). -/
theorem frameAgreement_keepsCounts (joining : Bool) (old : FrameNo) (s : State) :
    KeepsCounts s (frameAgreement joining old s) := by
  have due : ∀ t, KeepsCounts t (applyDue old t) := fun t =>
    KeepsCounts.trans (t := t.withAgr { t.agr with epochs := t.agr.epochs.filter (fun r => !isDue old t.current r) })
      (withAgr_keepsCounts fun h => h) (.foldl applyRecord_keepsCounts _ _)
  have sources : ∀ t, KeepsCounts t (if joining then t else lightSourceStep t) := fun t =>
    .ite (fun _ => .refl t) (fun _ => lightSourceStep_keepsCounts t)
  unfold frameAgreement
  exact (((((viewStep_keepsCounts joining old s).trans (lateSwapStep_keepsCounts _)).trans (due _)).trans
    (.foldl repairPeer_keepsCounts _ _)).trans (sources _)).trans
      ((dwellStep_keepsCounts _).trans (showStep_keepsCounts old _))

/-! ## Changes, jobs, selection and setup -/

theorem announceStep_keepsCounts (s : State) : KeepsCounts s (announceStep s) := by
  refine .ite (fun _ => ?_) fun _ => .ite (fun _ => enqueue_keepsCounts _ s) (fun _ => .refl s)
  unfold announceLive
  refine .ite (fun _ => ?_) (fun _ => enqueue_keepsCounts _ s)
  obtain ⟨p, x, h⟩ := enqueue_frame
    (.change true .join (BitVec.ofNat 8 s.own) s.leadEpoch (field16 s.light.filtered)) s
  refine (enqueue_keepsCounts _ s).trans (setAnnounced_keepsCounts fun hl => ?_)
  rw [h] at hl
  exact hl.2.1

theorem peerSilenceStep_keepsCounts (s : State) : KeepsCounts s (peerSilenceStep s) :=
  .foldl (fun t _ => (enqueue_keepsCounts _ t).trans (reportIf_keepsCounts _ _ _ _ _)) _ s

theorem selfSilenceStep_keepsCounts (s : State) : KeepsCounts s (selfSilenceStep s) :=
  .ite (fun _ => (takeChange_keepsCounts _ _ s).trans (report_keepsCounts _ _ _ _)) (fun _ => .refl s)

theorem lightRequestStep_keepsCounts (s : State) : KeepsCounts s (lightRequestStep s) := by
  refine .ite (fun _ => ?_) (fun _ => .refl s)
  refine (enqueue_keepsCounts (.light s.leadEpoch (field16 s.light.filtered)) s).trans ?_
  exact withLight_keepsCounts fun ⟨measured, filtered, announced, out, _⟩ =>
    ⟨measured, filtered, announced, out, Nat.zero_le _⟩

theorem frameChanges_keepsCounts (s : State) : KeepsCounts s (frameChanges s) := by
  have silent : ∀ t, KeepsCounts t (if t.ctl.condition = .joining then t else peerSilenceStep t) := fun t =>
    .ite (fun _ => .refl t) (fun _ => peerSilenceStep_keepsCounts t)
  unfold frameChanges
  exact (((announceStep_keepsCounts s).trans (silent _)).trans (selfSilenceStep_keepsCounts _)).trans
    (lightRequestStep_keepsCounts _)

theorem cutRecord_keepsCounts (s : State) (r : EpochRecord) : KeepsCounts s (cutRecord s r) := by
  have reports := (KeepsCounts.foldl (fun u (e : BoundsEntry) => report_keepsCounts .agreement .staleBound e.station u)
    ((cutTable s.agr r).filter (fun e => !e.received && !(e.station == s.own))) s).trans
    (reportIf_keepsCounts (collapses (reduceBounds (cutTable s.agr r))) .agreement .levelCollapse
      (r.frame.setWidth 16).toNat _)
  exact reports.trans (KeepsCounts.trans (withAgr_keepsCounts fun h => h) (withSol_keepsCounts _ _))

theorem frameJobs_keepsCounts (s : State) : KeepsCounts s (frameJobs s) := by
  have queued : KeepsCounts s (queueBoundsJobs s) := KeepsCounts.refl s
  exact (queued.trans (.foldl cutRecord_keepsCounts _ _)).trans (startJobs_keepsCounts _)

theorem selectContent_keepsCounts (s : State) : KeepsCounts s (selectContent s) := by
  unfold selectContent
  exact ((withStore_keepsCounts s _).trans (reportIf_keepsCounts _ _ _ _ _)).trans (reportIf_keepsCounts _ _ _ _ _)

theorem setupStep_keepsCounts (s : State) : KeepsCounts s (setupStep s) := KeepsCounts.refl s

/-- A frame start keeps the counts (R80). -/
theorem workingFrameStart_keepsCounts (first : Stamp) (s : State) : KeepsCounts s (workingFrameStart first s) := by
  unfold workingFrameStart
  exact (((((((endFrameReads_keepsCounts s).trans (rasterFrameStart_keepsCounts first _)).trans
    (frameCounts_keepsCounts _)).trans (frameAgreement_keepsCounts _ _ _)).trans (frameChanges_keepsCounts _)).trans
      (frameJobs_keepsCounts _)).trans (selectContent_keepsCounts _)).trans (setupStep_keepsCounts _)

end Sys2Proof.Machine
end

section
/-!
PROOFS. The fault records and the counts through the link receiver, the light monitor and the image loader.
-/
namespace Sys2Proof.Machine

/-! ## The link receiver -/

/-- The counts of a lane are in their ranges (R122). -/
def Lane.countsSound (x : Lane) : Prop := x.checked ≤ 4294967295 ∧ x.mismatched ≤ 65535

/-- A bit received keeps a lane's counts in range (R122). -/
theorem laneBit_countsSound {x : Lane} (h : x.countsSound) (b : Bool) : (laneBit x b).countsSound := by
  have judged : ∀ c, (judgeBit x c).countsSound := fun c => by
    unfold judgeBit
    dsimp only
    split
    · exact h
    · refine ⟨satInc_le_top _ _, ?_⟩
      dsimp only
      split
      · exact h.2
      · exact satInc_le_top _ _
  unfold laneBit
  dsimp only
  split
  · exact h
  · split
    · exact judged _
    · exact h

/-- Lanes changed one by one, with their counts in range, keep the counts. -/
theorem withLanes_keepsCounts {s : State} {l : Link} (hm : l.miss = s.link.miss) (hr : l.cleanRun = s.link.cleanRun)
    (hl : (∀ x ∈ s.link.lanes, x.countsSound) → ∀ x ∈ l.lanes, x.countsSound) : KeepsCounts s (s.withLink l) :=
  withLink_keepsCounts fun ⟨miss, run, lanes⟩ => ⟨hm ▸ miss, hr ▸ run, hl lanes⟩

theorem receiveBits_keepsCounts (r : List (List Bool)) (s : State) : KeepsCounts s (receiveBits r s) := by
  refine .ite (fun _ => withLanes_keepsCounts rfl rfl fun h x hx => ?_) (fun _ => .refl s)
  obtain ⟨i, hi, rfl⟩ := List.mem_mapIdx.1 hx
  have old := h _ (List.getElem_mem hi)
  split
  · exact List.foldlRecOn (motive := Lane.countsSound) _ _ old (fun _ hy b _ => laneBit_countsSound hy b)
  · exact old

/-- The open frame, the readers, the timers and the state of the link do not bear on the counts. -/
theorem poison_keepsCounts (c : Nat) (s : State) : KeepsCounts s (poison c s) := KeepsCounts.refl s

theorem onReaders_keepsCounts (f : Nat → LaneReader → LaneReader) (s : State) : KeepsCounts s (onReaders f s) :=
  withLanes_keepsCounts rfl rfl id

theorem restartTimer_keepsCounts (s : State) : KeepsCounts s (restartTimer s) := KeepsCounts.refl s

/-- The clean run count set to 0 keeps the counts (R131, R133, R135). -/
theorem clearedRun_keepsCounts {s : State} {l : Link} (hm : l.miss = s.link.miss) (hr : l.cleanRun = 0)
    (hl : l.lanes = s.link.lanes) : KeepsCounts s (s.withLink l) :=
  withLink_keepsCounts fun ⟨miss, _, lanes⟩ => ⟨hm ▸ miss, hr ▸ Nat.zero_le _, hl ▸ lanes⟩

theorem endPoisonedKeepSlot_keepsCounts (f : OpenFrame) (s : State) : KeepsCounts s (endPoisonedKeepSlot f s) := by
  unfold endPoisonedKeepSlot
  refine KeepsCounts.trans ?_ (report_keepsCounts _ _ _ _)
  exact clearedRun_keepsCounts rfl rfl rfl

theorem endPoisoned_keepsCounts (f : OpenFrame) (s : State) : KeepsCounts s (endPoisoned f s) := by
  unfold endPoisoned
  refine (endPoisonedKeepSlot_keepsCounts f s).trans ?_
  unfold releaseFrameSlot
  split
  · exact withStore_keepsCounts _ _
  · exact .refl _

theorem leaveUp_keepsCounts (s : State) : KeepsCounts s (leaveUp s) := by
  have down : KeepsCounts s (s.withLink { s.link with
      state := .down, cleanRun := 0, inputTimer := none, settleTimer := none }) := clearedRun_keepsCounts rfl rfl rfl
  unfold leaveUp
  refine down.trans ?_
  unfold poisonAndEnd
  split
  · exact endPoisoned_keepsCounts _ _
  · exact .refl _

theorem losePacket_keepsCounts (k : FaultKind) (d : Nat) (s : State) : KeepsCounts s (losePacket k d s) := by
  unfold losePacket
  exact ((onReaders_keepsCounts _ s).trans (report_keepsCounts _ _ _ _)).trans (poison_keepsCounts _ _)

theorem requestSlot_keepsCounts (c : ContentNo) (s : State) : KeepsCounts s (requestSlot c s).2 := by
  unfold requestSlot
  dsimp only
  split
  · exact withStore_keepsCounts _ _
  · split
    · split
      · exact (withStore_keepsCounts _ _).trans (report_keepsCounts _ _ _ _)
      · exact .refl _
    · exact report_keepsCounts _ _ _ _

theorem openNewFrame_keepsCounts (c : ContentNo) (f w h : Nat) (s : State) : KeepsCounts s (openNewFrame c f w h s) := by
  have ended : KeepsCounts s (endByFrameStart s) := by
    unfold endByFrameStart
    split
    · exact endPoisonedKeepSlot_keepsCounts _ s
    · exact .refl s
  have opened : ∀ (t : State) (g : OpenFrame), KeepsCounts t (t.withLink { t.link with openFrame := some g }) :=
    fun t g => KeepsCounts.refl t
  unfold openNewFrame
  dsimp only
  refine ended.trans ?_
  cases passedSlot s.link with
  | some i =>
    refine KeepsCounts.trans ?_ (opened _ _)
    refine KeepsCounts.trans ?_ (withStore_keepsCounts _ _)
    split
    · exact report_keepsCounts _ _ _ _
    · exact .refl _
  | none =>
    cases formatMismatch s.settings f w h with
    | some field => exact (report_keepsCounts _ _ _ _).trans (opened _ _)
    | none => exact (requestSlot_keepsCounts _ _).trans (opened _ _)

theorem checkLine_keepsCounts (f : OpenFrame) (p : List Byte) (s : State) : KeepsCounts s (checkLine f p s) := by
  have wrong : ∀ k d c, KeepsCounts s (poison c (report .link k d s)) := fun k d c =>
    (report_keepsCounts _ _ _ s).trans (poison_keepsCounts _ _)
  refine .ite (fun _ => wrong _ _ _) fun _ => .ite (fun _ => wrong _ _ _) fun _ => .ite (fun _ => .refl s) fun _ =>
    .ite (fun _ => poison_keepsCounts _ _) fun _ => ?_
  unfold writeLine
  dsimp only
  split <;> exact KeepsCounts.refl s

theorem handOver_keepsCounts (i : Nat) (c : ContentNo) (s : State) : KeepsCounts s (handOver i c s) := by
  have restart : KeepsCounts s (contentRestart i c s.current s) := by
    unfold contentRestart
    exact (withStore_keepsCounts s _).trans (report_keepsCounts _ _ _ _)
  unfold handOver
  dsimp only
  split
  · refine .ite (fun _ => withStore_keepsCounts s _) fun _ => .ite (fun _ => ?_) (fun _ => withStore_keepsCounts s _)
    exact .ite (fun _ => restart) (fun _ => withStore_keepsCounts s _)
  · exact withStore_keepsCounts s _

theorem endFrame_keepsCounts (f : OpenFrame) (n : Nat) (s : State) : KeepsCounts s (endFrame f n s) := by
  refine .ite (fun _ => endPoisoned_keepsCounts f s) fun _ => .ite (fun _ => ?_) (fun _ => endPoisoned_keepsCounts _ s)
  have clean : KeepsCounts s (s.withLink { s.link with
      openFrame := none, cleanFlag := true, cleanRun := satInc 255 s.link.cleanRun }) :=
    withLink_keepsCounts fun ⟨miss, _, lanes⟩ => ⟨miss, satInc_le_top _ _, lanes⟩
  refine clean.trans ?_
  unfold completeClean
  dsimp only
  split
  · exact handOver_keepsCounts _ _ _
  · exact .refl _

/-- A packet read keeps the counts (R127). -/
theorem readPacket_keepsCounts (p : Packet) (s : State) : KeepsCounts s (readPacket p s) := by
  refine .ite (fun _ => ?_) fun _ => .ite (fun _ => ?_) fun _ => .ite (fun _ => ?_) fun _ => restartTimer_keepsCounts s
  · unfold readFrameStart
    split
    · exact (openNewFrame_keepsCounts _ _ _ _ s).trans (restartTimer_keepsCounts _)
    · exact losePacket_keepsCounts _ _ s
  · unfold readLine
    refine KeepsCounts.trans ?_ (restartTimer_keepsCounts _)
    split
    · exact checkLine_keepsCounts _ _ s
    · exact .refl s
  · unfold readFrameEnd
    split
    · refine KeepsCounts.trans ?_ (restartTimer_keepsCounts _)
      split
      · exact endFrame_keepsCounts _ _ s
      · exact .refl s
    · exact losePacket_keepsCounts _ _ s

/-- Reading the lanes on keeps the counts (R125 to R127). -/
theorem readLanes_keepsCounts (n : Nat) (s : State) : KeepsCounts s (readLanes n s) := by
  induction n generalizing s with
  | zero => exact .refl s
  | succ n ih =>
    have next : ∀ t, KeepsCounts s t → KeepsCounts s (readLanes n (takeReports t)) := fun t ht =>
      (ht.trans (takeReports_keepsCounts t)).trans (ih _)
    unfold readLanes
    split
    · exact .refl s
    · exact next _ ((onReaders_keepsCounts _ s).trans (reportIf_keepsCounts _ _ _ _ _))
    · exact next _ (losePacket_keepsCounts _ _ s)
    · exact next _ (losePacket_keepsCounts _ _ s)
    · exact next _ ((onReaders_keepsCounts _ s).trans (readPacket_keepsCounts _ _))

theorem takeWords_keepsCounts (words : List (List LaneWord)) (s : State) : KeepsCounts s (takeWords words s) :=
  .ite (fun _ => (onReaders_keepsCounts _ s).trans (readLanes_keepsCounts _ _)) (fun _ => .refl s)

theorem linkUp_keepsCounts (s : State) : KeepsCounts s (linkUp s) := by
  unfold linkUp
  refine KeepsCounts.trans ?_ (readLanes_keepsCounts _ _)
  refine withLanes_keepsCounts rfl rfl fun h x hx => ?_
  obtain ⟨y, hy, rfl⟩ := List.mem_map.1 hx
  exact h y hy

/-! ## The light monitor -/

/-- The filtered factor stays in its range (R168). -/
theorem filterFactor_le {v : Bool} {f m : Nat} (hf : f ≤ 65535) (hm : m ≤ 65535) : filterFactor v f m ≤ 65535 := by
  unfold filterFactor truncDiv
  split
  · rw [Int.tdiv_eq_ediv, show Int.sign ((16 : Nat) : Int) = 1 from rfl]
    split <;> omega
  · exact hm

theorem measuredFactor_le (a b c : Nat) : measuredFactor a b c ≤ 65535 := by
  unfold measuredFactor
  split
  · exact min_le_left _ _
  · exact Nat.zero_le _

theorem nextLightState_out_le (lo f : Nat) (st : LightState) (n : Nat) : (nextLightState lo f st n).2 ≤ 4 := by
  unfold nextLightState
  split
  · exact Nat.zero_le _
  · exact Nat.zero_le _
  · split_ifs <;> omega

/-- A valid cycle keeps the counts (R167 to R169). -/
theorem validCycle_keepsCounts (a b : Nat) (n : FrameNo) (s : State) : KeepsCounts s (validCycle a b n s) := by
  have measured := measuredFactor_le a b s.settings.sCal
  unfold validCycle
  dsimp only
  generalize measuredFactor a b s.settings.sCal = m at measured ⊢
  have filtered : s.light.filtered ≤ 65535 → filterFactor s.light.hadValid s.light.filtered m ≤ 65535 := fun h =>
    filterFactor_le h measured
  generalize filterFactor s.light.hadValid s.light.filtered m = f at filtered ⊢
  have out := nextLightState_out_le s.settings.lamOut f s.light.state s.light.outCount
  generalize nextLightState s.settings.lamOut f s.light.state s.light.outCount = r at out ⊢
  have next : KeepsCounts s (s.withLight { s.light with
      measured := m, filtered := f, hadValid := true, state := r.1, outCount := r.2 }) :=
    withLight_keepsCounts fun ⟨_, old, announced, _, spacing⟩ => ⟨measured, filtered old, announced, out, spacing⟩
  exact .ite (fun _ => next.trans (reportIn_keepsCounts _ _ _ _ _)) (fun _ => next)

theorem takeSample_keepsCounts (v : Nat) (n : FrameNo) (s : State) : KeepsCounts s (takeSample v n s) := by
  have held : ∀ h c, KeepsCounts s (s.withLight { s.light with held := h, cycle := c }) := fun h c => KeepsCounts.refl s
  have cycle : ∀ a b, KeepsCounts s (formCycle a b n s) := fun a b =>
    .ite (fun _ => (held _ _).trans (validCycle_keepsCounts _ _ _ _)) (fun _ => (held _ _).trans (reportIn_keepsCounts _ _ _ _ _))
  unfold takeSample
  refine .ite (fun _ => held _ _) fun _ => .ite (fun _ => ?_) (fun _ => .refl s)
  split
  · exact .ite (fun _ => cycle _ _) (fun _ => held _ _)
  · exact .refl s

/-! ## The image loader and the resets -/

theorem failLoad_keepsCounts (code : Nat) (s : State) : KeepsCounts s (failLoad code s) := by
  have failed := report_keepsCounts .loader .imageInvalid code
    (s.withLoader { s.loader with state := .failed, code := some code })
  exact failed.trans ((enterHalted_keepsCounts _).trans (withLine_keepsCounts _ _))

theorem failLoadIf_keepsCounts (code : Option Nat) (s : State) : KeepsCounts s (failLoadIf code s) := by
  cases code with
  | none => exact .refl s
  | some c => exact failLoad_keepsCounts c s

/-- A load that completes resets the controller and the peer table, and leaves the fault records but for the mask (R181). -/
theorem completeLoad_keepsCounts (x : Settings) (s : State) : KeepsCounts s (completeLoad x s) :=
  ⟨⟨fun h => ⟨h, fun _ => le_refl _⟩, fun _ h => h, fun _ h => h⟩, fun ⟨_, link, light, _⟩ =>
    ⟨⟨Nat.zero_le _, Nat.zero_le _, Nat.zero_le _, Nat.zero_le _⟩, link, light, resetAgreement_peersSound _⟩⟩

theorem startValues_countsSound (straps : BitVec 4) (stamp : Stamp) (low : Bool) (memory : List (Nat × Rgb))
    (errors : List Nat) (faults : FaultUnit) (queue : List Instr) :
    (startValues straps stamp low memory errors faults queue).countsSound := by
  refine ⟨⟨Nat.zero_le _, Nat.zero_le _, Nat.zero_le _, Nat.zero_le _⟩, ⟨Nat.zero_le _, Nat.zero_le _, fun x hx => ?_⟩,
    ⟨Nat.zero_le _, Nat.zero_le _, (by decide : 16384 ≤ 65535), Nat.zero_le _, Nat.zero_le _⟩, resetAgreement_peersSound _⟩
  obtain rfl := List.eq_of_mem_replicate hx
  exact ⟨Nat.zero_le _, Nat.zero_le _⟩

theorem strapCheck_keepsCounts (s : State) : KeepsCounts s (strapCheck s) := by
  have failed := report_keepsCounts .loader .strapInvalid s.own
    (s.withLoader { s.loader with state := .failed, code := some 0 })
  exact .ite (fun _ => failed.trans ((enterHalted_keepsCounts _).trans (withLine_keepsCounts _ _))) (fun _ => .refl s)

/-- A warm reset leaves the fault records but for the mask (R183). -/
theorem warmStart_keepsCounts (straps : BitVec 4) (s : State) : KeepsCounts s (warmStart straps s) := by
  refine KeepsCounts.trans ?_ (strapCheck_keepsCounts _)
  exact ⟨⟨fun h => ⟨h, fun _ => le_refl _⟩, fun _ h => h, fun _ h => h⟩, fun _ => startValues_countsSound _ _ _ _ _ _ _⟩

end Sys2Proof.Machine
end

section
/-!
PROOFS. The fault records and the counts through every command (O11).
-/
namespace Sys2Proof.Machine

/-! ## The maintenance port -/

/-- From `s` to `t` the fault records are cleared and then only grow, and the counts stay in their ranges. -/
def ClearsCounts (s t : State) : Prop :=
  ∃ v, v.faults.sound ∧ (s.countsSound → v.countsSound) ∧ KeepsCounts v t

theorem clearedFaults_sound (f : FaultUnit) : (clearedFaults f).sound := by
  refine ⟨List.length_replicate, fun c hc => ?_⟩
  rw [List.eq_of_mem_replicate hc]
  exact Nat.zero_le _

theorem noteWrite_keepsCounts (acks : List Bool) (w : I2cWrite) (s : State) : KeepsCounts s (noteWrite acks w s) :=
  .ite (fun _ => KeepsCounts.refl s) (fun _ => .refl s)

/-- A write of the maintenance port keeps the fault records unless it is a complete CLEAR_FAULTS (R189, R191). -/
theorem portWrite_keepsCounts {b : Byte} {w : I2cWrite} (h : writesCommand .clearFaults b w = false) (straps : BitVec 4)
    (s : State) : KeepsCounts s (portWrite b w straps s) := by
  refine KeepsCounts.trans ?_ (noteWrite_keepsCounts _ _ _)
  cases hb : selectorOf b with
  | none => exact .refl s
  | some x =>
    cases x with
    | view n => exact .ite (fun _ => KeepsCounts.refl s) (fun _ => .refl s)
    | clearFaults =>
      have incomplete : writeCompletes (bytesCalled .clearFaults) w = false := by simpa [writesCommand, hb] using h
      show KeepsCounts s (selectorEffect .clearFaults w straps s)
      rw [selectorEffect_incomplete incomplete (fun _ => Selector.noConfusion)]
      exact .refl s
    | restart => exact .ite (fun _ => warmStart_keepsCounts straps s) (fun _ => .refl s)
    | attnMask =>
      exact .ite (fun _ => ⟨⟨fun h => ⟨h, fun _ => le_refl _⟩, fun _ h => h, fun _ h => h⟩, id⟩) (fun _ => .refl s)

/-- A complete CLEAR_FAULTS clears the fault records (R191). -/
theorem portWrite_clearsCounts {b : Byte} {w : I2cWrite} (h : writesCommand .clearFaults b w = true) (straps : BitVec 4)
    (s : State) : ClearsCounts s (portWrite b w straps s) := by
  obtain ⟨hb, complete⟩ := Bool.and_eq_true_iff.1 h
  have cleared : selectorEffect .clearFaults w straps s = s.withFaults (clearedFaults s.faults) := if_pos complete
  refine ⟨s.withFaults (clearedFaults s.faults), clearedFaults_sound _, id, ?_⟩
  unfold portWrite
  rw [beq_iff_eq.1 hb]
  dsimp only
  rw [cleared]
  exact noteWrite_keepsCounts _ _ _

/-! ## Every command -/

/-- What the command `c` does from `s` to `t`: it keeps the fault records and the counts, or is one that clears the records. -/
def Counts (c : Instr) (s t : State) : Prop := KeepsCounts s t ∨ (clearsFaults c = true ∧ ClearsCounts s t)

theorem portWrite_counts {c : Instr} {b : Byte} {w : I2cWrite} (hc : clearsFaults c = writesCommand .clearFaults b w)
    (straps : BitVec 4) (s : State) : Counts c s (portWrite b w straps s) := by
  cases h : writesCommand .clearFaults b w with
  | false => exact .inl (portWrite_keepsCounts h straps s)
  | true => exact .inr ⟨hc.trans h, portWrite_clearsCounts h straps s⟩

/-- A write of another selector than CLEAR_FAULTS keeps the fault records. -/
theorem selectorWrite_counts (c : Instr) {b : Byte} (hb : selectorOf b ≠ some .clearFaults) (w : I2cWrite)
    (straps : BitVec 4) (s : State) : Counts c s (portWrite b w straps s) :=
  .inl (portWrite_keepsCounts (by simp [writesCommand, hb]) straps s)

/-- Every command keeps the fault records and the counts, or clears the records. -/
theorem exec_counts {c : Instr} {s t : State} (h : exec c s = .next t) : ∃ u, Counts c s u ∧ takeReports u = t := by
  cases c with
  | powerOnReset straps =>
    refine ⟨_, .inr ⟨rfl, _, ?_, fun _ => startValues_countsSound _ _ _ _ _ _ _, strapCheck_keepsCounts _⟩,
      finish_eq_next.1 h⟩
    exact clearedFaults_sound resetFaults
  | warmReset straps => exact ⟨_, .inl (warmStart_keepsCounts straps s), finish_eq_next.1 h⟩
  | imageHeaderCheck pattern version bodyLength crc imageId =>
    refine ⟨_, .inl (.ite (fun _ => ?_) (fun _ => .refl s)), finish_eq_next.1 h⟩
    dsimp only
    split
    · exact (withLoader_keepsCounts s _).trans (failLoad_keepsCounts _ _)
    · exact (withLoader_keepsCounts s _).trans (withLoader_keepsCounts _ _)
  | sectionHeadCheck code length =>
    refine ⟨_, .inl (.ite (fun _ => ?_) (fun _ => .refl s)), finish_eq_next.1 h⟩
    dsimp only
    split
    · exact (withLoader_keepsCounts s _).trans (failLoad_keepsCounts _ _)
    · exact withLoader_keepsCounts s _
  | settingsSectionEnd entries =>
    refine ⟨_, .inl (.ite (fun _ => ?_) (fun _ => .refl s)), finish_eq_next.1 h⟩
    dsimp only
    split
    · exact (withLoader_keepsCounts s _).trans (failLoad_keepsCounts _ _)
    · exact (withLoader_keepsCounts s _).trans (.foldl (fun t c => report_keepsCounts _ _ c t) _ _)
  | tableEntryCheck entry =>
    refine ⟨_, .inl (.ite (fun _ => ?_) (fun _ => .refl s)), finish_eq_next.1 h⟩
    dsimp only
    split
    · exact (withLoader_keepsCounts s _).trans (failLoad_keepsCounts _ _)
    · exact (withLoader_keepsCounts s _).trans (withPix_keepsCounts _ _)
  | gridRecordCheck share white black count contributors =>
    refine ⟨_, .inl (.ite (fun _ => ?_) (fun _ => .refl s)), finish_eq_next.1 h⟩
    split
    · exact (withLoader_keepsCounts s _).trans (failLoad_keepsCounts _ _)
    · exact ((withLoader_keepsCounts s _).trans (withPix_keepsCounts _ _)).trans (failLoadIf_keepsCounts _ _)
  | loadComplete =>
    refine ⟨_, .inl (.ite (fun _ => ?_) (fun _ => .refl s)), finish_eq_next.1 h⟩
    split
    · exact .ite (fun _ => completeLoad_keepsCounts _ s) (fun _ => failLoad_keepsCounts _ s)
    · exact .refl s
  | frameStart first =>
    refine ⟨_, .inl ?_, finish_eq_next.1 h⟩
    exact .ite (fun _ => .refl s) (fun _ => .ite (fun _ => workingFrameStart_keepsCounts first s)
      (fun _ => .ite (fun _ => withLine_keepsCounts s _) (fun _ => .refl s)))
  | frameLineRelease =>
    exact ⟨_, .inl (.ite (fun _ => withLine_keepsCounts s _) (fun _ => .refl s)), finish_eq_next.1 h⟩
  | frameLineEdge falling stamp => exact ⟨_, .inl (withLine_keepsCounts s _), finish_eq_next.1 h⟩
  | boundsPassComplete =>
    refine ⟨_, .inl ?_, finish_eq_next.1 h⟩
    split
    · exact .ite (fun _ => (completeBounds_keepsCounts _ s).trans (startJobs_keepsCounts _)) (fun _ => .refl s)
    · exact .refl s
  | coeffPassComplete =>
    refine ⟨_, .inl ?_, finish_eq_next.1 h⟩
    split
    · exact .ite (fun _ => (completeCoeff_keepsCounts _ s).trans (startJobs_keepsCounts _)) (fun _ => .refl s)
    · exact .refl s
  | sendEvent =>
    refine ⟨_, .inl (.ite (fun _ => ?_) (fun _ => .refl s)), finish_eq_next.1 h⟩
    refine KeepsCounts.trans (withLine_keepsCounts s _) (.ite (fun _ => queuePeriodic_keepsCounts _) (fun _ => .refl _))
  | windowCompletion =>
    exact ⟨_, .inl (.ite (fun _ => completeWindow_keepsCounts s) (fun _ => .refl s)), finish_eq_next.1 h⟩
  | busIdleJoin => exact ⟨_, .inl (.ite (fun _ => withPort_keepsCounts s _) (fun _ => .refl s)), finish_eq_next.1 h⟩
  | beginAttempt => exact ⟨_, .inl (.ite (fun _ => withPort_keepsCounts s _) (fun _ => .refl s)), finish_eq_next.1 h⟩
  | lostArbitration =>
    refine ⟨_, .inl ?_, finish_eq_next.1 h⟩
    split
    · exact .refl s
    · exact .ite (fun _ => withPort_keepsCounts s _) (fun _ => withPort_keepsCounts s _)
  | attemptFailed =>
    refine ⟨_, .inl ?_, finish_eq_next.1 h⟩
    split
    · exact .refl s
    · exact .ite (fun _ => failAttempt_keepsCounts _ s) (fun _ => failHaltedAttempt_keepsCounts _ s)
  | messageComplete =>
    refine ⟨_, .inl ?_, finish_eq_next.1 h⟩
    split
    · exact .refl s
    · refine .ite (fun _ => ?_) (fun _ => withPort_keepsCounts s _)
      exact ((withPort_keepsCounts s _).trans (takeBody_keepsCounts _ _ _)).trans (ownNotice_keepsCounts _ _)
  | stationClash frame => exact ⟨_, .inl (receiveFrame_keepsCounts _ s), finish_eq_next.1 h⟩
  | foreignMessage frame => exact ⟨_, .inl (receiveFrame_keepsCounts _ s), finish_eq_next.1 h⟩
  | receiveChange sender live reason subject epoch lam =>
    exact ⟨_, .inl (receiveFrame_keepsCounts _ s), finish_eq_next.1 h⟩
  | receiveLight sender epoch lam => exact ⟨_, .inl (receiveFrame_keepsCounts _ s), finish_eq_next.1 h⟩
  | receivePulse sender condition driving heldValid frame held =>
    exact ⟨_, .inl (receiveFrame_keepsCounts _ s), finish_eq_next.1 h⟩
  | receiveBounds sender epochLow floor ceiling => exact ⟨_, .inl (receiveFrame_keepsCounts _ s), finish_eq_next.1 h⟩
  | receiveLevels sender lam mNow target remaining =>
    exact ⟨_, .inl (receiveFrame_keepsCounts _ s), finish_eq_next.1 h⟩
  | showFade sender start target duration => exact ⟨_, .inl (receiveFrame_keepsCounts _ s), finish_eq_next.1 h⟩
  | showIdentify sender start mask period on => exact ⟨_, .inl (receiveFrame_keepsCounts _ s), finish_eq_next.1 h⟩
  | showIdentifyOff sender endFrame => exact ⟨_, .inl (receiveFrame_keepsCounts _ s), finish_eq_next.1 h⟩
  | lanesActive =>
    refine ⟨_, .inl (.ite (fun _ => ?_) (fun _ => .refl s)), finish_eq_next.1 h⟩
    exact withLanes_keepsCounts rfl rfl id
  | laneActivityLost lane received =>
    refine ⟨_, .inl (.ite (fun _ => ?_) (fun _ => .refl s)), finish_eq_next.1 h⟩
    have down := (receiveBits_keepsCounts received s).trans
      (withLanes_keepsCounts (l := { (receiveBits received s).link with state := .down, settleTimer := none }) rfl rfl id)
    dsimp only
    split
    · exact .refl s
    · exact down
    · exact down
    · exact leaveUp_keepsCounts s
  | settleExpiry =>
    refine ⟨_, .inl (.ite (fun _ => ?_) (fun _ => .refl s)), finish_eq_next.1 h⟩
    refine withLanes_keepsCounts rfl rfl fun _ x hx => ?_
    obtain ⟨y, -, rfl⟩ := List.mem_map.1 hx
    exact ⟨Nat.zero_le _, Nat.zero_le _⟩
  | trainingDecision =>
    refine ⟨_, .inl (.ite (fun _ => ?_) (fun _ => .refl s)), finish_eq_next.1 h⟩
    split
    · refine KeepsCounts.trans ?_ (report_keepsCounts _ _ _ _)
      exact withLanes_keepsCounts rfl rfl id
    · exact linkUp_keepsCounts s
  | inputTimeout =>
    refine ⟨_, .inl (.ite (fun _ => ?_) (fun _ => .refl s)), finish_eq_next.1 h⟩
    exact (report_keepsCounts _ _ _ s).trans (leaveUp_keepsCounts _)
  | packetLost words => exact ⟨_, .inl (takeWords_keepsCounts _ s), finish_eq_next.1 h⟩
  | laneSkew words => exact ⟨_, .inl (takeWords_keepsCounts _ s), finish_eq_next.1 h⟩
  | frameStartPacket heads payload => exact ⟨_, .inl (takeWords_keepsCounts _ s), finish_eq_next.1 h⟩
  | linePacket heads payload => exact ⟨_, .inl (takeWords_keepsCounts _ s), finish_eq_next.1 h⟩
  | frameEndPacket heads payload => exact ⟨_, .inl (takeWords_keepsCounts _ s), finish_eq_next.1 h⟩
  | otherPacket heads kind payload => exact ⟨_, .inl (takeWords_keepsCounts _ s), finish_eq_next.1 h⟩
  | strayLinePacket heads frameEnd payload => exact ⟨_, .inl (takeWords_keepsCounts _ s), finish_eq_next.1 h⟩
  | memoryEcc line column =>
    refine ⟨_, .inl ?_, finish_eq_next.1 h⟩
    split
    · split
      · exact .ite (fun _ => (withStore_keepsCounts s _).trans (eccReport_keepsCounts _)) (fun _ => .refl s)
      · exact .refl s
    · exact .refl s
  | lightSample value ahead =>
    exact ⟨_, .inl (.ite (fun _ => .ite (fun _ => takeSample_keepsCounts _ _ s) (fun _ =>
      .ite (fun _ => takeSample_keepsCounts _ _ s) (fun _ => .refl s))) (fun _ => .refl s)), finish_eq_next.1 h⟩
  | selectCondition w => exact ⟨_, selectorWrite_counts _ (by decide) w _ s, finish_eq_next.1 h⟩
  | selectInput w => exact ⟨_, selectorWrite_counts _ (by decide) w _ s, finish_eq_next.1 h⟩
  | selectStore w => exact ⟨_, selectorWrite_counts _ (by decide) w _ s, finish_eq_next.1 h⟩
  | selectLock w => exact ⟨_, selectorWrite_counts _ (by decide) w _ s, finish_eq_next.1 h⟩
  | selectPeers w => exact ⟨_, selectorWrite_counts _ (by decide) w _ s, finish_eq_next.1 h⟩
  | selectEpochs w => exact ⟨_, selectorWrite_counts _ (by decide) w _ s, finish_eq_next.1 h⟩
  | selectLevels w => exact ⟨_, selectorWrite_counts _ (by decide) w _ s, finish_eq_next.1 h⟩
  | selectFaults w => exact ⟨_, selectorWrite_counts _ (by decide) w _ s, finish_eq_next.1 h⟩
  | selectCounters w => exact ⟨_, selectorWrite_counts _ (by decide) w _ s, finish_eq_next.1 h⟩
  | selectImage w => exact ⟨_, selectorWrite_counts _ (by decide) w _ s, finish_eq_next.1 h⟩
  | clearFaults w => exact ⟨_, portWrite_counts rfl _ s, finish_eq_next.1 h⟩
  | restart w straps => exact ⟨_, selectorWrite_counts _ (by decide) w straps s, finish_eq_next.1 h⟩
  | attnMask w => exact ⟨_, selectorWrite_counts _ (by decide) w _ s, finish_eq_next.1 h⟩
  | selectorRefused selector w => exact ⟨_, portWrite_counts rfl _ s, finish_eq_next.1 h⟩
  | syncRecognised lane bits0 bits1 bits2 bits3 =>
    exact ⟨_, .inl (.ite (fun _ => receiveBits_keepsCounts _ s) (fun _ => .refl s)), finish_eq_next.1 h⟩
  | warpMeshEntryRead sx sy =>
    refine ⟨_, .inl (.ite (fun _ => ?_) (fun _ => .refl s)), finish_eq_next.1 h⟩
    exact (withLoader_keepsCounts s _).trans (withPix_keepsCounts _ _)

/-- A command that does not clear the fault records keeps them and the counts. -/
theorem exec_keepsCounts {c : Instr} {s t : State} (hc : clearsFaults c = false) (h : exec c s = .next t) :
    KeepsCounts s t := by
  obtain ⟨u, kept | ⟨clears, -⟩, rfl⟩ := exec_counts h
  · exact kept.trans (takeReports_keepsCounts u)
  · exact absurd clears (by rw [hc]; decide)

/-- Settles O11: an idle step leaves the counts, and every command keeps them or clears the fault records. -/
theorem countsStayInRange : Obligations.CountsStayInRange := by
  intro s t hs h
  obtain ⟨faults, counts⟩ := hs
  have settle : t.faults.sound ∧ t.countsSound → t.faults.sound ∧ t.ctl.sound ∧ t.link.sound ∧ t.light.sound ∧
      t.agr.peersSound := id
  refine settle ?_
  unfold step at h
  split at h
  · cases h
    exact ⟨faults, counts⟩
  · rename_i c rest _
    obtain ⟨u, kept | ⟨-, v, cleared, from_s, kept⟩, rfl⟩ := exec_counts h
    · have all := kept.trans (takeReports_keepsCounts u)
      exact ⟨(all.1.counters faults).1, all.2 counts⟩
    · have all := kept.trans (takeReports_keepsCounts u)
      exact ⟨(all.1.counters cleared).1, all.2 (from_s counts)⟩

end Sys2Proof.Machine
end

section
/-!
PROOFS. Where a change that is taken stands: withdrawn, or pending in records of one epoch alone (R40 to R43).
-/
namespace Sys2Proof.Machine

/-! ## The changes of a record about one station -/

/-- The pending changes of the kind of `c` about its subject that a record holds (R42). -/
def changesAbout (c : Change) (r : EpochRecord) : List Change :=
  match c with
  | .state x => (r.states.filter (fun y => y.subject == x.subject)).map .state
  | .light x => (r.lights.filter (fun y => y.station == x.station)).map .light

theorem holdsChange_eq_false_iff (c : Change) (r : EpochRecord) : holdsChange c r = false ↔ changesAbout c r = [] := by
  cases c <;> simp [holdsChange, changesAbout, List.filter_eq_nil_iff]

/-- Replacement leaves no change about the subject (R42). -/
theorem changesAbout_withoutChange (c : Change) (r : EpochRecord) : changesAbout c (withoutChange c r) = [] := by
  cases c <;> simp [changesAbout, withoutChange]

/-- The change placed stands behind the others about its subject (R43, log 29). -/
theorem changesAbout_joinChange (c : Change) (r : EpochRecord) :
    changesAbout c (joinChange c r) = changesAbout c r ++ [c] := by
  cases c <;> simp [changesAbout, joinChange]

theorem changesAbout_newRecord (n : FrameNo) (c : Change) : changesAbout c (newRecord n c) = [c] := by
  unfold newRecord
  rw [changesAbout_joinChange]
  cases c <;> rfl

theorem joinChange_frame (c : Change) (r : EpochRecord) : (joinChange c r).frame = r.frame := by cases c <;> rfl

theorem newRecord_frame (n : FrameNo) (c : Change) : (newRecord n c).frame = n := joinChange_frame c _

theorem withoutChange_frame (c : Change) (r : EpochRecord) : (withoutChange c r).frame = r.frame := by cases c <;> rfl

/-- A record that holds no such change is as it was after the removal. -/
theorem withoutChange_of_none {c : Change} {r : EpochRecord} (h : changesAbout c r = []) : withoutChange c r = r := by
  cases c with
  | state x =>
    have none : ∀ y ∈ r.states, ¬ y.subject = x.subject := by
      simpa [changesAbout, List.filter_eq_nil_iff] using h
    have same : r.states.filter (fun y => !(y.subject == x.subject)) = r.states :=
      List.filter_eq_self.2 fun y hy => by simp [none y hy]
    simp only [withoutChange, same]
  | light x =>
    have none : ∀ y ∈ r.lights, ¬ y.station = x.station := by
      simpa [changesAbout, List.filter_eq_nil_iff] using h
    have same : r.lights.filter (fun y => !(y.station == x.station)) = r.lights :=
      List.filter_eq_self.2 fun y hy => by simp [none y hy]
    simp only [withoutChange, same]

/-! ## Replacement (R42) -/

/-- The records once the pending changes of the kind of `c` about its subject are removed (R42). -/
def keptRecords (c : Change) (l : List EpochRecord) : List EpochRecord :=
  (l.filter (fun r => !removedFor c r)).map (withoutChange c)

theorem removePending_epochs (c : Change) (s : State) : (removePending c s).agr.epochs = keptRecords c s.agr.epochs := by
  obtain ⟨y, h⟩ := removePending_frame c s
  rw [h]
  rfl

theorem length_keptRecords_le (c : Change) (l : List EpochRecord) : (keptRecords c l).length ≤ l.length := by
  unfold keptRecords
  rw [List.length_map]
  exact List.length_filter_le _ _

theorem changesAbout_keptRecords {c : Change} {l : List EpochRecord} {r : EpochRecord} (h : r ∈ keptRecords c l) :
    changesAbout c r = [] := by
  obtain ⟨q, -, rfl⟩ := List.mem_map.1 h
  exact changesAbout_withoutChange c q

/-- With no such change pending, replacement leaves the list. -/
theorem keptRecords_of_none {c : Change} {l : List EpochRecord} (h : ∀ r ∈ l, changesAbout c r = []) :
    keptRecords c l = l := by
  have kept : l.filter (fun r => !removedFor c r) = l := List.filter_eq_self.2 fun r hr => by
    simp [removedFor, (holdsChange_eq_false_iff c r).2 (h r hr)]
  unfold keptRecords
  rw [kept]
  exact List.map_congr_left (fun r hr => withoutChange_of_none (h r hr)) |>.trans (List.map_id l)

/-! ## Placing (R43) -/

/-- The frame of the record a change for `n` is placed in: its own, or in a full list without it that of `mergeFrame` (R43). -/
def placeFrame (l : List EpochRecord) (n : FrameNo) : FrameNo :=
  if (∃ x ∈ l, x.frame = n) ∨ l.length < 8 then n else mergeFrame l n

/-- The frame that a full list gives is that of one of its records. -/
theorem mergeFrame_mem {l : List EpochRecord} (h : l ≠ []) (n : FrameNo) : ∃ x ∈ l, x.frame = mergeFrame l n := by
  unfold mergeFrame
  cases hf : l.find? (fun r => after r.frame n) with
  | some r => exact ⟨r, List.mem_of_find?_eq_some hf, rfl⟩
  | none =>
    rw [List.getLast?_eq_getLast_of_ne_nil h]
    exact ⟨_, List.getLast_mem h, rfl⟩

/-- The record that a full list gives is the first behind the epoch, or the last (R43). -/
theorem mergeFrame_eq {before behind : List EpochRecord} {x : EpochRecord} {n : FrameNo}
    (hb : ∀ y ∈ before, after y.frame n = false) (hx : after x.frame n = true ∨ behind = []) :
    mergeFrame (before ++ x :: behind) n = x.frame := by
  have skip : before.find? (fun r => after r.frame n) = none := List.find?_eq_none.2 fun y hy => by simp [hb y hy]
  unfold mergeFrame
  rw [List.find?_append, skip, Option.none_or]
  cases ha : after x.frame n with
  | true => simp [ha]
  | false =>
    obtain rfl : behind = [] := hx.resolve_left (by simp [ha])
    simp [ha]

/-- The list `l` holds the change `c` alone of its kind about its subject, in records of the frame `f`. -/
def standsAlone (c : Change) (f : FrameNo) (l : List EpochRecord) : Prop :=
  (∃ r ∈ l, r.frame = f ∧ changesAbout c r = [c]) ∧
    ∀ r ∈ l, changesAbout c r = [] ∨ (changesAbout c r = [c] ∧ r.frame = f)

/-- The change joined to the records of a frame that the list has stands alone there. -/
theorem standsAlone_onRecord {c : Change} {f : FrameNo} {a : Agreement} (hf : ∃ x ∈ a.epochs, x.frame = f)
    (hn : ∀ r ∈ a.epochs, changesAbout c r = []) : standsAlone c f (a.onRecord f (joinChange c)).epochs := by
  have joined : ∀ r ∈ a.epochs, changesAbout c (joinChange c r) = [c] := fun r hr => by
    rw [changesAbout_joinChange, hn r hr, List.nil_append]
  constructor
  · obtain ⟨x, hx, rfl⟩ := hf
    exact ⟨_, List.mem_map.2 ⟨x, hx, if_pos rfl⟩, joinChange_frame c x, joined x hx⟩
  · intro r hr
    obtain ⟨q, hq, rfl⟩ := List.mem_map.1 hr
    split
    · rename_i h
      exact .inr ⟨joined q hq, (joinChange_frame c q).trans h⟩
    · exact .inl (hn q hq)

/-- A list has a record for `n` when one of its records bears the number. -/
theorem record_isSome_iff (a : Agreement) (n : FrameNo) : (a.record n).isSome = true ↔ ∃ x ∈ a.epochs, x.frame = n := by
  simp [Agreement.record, List.find?_isSome]

/-- A change placed in a list that holds none about its subject stands alone, in the record that R43 names. -/
theorem placeChange_standsAlone {c : Change} {s : State} (n : FrameNo) (h : ∀ r ∈ s.agr.epochs, changesAbout c r = []) :
    standsAlone c (placeFrame s.agr.epochs n) (placeChange c n s).agr.epochs := by
  unfold placeChange placeFrame
  by_cases hr : ∃ x ∈ s.agr.epochs, x.frame = n
  · rw [if_pos ((record_isSome_iff _ _).2 hr), if_pos (.inl hr)]
    exact standsAlone_onRecord hr h
  · rw [if_neg (mt (record_isSome_iff _ _).1 hr)]
    by_cases room : s.agr.epochs.length < 8
    · rw [if_pos room, if_pos (.inr room)]
      refine ⟨⟨_, mem_insertRecord.2 (.inl rfl), newRecord_frame n c, changesAbout_newRecord n c⟩, fun r hm => ?_⟩
      obtain rfl | hm := mem_insertRecord.1 hm
      · exact .inr ⟨changesAbout_newRecord n c, newRecord_frame n c⟩
      · exact .inl (h r hm)
    · rw [if_neg room, if_neg (not_or.2 ⟨hr, room⟩)]
      have nonempty : s.agr.epochs ≠ [] := fun he => room (by rw [he]; decide)
      exact standsAlone_onRecord (mergeFrame_mem nonempty n) h

/-- Placing makes a report only in a full list without the epoch (R43). -/
theorem placeChange_faults_of_room (c : Change) (n : FrameNo) {s : State} (h : s.agr.epochs.length < 8) :
    (placeChange c n s).faults = s.faults := by
  unfold placeChange
  rw [if_pos h]
  split <;> rfl

/-- A full list without the epoch is reported (R43). -/
theorem placeChange_epochMerge {c : Change} {n : FrameNo} {s : State} (hl : 8 ≤ s.agr.epochs.length)
    (hr : ∀ x ∈ s.agr.epochs, x.frame ≠ n) :
    (placeChange c n s).faults.pending.getLsbD (faultNumber .epochMerge) = true := by
  have no : ¬ (s.agr.record n).isSome = true := fun h => by
    obtain ⟨x, hx, e⟩ := (record_isSome_iff _ _).1 h
    exact hr x hx e
  unfold placeChange
  rw [if_neg no, if_neg (not_lt.2 hl)]
  exact report_pendingBit _ _ _ _

/-! ## A change taken (R40 to R43) -/

section
variable (c : Change) (n : FrameNo) (s : State)

/-- A change that matches the standing is withdrawn (R41). -/
theorem takeChange_epochs_of_match (h : matchesStanding s.agr c = true) :
    ∀ r ∈ (takeChange c n s).agr.epochs, changesAbout c r = [] := by
  unfold takeChange
  dsimp only
  rw [reportIf_agr, if_pos h]
  split
  · rw [removePending_epochs]
    exact fun r hr => changesAbout_keptRecords hr
  · rename_i hp
    rw [reportIf_agr]
    refine fun r hr => (holdsChange_eq_false_iff c r).1 (Bool.eq_false_iff.2 fun hh => hp ?_)
    exact List.any_eq_true.2 ⟨r, hr, hh⟩

/-- Any other change is placed among the records that replacement leaves (R42, R43). -/
theorem takeChange_of_not_match (h : matchesStanding s.agr c = false) : takeChange c n s =
    placeChange c (reEpoch s.current n) (removePending c
      (reportIf (notAfter n (s.current + 3)) .agreement .lateChange (changeSubject c) s)) := by
  unfold takeChange
  dsimp only
  rw [reportIf_agr, if_neg (by simp [h])]

theorem takeChange_standsAlone (h : matchesStanding s.agr c = false) :
    standsAlone c (placeFrame (keptRecords c s.agr.epochs) (reEpoch s.current n)) (takeChange c n s).agr.epochs := by
  have epochs : (removePending c (reportIf (notAfter n (s.current + 3)) .agreement .lateChange (changeSubject c) s)).agr.epochs
      = keptRecords c s.agr.epochs := by rw [removePending_epochs, reportIf_agr]
  rw [takeChange_of_not_match c n s h, ← epochs]
  refine placeChange_standsAlone _ fun r hr => ?_
  rw [epochs] at hr
  exact changesAbout_keptRecords hr

/-- With room in the list LATE_CHANGE is the only report of a change taken (R40, R43). -/
theorem takeChange_faults_of_room (h : s.agr.epochs.length < 8) : (takeChange c n s).faults =
    (reportIf (notAfter n (s.current + 3)) .agreement .lateChange (changeSubject c) s).faults := by
  have removed : ∀ t, (removePending c t).faults = t.faults := fun t => by
    obtain ⟨y, hy⟩ := removePending_frame c t
    rw [hy]
  unfold takeChange
  dsimp only
  split
  · split
    · exact removed _
    · rfl
  · rw [placeChange_faults_of_room, removed]
    rw [removePending_epochs, reportIf_agr]
    exact (length_keptRecords_le c _).trans_lt h

/-- Where nothing was pending about the subject, a full list without the epoch is reported (R43). -/
theorem takeChange_epochMerge (h : matchesStanding s.agr c = false) (hn : ∀ r ∈ s.agr.epochs, changesAbout c r = [])
    (hl : 8 ≤ s.agr.epochs.length) (hr : ∀ x ∈ s.agr.epochs, x.frame ≠ reEpoch s.current n) :
    (takeChange c n s).faults.pending.getLsbD (faultNumber .epochMerge) = true := by
  rw [takeChange_of_not_match c n s h]
  refine placeChange_epochMerge ?_ ?_ <;> rw [removePending_epochs, reportIf_agr, keptRecords_of_none hn]
  · exact hl
  · exact hr

end

/-- The reports taken follow from the fault unit alone. -/
theorem takeReports_faults_congr {s t : State} (h : t.faults = s.faults) : (takeReports t).faults = (takeReports s).faults := by
  unfold takeReports
  rw [h]
  split
  · exact h
  · rfl

/-- A change taken reports LATE_CHANGE by its epoch, and with room in the list nothing else (R40). -/
theorem takeChange_lateReported (c : Change) (n : FrameNo) {s t : State}
    (ht : t.faults = (takeReports (takeChange c n s)).faults) : lateReported (changeSubject c) n s t := by
  refine ⟨fun hl => ?_, fun hs room => ?_⟩
  · rw [ht, takeReports_pendingSet]
    exact (takeChange_keepsReport c n s).1.pending _ (reportIf_pendingBit hl _ _ _ _)
  · rw [ht, takeReports_faults_congr (takeChange_faults_of_room c n s room)]
    cases hn : notAfter n (s.current + 3) with
    | true =>
      rw [if_pos (show notAfter n (s.line.frameNo + 3) = true from hn)]
      show (takeReports (report .agreement .lateChange (changeSubject c) s)).faults = _
      rw [takeReports_report hs]
    | false =>
      rw [if_neg (by rw [show s.line.frameNo = s.current from rfl, hn]; decide)]
      show (takeReports s).faults = _
      rw [takeReports_of_settled hs]

/-- The record in which a change taken stands is the one of R40 and R43. -/
theorem takeChange_placedAt {c : Change} {n : FrameNo} {s t : State} {r : EpochRecord}
    (h : matchesStanding s.agr c = false) (ht : t.faults = (takeReports (takeChange c n s)).faults)
    (hr : r.frame = placeFrame (keptRecords c s.agr.epochs) (reEpoch s.current n)) :
    placedAt (∀ x ∈ s.agr.epochs, changesAbout c x = []) n s t r := by
  refine ⟨fun room => ?_, fun fresh found => ?_, fun fresh full missing before behind x hl hb hx => ?_⟩
  · rw [hr, placeFrame, if_pos (.inr ((length_keptRecords_le c _).trans_lt room))]
    rfl
  · rw [hr, keptRecords_of_none fresh, placeFrame, if_pos (.inl found)]
    rfl
  · constructor
    · have no : ¬((∃ x ∈ s.agr.epochs, x.frame = reEpoch s.current n) ∨ s.agr.epochs.length < 8) := by
        rintro (⟨y, hy, e⟩ | room)
        · exact missing y hy e
        · omega
      rw [hr, keptRecords_of_none fresh, placeFrame, if_neg no, hl]
      exact mergeFrame_eq hb hx
    · rw [ht, takeReports_pendingSet]
      exact takeChange_epochMerge c n s h fresh full missing

/-! ## Light changes and state changes -/

/-- The light changes of a record about a station, as changes of the kind. -/
theorem mem_changesAbout_light {x y : LightChange} {r : EpochRecord} :
    .light y ∈ changesAbout (.light x) r ↔ y ∈ r.lights ∧ y.station = x.station := by
  simp [changesAbout]

theorem changesAbout_light_eq_nil {x : LightChange} {r : EpochRecord} :
    changesAbout (.light x) r = [] ↔ ∀ y ∈ r.lights, y.station ≠ x.station := by
  simp [changesAbout, List.filter_eq_nil_iff]

theorem mem_changesAbout_state {x y : StateChange} {r : EpochRecord} :
    .state y ∈ changesAbout (.state x) r ↔ y ∈ r.states ∧ y.subject = x.subject := by
  simp [changesAbout]

theorem changesAbout_state_eq_nil {x : StateChange} {r : EpochRecord} :
    changesAbout (.state x) r = [] ↔ ∀ y ∈ r.states, y.subject ≠ x.subject := by
  simp [changesAbout, List.filter_eq_nil_iff]

/-- In a list where a change stands alone, every change of its kind about its subject is that change, in a record of its
frame. -/
theorem standsAlone.unique {c d : Change} {f : FrameNo} {l : List EpochRecord} (h : standsAlone c f l) {x : EpochRecord}
    (hx : x ∈ l) (hd : d ∈ changesAbout c x) : d = c ∧ x.frame = f := by
  obtain none | ⟨one, hf⟩ := h.2 x hx
  · rw [none] at hd
    exact nomatch hd
  · rw [one, List.mem_singleton] at hd
    exact ⟨hd, hf⟩

/-- A light change taken stands as R40 and R43 say. -/
theorem takeChange_lightStands {i lam : Nat} {e : FrameNo} {s t : State}
    (ha : t.agr.epochs = (takeChange (.light ⟨i, lam⟩) e s).agr.epochs)
    (hf : t.faults = (takeReports (takeChange (.light ⟨i, lam⟩) e s)).faults) : lightStands i lam e s t := by
  have alone := takeChange_standsAlone (.light ⟨i, lam⟩) e s rfl
  rw [← ha] at alone
  refine ⟨takeChange_lateReported _ e hf, ?_⟩
  obtain ⟨r, hr, frame, about⟩ := alone.1
  have placed := takeChange_placedAt rfl hf frame
  simp only [changesAbout_light_eq_nil] at placed
  refine ⟨r, hr, (mem_changesAbout_light.1 (about ▸ List.mem_singleton_self _)).1, placed, fun x hx y hy hs => ?_⟩
  obtain ⟨same, hx⟩ := alone.unique hx (mem_changesAbout_light.2 ⟨hy, hs⟩)
  cases same
  exact ⟨rfl, hx.trans frame.symm⟩

/-- A state change taken stands as R40 to R43 say. -/
theorem takeChange_changeStands {c : StateChange} {e : FrameNo} {s t : State}
    (ha : t.agr.epochs = (takeChange (.state c) e s).agr.epochs)
    (hf : t.faults = (takeReports (takeChange (.state c) e s)).faults) : changeStands c e s t := by
  refine ⟨takeChange_lateReported (.state c) e hf, fun hm x hx y hy => ?_, fun hm => ?_⟩
  · rw [ha] at hx
    have gone := takeChange_epochs_of_match (.state c) e s (by simp [matchesStanding, hm]) x hx
    exact changesAbout_state_eq_nil.1 gone y hy
  · have differs : matchesStanding s.agr (.state c) = false := by simp [matchesStanding, hm]
    have alone := takeChange_standsAlone (.state c) e s differs
    rw [← ha] at alone
    obtain ⟨r, hr, frame, about⟩ := alone.1
    have placed := takeChange_placedAt differs hf frame
    simp only [changesAbout_state_eq_nil] at placed
    refine ⟨r, hr, (mem_changesAbout_state.1 (about ▸ List.mem_singleton_self _)).1, placed, fun x hx y hy hs => ?_⟩
    obtain ⟨same, hx⟩ := alone.unique hx (mem_changesAbout_state.2 ⟨hy, hs⟩)
    cases same
    exact ⟨rfl, hx.trans frame.symm⟩

end Sys2Proof.Machine
end

section
/-!
PROOFS. RECEIVE_LIGHT, RECEIVE_CHANGE and the completion of an own message (O46, O47, O50).
-/
namespace Sys2Proof.Machine

/-! ## RECEIVE_LIGHT -/

/-- The state changes pending in a list of records. -/
def statesPending (l : List EpochRecord) : List StateChange := l.flatMap (fun r => r.states)

/-- The removal of a light change keeps every state change: a record that holds one is not removed (R42). -/
theorem mem_statesPending_keptRecords (x : LightChange) (l : List EpochRecord) (c : StateChange) :
    c ∈ statesPending (keptRecords (.light x) l) ↔ c ∈ statesPending l := by
  simp only [statesPending, keptRecords, List.mem_flatMap, List.mem_map, List.mem_filter]
  constructor
  · rintro ⟨_, ⟨q, ⟨hq, -⟩, rfl⟩, hc⟩
    exact ⟨q, hq, hc⟩
  · rintro ⟨q, hq, hc⟩
    have kept : removedFor (.light x) q = false := by
      have some : q.states.isEmpty = false := by
        rw [List.isEmpty_eq_false_iff]
        exact List.ne_nil_of_mem hc
      simp [removedFor, withoutChange, some]
    exact ⟨_, ⟨q, ⟨hq, by simp [kept]⟩, rfl⟩, hc⟩

/-- A light change placed adds no state change and takes none away (R43). -/
theorem mem_statesPending_placeChange (x : LightChange) (n : FrameNo) (s : State) (c : StateChange) :
    c ∈ statesPending (placeChange (.light x) n s).agr.epochs ↔ c ∈ statesPending s.agr.epochs := by
  have joined : ∀ f, c ∈ statesPending (s.agr.onRecord f (joinChange (.light x))).epochs ↔ c ∈ statesPending s.agr.epochs := by
    intro f
    have same : ∀ r : EpochRecord, (if r.frame = f then joinChange (.light x) r else r).states = r.states := fun r => by
      split <;> rfl
    simp [statesPending, Agreement.onRecord, same]
  unfold placeChange
  split_ifs
  · exact joined n
  · have new : (newRecord n (.light x)).states = [] := rfl
    show c ∈ statesPending (insertRecord _ _) ↔ _
    simp only [statesPending, List.mem_flatMap, mem_insertRecord]
    constructor
    · rintro ⟨r, rfl | hr, hc⟩
      · rw [new] at hc
        exact nomatch hc
      · exact ⟨r, hr, hc⟩
    · rintro ⟨r, hr, hc⟩
      exact ⟨r, .inr hr, hc⟩
  · exact joined _

theorem mem_statesPending_takeChange (x : LightChange) (n : FrameNo) (s : State) (c : StateChange) :
    c ∈ statesPending (takeChange (.light x) n s).agr.epochs ↔ c ∈ statesPending s.agr.epochs := by
  rw [takeChange_of_not_match _ _ _ rfl, mem_statesPending_placeChange, removePending_epochs, reportIf_agr,
    mem_statesPending_keptRecords]

/-- Settles O46: the message is read back from its frame, and its light change is taken as R40 to R43 say. -/
theorem lightTaken : Obligations.LightTaken := by
  intro i e lam s ht hi ho hr
  let c : Change := .light ⟨i.toNat, lam.toNat⟩
  have run : exec (.receiveLight i e lam) s = finish (takeChange c e (setHeard i.toNat s)) :=
    congrArg finish (receiveFrame_messageFrame (m := ⟨i, .light e lam⟩) ht hi ho hr (by simp [kindCode]))
  obtain ⟨epochs, y, x, frame⟩ := takeChange_frame c e (setHeard i.toNat s)
  have stands : lightStands i.toNat lam.toNat e (setHeard i.toNat s) (takeReports (takeChange c e (setHeard i.toNat s))) :=
    takeChange_lightStands (by rw [takeReports_agr]) rfl
  refine ⟨_, run.trans (finish_eq_next.2 rfl), stands, fun d => ?_, ?_, ?_⟩
  · rw [takeReports_agr]
    exact mem_statesPending_takeChange _ e (setHeard i.toNat s) d
  · rw [takeReports_agr, frame]
    rfl
  · obtain ⟨z, hz⟩ := takeReports_frame (takeChange c e (setHeard i.toNat s))
    rw [hz, frame]
    rfl

/-! ## RECEIVE_CHANGE -/

section
variable {sender : Nat} {live : Bool} {why : Reason} {subject : Nat} {e : FrameNo} {lam : Nat} {s : State}

theorem takeChangeMessage_stray (hj : isMember s.settings.roster subject = false) :
    takeChangeMessage sender live why subject e lam s = report .agreement .strayStation subject s := by
  simp [takeChangeMessage, hj]

theorem takeChangeMessage_foreign (hj : isMember s.settings.roster subject = true) (hl : live = true)
    (hs : subject ≠ sender) : takeChangeMessage sender live why subject e lam s = s := by
  simp [takeChangeMessage, hj, hl, hs]

theorem takeChangeMessage_taken (hj : isMember s.settings.roster subject = true) (hs : live = true → subject = sender) :
    takeChangeMessage sender live why subject e lam s =
      takeChange (.state ⟨subject, live, why, if live then some lam else none⟩) e s := by
  cases live
  · simp [takeChangeMessage, hj]
  · obtain rfl := hs rfl
    simp [takeChangeMessage, hj]

/-- A CHANGE taken touches the pending epoch list, the solver's queue and the fault unit alone (R39 to R43). -/
theorem takeChangeMessage_frame : ∃ l y x, takeChangeMessage sender live why subject e lam s =
    { s with agr := { s.agr with epochs := l }, sol := y, faults := x } := by
  unfold takeChangeMessage
  split
  · exact ⟨s.agr.epochs, s.sol, _, rfl⟩
  · split
    · exact ⟨s.agr.epochs, s.sol, s.faults, rfl⟩
    · exact takeChange_frame _ _ _

end

/-- Settles O47: the message is read back from its frame, and R39 reports it, ignores it, or takes its change. -/
theorem changeTaken : Obligations.ChangeTaken := by
  intro i live why j e lam s hs ht hi ho hr
  let u := setHeard i.toNat s
  let v := takeChangeMessage i.toNat live why j.toNat e lam.toNat u
  have run : exec (.receiveChange i live why j e lam) s = finish v :=
    congrArg finish (receiveFrame_messageFrame (m := ⟨i, .change live why j e lam⟩) ht hi ho hr (by simp [kindCode]))
  obtain ⟨l, y, x, frame⟩ := takeChangeMessage_frame (sender := i.toNat) (live := live) (why := why) (subject := j.toNat)
    (e := e) (lam := lam.toNat) (s := u)
  obtain ⟨z, hz⟩ := takeReports_frame v
  have settled : u.settled := hs
  refine ⟨_, run.trans (finish_eq_next.2 rfl), ?_, ?_, fun hj => ?_, fun hj hl hne => ?_, fun hj hl => ?_⟩
  · rw [takeReports_agr, show v.agr = _ from congrArg State.agr frame]
    rfl
  · rw [hz, show v = _ from frame]
    rfl
  · rw [show v = _ from takeChangeMessage_stray hj, takeReports_report settled, ← BitVec.ofNat_toNat]
    exact ⟨rfl, rfl⟩
  · rw [show v = _ from takeChangeMessage_foreign hj hl hne, takeReports_of_settled settled]
    exact ⟨rfl, rfl⟩
  · rw [show v = _ from takeChangeMessage_taken hj hl]
    exact takeChange_changeStands (s := u) (by rw [takeReports_agr]) rfl

/-! ## BOUNDS taken (R54) -/

/-- The pair set stands in the table, with the entries of the other stations. -/
theorem mem_setBounds (e : BoundsEntry) (l : List BoundsEntry) :
    e ∈ setBounds e l ∧ ∀ y ∈ l, y.station ≠ e.station → y ∈ setBounds e l := by
  induction l with
  | nil => simp [setBounds]
  | cons x rest ih =>
    unfold setBounds
    split_ifs with same before
    · refine ⟨List.mem_cons_self, fun y hy hne => ?_⟩
      obtain rfl | hy := List.mem_cons.1 hy
      · exact absurd same hne
      · exact List.mem_cons_of_mem _ hy
    · exact ⟨List.mem_cons_self, fun y hy _ => List.mem_cons_of_mem _ hy⟩
    · refine ⟨List.mem_cons_of_mem _ ih.1, fun y hy hne => ?_⟩
      obtain rfl | hy := List.mem_cons.1 hy
      · exact List.mem_cons_self
      · exact List.mem_cons_of_mem _ (ih.2 y hy hne)

/-- What bounds taken leave of the agreement unit, but for the record that they are matched to. -/
theorem takeBounds_frame (i : Nat) (b : LastBounds) (s : State) : ∃ l x, takeBounds i b s =
    { s with agr := { s.agr.onPeer i (fun r => { r with bounds := some b }) with epochs := l }, faults := x } := by
  unfold takeBounds
  dsimp only
  split
  · exact ⟨s.agr.epochs, _, rfl⟩
  · split
    · exact ⟨s.agr.epochs, s.faults, rfl⟩
    · exact ⟨_, s.faults, rfl⟩

/-- Bounds taken are matched to the first record of their low bits (R54). -/
theorem takeBounds_matched (i : Nat) (e : BitVec 16) (f c : Nat) {s : State} (hs : s.settled) :
    boundsMatched i e f c s (takeReports (takeBounds i ⟨e, f, c⟩ s)) := by
  let written := s.withAgr (s.agr.onPeer i (fun r => { r with bounds := some ⟨e, f, c⟩ }))
  have settled : written.settled := hs
  have found : written.agr.epochs.find? (fun r => r.frame.setWidth 16 == e) =
      s.agr.epochs.find? (fun r => r.frame.setWidth 16 == e) := rfl
  refine ⟨fun hn => ?_, fun r hr => ⟨?_, fun hp => ?_, fun hp => ?_⟩⟩
  · have taken : takeBounds i ⟨e, f, c⟩ s = report .agreement .strayBound i written := by
      unfold takeBounds
      dsimp only
      rw [found, hn]
    rw [taken, takeReports_report settled]
    exact ⟨rfl, rfl⟩
  all_goals
    have taken : takeBounds i ⟨e, f, c⟩ s = if r.phase = .cut ∨ r.phase = .banked then written
        else written.withAgr (written.agr.onRecord r.frame (fun x => { x with bounds := setBounds ⟨i, f, c, true⟩ x.bounds })) := by
      unfold takeBounds
      dsimp only
      rw [found, hr]
    rw [taken]
  · split
    · rw [takeReports_of_settled settled]
      rfl
    · rw [takeReports_of_settled (by exact settled)]
      rfl
  · rw [if_pos hp, takeReports_of_settled settled]
    rfl
  · have open_ : ¬(r.phase = .cut ∨ r.phase = .banked) := by
      rintro (h | h) <;> rw [h] at hp <;> simp at hp
    rw [if_neg open_, takeReports_of_settled (by exact settled)]
    refine ⟨rfl, _, List.mem_map.2 ⟨r, List.mem_of_find?_eq_some hr, if_pos rfl⟩, rfl, (mem_setBounds _ _).1, fun y hy hne => ?_⟩
    exact (mem_setBounds ⟨i, f, c, true⟩ r.bounds).2 y hy hne

/-! ## MESSAGE_COMPLETE -/

/-- A message taken changes the agreement unit, the solver's queue and the fault unit alone (R112, R116). -/
theorem takeBody_frame (i : Nat) (b : Body) (s : State) :
    ∃ a y x, takeBody i b s = { s with agr := a, sol := y, faults := x } := by
  cases b with
  | change live reason subject epoch lam =>
    obtain ⟨l, y, x, h⟩ := takeChangeMessage_frame (sender := i) (live := live) (why := reason) (subject := subject.toNat)
      (e := epoch) (lam := lam.toNat) (s := s)
    exact ⟨_, y, x, h⟩
  | light epoch lam =>
    obtain ⟨l, y, x, h⟩ := takeChange_frame (.light ⟨i, lam.toNat⟩) epoch s
    exact ⟨_, y, x, h⟩
  | pulse condition driving heldValid frame held => exact ⟨_, s.sol, s.faults, rfl⟩
  | bounds epochLow floor ceiling =>
    obtain ⟨l, x, h⟩ := takeBounds_frame i ⟨epochLow, floor.toNat, ceiling.toNat⟩ s
    exact ⟨_, s.sol, x, h⟩
  | levels lam mNow target remaining =>
    unfold takeBody takeLevels
    dsimp only
    split <;> exact ⟨_, s.sol, s.faults, rfl⟩
  | fade start target duration =>
    unfold takeBody takeFade
    dsimp only
    split
    · exact ⟨s.agr, s.sol, _, rfl⟩
    · split <;> exact ⟨_, s.sol, _, rfl⟩
  | identify start mask period on =>
    unfold takeBody takeIdentify
    dsimp only
    split
    · exact ⟨s.agr, s.sol, _, rfl⟩
    · split <;> exact ⟨_, s.sol, s.faults, rfl⟩
  | identifyOff endFrame => exact ⟨_, s.sol, s.faults, rfl⟩

/-- The state of a working station once its message `b` is handed over, the port holding `q`. -/
def handedOver (b : Body) (q : Port) (s : State) : State := takeReports (ownNotice b (takeBody s.own b (s.withPort q)))

section
variable {q : Port} {s : State}

/-- Handing a message over changes the agreement unit, the counts, the solver's queue and the light monitor's factor (R116). -/
theorem handedOver_frame (b : Body) (q : Port) (s : State) : ∃ a k y w x,
    handedOver b q s = { s with port := q, agr := a, ctl := k, sol := y, light := w, faults := x } := by
  obtain ⟨a, y, x, taken⟩ := takeBody_frame s.own b (s.withPort q)
  obtain ⟨ps, k, w, noticed⟩ := ownNotice_frame b (takeBody s.own b (s.withPort q))
  obtain ⟨z, hz⟩ := takeReports_frame (ownNotice b (takeBody s.own b (s.withPort q)))
  rw [handedOver, hz, noticed, taken]
  exact ⟨_, _, _, _, _, rfl⟩

theorem handedOver_pulse {c : PulseCondition} {d v : Bool} {n : FrameNo} {h : ContentNo} (hown : s.own < s.agr.peers.length) :
    let t := handedOver (.pulse c d v n h) q s
    s.agr.onlyPeer t.agr s.own { s.agr.peer s.own with
      heard := true, pulse := some ⟨n, h, v, c, d, s.line.frameNo⟩, silence := 0 } ∧
      t.ctl = { s.ctl with selfSilence := 0 } ∧ t.agr.epochs = s.agr.epochs := by
  intro t
  obtain ⟨z, hz⟩ := takeReports_frame (ownNotice (.pulse c d v n h) (takeBody s.own (.pulse c d v n h) (s.withPort q)))
  rw [show t = _ from hz]
  refine ⟨⟨?_, fun k hk => (peer_onPeer_other hk _).trans (peer_onPeer_other hk _)⟩, rfl, rfl⟩
  have kept : s.own < (s.agr.onPeer s.own (fun r => { r with
      pulse := some ⟨n, h, v, c, d, s.line.frameNo⟩, silence := 0 })).peers.length := by
    simpa [Agreement.onPeer] using hown
  exact (peer_onPeer_same kept _).trans (congrArg (fun r : PeerRecord => { r with heard := true }) (peer_onPeer_same hown _))

theorem handedOver_light {e : FrameNo} {lam : BitVec 16} :
    let t := handedOver (.light e lam) q s
    t.light = { s.light with announced := lam.toNat, spacing := 0 } ∧ lightStands s.own lam.toNat e s t := by
  intro t
  let p := s.withPort q
  obtain ⟨l, y, f, placed⟩ := takeChange_frame (.light ⟨s.own, lam.toNat⟩) e p
  obtain ⟨z, hz⟩ := takeReports_frame (ownNotice (.light e lam) (takeBody s.own (.light e lam) p))
  refine ⟨?_, takeChange_lightStands (s := p) (congrArg Agreement.epochs (takeReports_agr _)) (takeReports_faults_congr rfl)⟩
  rw [show t = _ from hz]
  exact congrArg (fun u : State => { u.light with announced := lam.toNat, spacing := 0 }) placed

theorem handedOver_change {live : Bool} {why : Reason} {j : BitVec 8} {e : FrameNo} {lam : BitVec 16} :
    let t := handedOver (.change live why j e lam) q s
    t.agr.live = s.agr.live ∧ t.ctl = s.ctl ∧
      (isMember s.settings.roster j.toNat = true → (live = true → j.toNat = s.own) →
        changeStands ⟨j.toNat, live, why, if live then some lam.toNat else none⟩ e s t) := by
  intro t
  let p := s.withPort q
  let v := takeChangeMessage s.own live why j.toNat e lam.toNat p
  obtain ⟨l, y, f, placed⟩ := takeChangeMessage_frame (sender := s.own) (live := live) (why := why)
    (subject := j.toNat) (e := e) (lam := lam.toNat) (s := p)
  obtain ⟨z, hz⟩ := takeReports_frame v
  refine ⟨?_, ?_, fun hj hl => ?_⟩
  · rw [show t = _ from hz, show v = _ from placed]
    rfl
  · rw [show t = _ from hz, show v = _ from placed]
    rfl
  · show changeStands _ e s (takeReports v)
    rw [show v = _ from takeChangeMessage_taken hj hl]
    exact takeChange_changeStands (s := p) (by rw [takeReports_agr]) rfl

theorem handedOver_bounds {e : BitVec 16} {f c : BitVec 24} (hown : s.own < s.agr.peers.length) (hs : s.settled) :
    let t := handedOver (.bounds e f c) q s
    s.agr.onlyPeer t.agr s.own { s.agr.peer s.own with bounds := some ⟨e, f.toNat, c.toNat⟩ } ∧
      t.agr.levels = s.agr.levels ∧ boundsMatched s.own e f.toNat c.toNat s t := by
  intro t
  let p := s.withPort q
  let v := takeBounds s.own ⟨e, f.toNat, c.toNat⟩ p
  obtain ⟨l, x, placed⟩ := takeBounds_frame s.own ⟨e, f.toNat, c.toNat⟩ p
  have agr : t.agr = { s.agr.onPeer s.own (fun r => { r with bounds := some ⟨e, f.toNat, c.toNat⟩ }) with epochs := l } :=
    (takeReports_agr v).trans (congrArg State.agr placed)
  refine ⟨?_, ?_, takeBounds_matched (s := p) s.own e f.toNat c.toNat hs⟩
  · rw [agr]
    exact ⟨peer_onPeer_same hown _, fun k hk => peer_onPeer_other hk _⟩
  · rw [agr]
    rfl

theorem handedOver_levels {lam n g k : BitVec 16} (hs : s.settled) :
    handedOver (.levels lam n g k) q s = { s with
      port := q
      agr := s.agr.onPeer s.own (fun r => { r with levels := some ⟨lam.toNat, n.toNat, g.toNat, k.toNat⟩ }) } := by
  let a := s.agr.onPeer s.own (fun r => { r with levels := some ⟨lam.toNat, n.toNat, g.toNat, k.toNat⟩ })
  have written : takeBody s.own (.levels lam n g k) (s.withPort q) = (s.withPort q).withAgr a := if_pos rfl
  have noticed : ownNotice (.levels lam n g k) ((s.withPort q).withAgr a) = (s.withPort q).withAgr a := rfl
  rw [handedOver, written, noticed]
  exact takeReports_of_settled hs

/-- A working station's message that completes leaves its queue and is handed over (R116). -/
theorem exec_messageComplete {m : Message} (hm : s.port.attempt = some m) (hw : s.working = true) :
    exec .messageComplete s = .next (handedOver m.body (completedPort s.port m.body) s) := by
  simp [exec, execMessageComplete, finish, hm, hw, handedOver]

end

/-- Settles O50: the message leaves its queue, and each kind is handed over as one received is, with its notices. -/
theorem messageCompletes : Obligations.MessageCompletes := by
  intro m s hm
  refine ⟨fun hw => ?_, fun hs hw => ?_⟩
  · obtain ⟨a, k, y, w, x, frame⟩ := handedOver_frame m.body (completedPort s.port m.body) s
    refine ⟨_, exec_messageComplete hm hw, ?_, ?_, ?_, ?_, ?_, ?_, ?_⟩
    · rw [frame]
      rfl
    · rw [frame]
    · intro c d v n h hb hown
      rw [hb]
      exact handedOver_pulse hown
    · intro e lam hb
      rw [hb]
      exact handedOver_light
    · intro live why j e lam hb
      rw [hb]
      exact handedOver_change
    · intro e f c hb hown hs
      rw [hb]
      exact handedOver_bounds hown hs
    · intro lam n g k hb hs
      rw [hb, handedOver_levels hs]
  · have ended : exec .messageComplete s = finish (endHaltedAttempt 0 s) := by
      simp [exec, execMessageComplete, hm, hw]
    rw [ended, finish_eq_next, takeReports_of_settled (by exact hs)]
    rfl

end Sys2Proof.Machine
end

section
/-!
PROOFS. What a frame start of a working station leaves of its counts, and the counts themselves (O24).
-/
namespace Sys2Proof.Machine

/-! ## The parts of a frame start -/

/-- A working station at a frame start, once the counts are made. -/
def countedAt (first : Stamp) (s : State) : State := frameCounts (rasterFrameStart first (endFrameReads s))

/-- A working station at a frame start, once its agreement part is done. -/
def agreedAt (first : Stamp) (s : State) : State :=
  frameAgreement (s.ctl.condition == .joining) s.line.frameNo (countedAt first s)

/-- A working station at a frame start, once its changes are queued or entered. -/
def changedAt (first : Stamp) (s : State) : State := frameChanges (agreedAt first s)

/-- A working station after a frame start. -/
def startedAt (first : Stamp) (s : State) : State :=
  takeReports (setupStep (selectContent (frameJobs (changedAt first s))))

theorem exec_startedAt {first : Stamp} {s : State} (hw : s.working = true) (hr : s.line.running = true) :
    exec (.frameStart first) s = .next (startedAt first s) := exec_frameStart hw hr

/-! ## The changes and the jobs, and what follows them -/

/-- A CHANGE that arrives joins the CHANGE queue, or leaves it (R106, R114). -/
theorem enqueue_change_frame (live : Bool) (why : Reason) (j : BitVec 8) (e : FrameNo) (lam : BitVec 16) (s : State) :
    ∃ l x, enqueue (.change live why j e lam) s =
      { s with port := { s.port with change := s.port.change ++ l }, faults := x } := by
  have kept : ∀ x, ∃ l y, { s with faults := x } =
      { s with port := { s.port with change := s.port.change ++ l }, faults := y } :=
    fun x => ⟨[], x, by rw [List.append_nil]⟩
  unfold enqueue
  dsimp only
  split
  · exact kept s.faults
  · split
    · exact ⟨_, s.faults, rfl⟩
    · exact kept _

/-- The own change of a frame start joins the CHANGE queue; beside it the light monitor and the fault unit alone change. -/
theorem announceStep_queue (s : State) : ∃ l w x, announceStep s =
    { s with port := { s.port with change := s.port.change ++ l }, light := w, faults := x } := by
  unfold announceStep
  split
  · obtain ⟨l, x, h⟩ := enqueue_change_frame true .join (BitVec.ofNat 8 s.own) s.leadEpoch (field16 s.light.filtered) s
    unfold announceLive
    dsimp only
    rw [h]
    split <;> exact ⟨l, _, x, rfl⟩
  · split
    · obtain ⟨l, x, h⟩ := enqueue_change_frame false (if s.link.health = .failed then .input else .light)
        (BitVec.ofNat 8 s.own) s.leadEpoch 0 s
      exact ⟨l, s.light, x, h⟩
    · exact ⟨[], s.light, s.faults, by rw [List.append_nil]⟩

theorem announceSilence_queue (s : State) (i : Nat) : ∃ l x, announceSilence s i =
    { s with port := { s.port with change := s.port.change ++ l }, faults := x } := by
  obtain ⟨l, x, h⟩ := enqueue_change_frame false .silence (BitVec.ofNat 8 i) s.leadEpoch 0 s
  obtain ⟨y, hy⟩ := reportIf_frame s.port.takesChange .agreement .peerSilent i
    (enqueue (.change false .silence (BitVec.ofNat 8 i) s.leadEpoch 0) s)
  exact ⟨l, y, hy.trans (by rw [h])⟩

theorem foldl_announceSilence_queue (is : List Nat) (s : State) : ∃ l x, is.foldl announceSilence s =
    { s with port := { s.port with change := s.port.change ++ l }, faults := x } := by
  induction is generalizing s with
  | nil => exact ⟨[], s.faults, by rw [List.append_nil]; rfl⟩
  | cons i rest ih =>
    obtain ⟨l, x, h⟩ := announceSilence_queue s i
    obtain ⟨k, y, hk⟩ := ih (announceSilence s i)
    exact ⟨l ++ k, y, by rw [List.foldl_cons, hk, h, ← List.append_assoc]⟩

/-- The changes about silent peers join the CHANGE queue (R36). -/
theorem peerSilence_queue (s : State) : ∃ l x, (if s.ctl.condition = .joining then s else peerSilenceStep s) =
    { s with port := { s.port with change := s.port.change ++ l }, faults := x } := by
  split
  · exact ⟨[], s.faults, by rw [List.append_nil]⟩
  · exact foldl_announceSilence_queue _ s

/-- The LIGHT request places a message in the LIGHT queue (R171). -/
theorem lightRequestStep_queue (s : State) : ∃ q w, lightRequestStep s =
    { s with port := { s.port with light := q }, light := w } := by
  unfold lightRequestStep
  split
  · unfold enqueue
    dsimp only
    split <;> exact ⟨_, _, rfl⟩
  · exact ⟨s.port.light, s.light, rfl⟩

/-- The changes of a frame start join the CHANGE queue and place a LIGHT; the rest of the port stays. -/
theorem frameChanges_queue (s : State) : ∃ e y l q w x, frameChanges s =
    { s with
      agr := { s.agr with epochs := e }, sol := y
      port := { s.port with change := s.port.change ++ l, light := q }, light := w, faults := x } := by
  obtain ⟨l, w, x, h⟩ := announceStep_queue s
  obtain ⟨k, z, hk⟩ := peerSilence_queue (announceStep s)
  obtain ⟨e, y, x', hs⟩ := selfSilenceStep_frame
    (if (announceStep s).ctl.condition = .joining then announceStep s else peerSilenceStep (announceStep s))
  obtain ⟨q, w', hl⟩ := lightRequestStep_queue (selfSilenceStep
    (if (announceStep s).ctl.condition = .joining then announceStep s else peerSilenceStep (announceStep s)))
  unfold frameChanges
  dsimp only
  rw [hl, hs, hk, h]
  exact ⟨e, y, l ++ k, q, w', x', by rw [List.append_assoc]⟩

/-- The jobs of a frame start change the pending epoch list, the solver and the fault unit alone. -/
theorem frameJobs_quiet (s : State) : ∃ e y x,
    frameJobs s = { s with agr := { s.agr with epochs := e }, sol := y, faults := x } := by
  obtain ⟨e, y, x, h⟩ := cutStep_frame (queueBoundsJobs s)
  obtain ⟨e', y', h'⟩ := startJobs_quiet (cutStep (queueBoundsJobs s))
  exact ⟨e', y', x, h'.trans (by rw [h]; rfl)⟩

/-- What follows the agreement part of a frame start leaves the controller, the link, the line, the settings, the live view and the
peer table; the CHANGE queue keeps what it holds, and the rest of the port but for the LIGHT queue stays. -/
theorem startedAt_frame (first : Stamp) (s : State) : ∃ e y l q w x st px,
    startedAt first s =
      let g := agreedAt first s
      { g with
        agr := { g.agr with epochs := e }, sol := y
        port := { g.port with change := g.port.change ++ l, light := q }, light := w, store := st, pix := px, faults := x } := by
  obtain ⟨e, y, l, q, w, x, h⟩ := frameChanges_queue (agreedAt first s)
  obtain ⟨e', y', x', h'⟩ := frameJobs_quiet (changedAt first s)
  obtain ⟨st, x'', hs⟩ := selectContent_frame (frameJobs (changedAt first s))
  obtain ⟨z, hz⟩ := takeReports_frame (setupStep (selectContent (frameJobs (changedAt first s))))
  refine ⟨e', y', l, q, w, z, (startedAt first s).store, (startedAt first s).pix, ?_⟩
  unfold startedAt
  rw [hz, setupStep_frame, hs, h', show changedAt first s = _ from h]

/-- Reports that stand before the changes of a frame start stand after it. -/
theorem startedAt_keepsPending {first : Stamp} {s : State} {i : Nat} (h : (agreedAt first s).faults.pending.getLsbD i = true) :
    (startedAt first s).faults.pending.getLsbD i = true := by
  have kept : KeepsCounts (agreedAt first s) (startedAt first s) := by
    unfold startedAt changedAt
    exact (((((frameChanges_keepsCounts (agreedAt first s)).trans (frameJobs_keepsCounts _)).trans
      (selectContent_keepsCounts _)).trans (setupStep_keepsCounts _)).trans (takeReports_keepsCounts _))
  exact kept.1.pending i h

/-! ## Peer records through the agreement part -/

/-- The peer record `q` differs from `r` in its repair count and its light factor at most. -/
def PeerRecord.SameReport (r q : PeerRecord) : Prop := q = { r with repair := q.repair, factor := q.factor }

theorem PeerRecord.SameReport.refl (r : PeerRecord) : r.SameReport r := rfl

theorem PeerRecord.SameReport.trans {r q p : PeerRecord} (h : r.SameReport q) (g : q.SameReport p) : r.SameReport p := by
  unfold SameReport at h g ⊢
  rw [g, h]

theorem PeerRecord.SameReport.silence {r q : PeerRecord} (h : r.SameReport q) : q.silence = r.silence := by
  unfold SameReport at h
  rw [h]

theorem PeerRecord.SameReport.pulse {r q : PeerRecord} (h : r.SameReport q) : q.pulse = r.pulse := by
  unfold SameReport at h
  rw [h]

/-- The agreement units `a` and `b` hold the same reports of every station. -/
def Agreement.SameReports (a b : Agreement) : Prop := ∀ i, (a.peer i).SameReport (b.peer i)

theorem Agreement.SameReports.refl (a : Agreement) : a.SameReports a := fun i => .refl (a.peer i)

theorem Agreement.SameReports.trans {a b c : Agreement} (h : a.SameReports b) (g : b.SameReports c) : a.SameReports c :=
  fun i => (h i).trans (g i)

/-- The record of a station through a change of the peer table. -/
theorem peer_mapIdx {a b : Agreement} {f : Nat → PeerRecord → PeerRecord} (h : b.peers = a.peers.mapIdx f) {i : Nat}
    (hi : i < a.peers.length) : b.peer i = f i (a.peer i) := by
  simp [Agreement.peer, h, hi]

theorem peer_default {a : Agreement} {i : Nat} (hi : a.peers.length ≤ i) : a.peer i = emptyPeer := by
  simp [Agreement.peer, hi]

theorem Agreement.SameReports.onPeers (a : Agreement) (own : Nat) {f : Nat → PeerRecord → PeerRecord}
    (hf : ∀ (i : Nat) (r : PeerRecord), r.SameReport (f i r)) : a.SameReports (a.onPeers own f) := by
  intro i
  obtain hi | hi := Nat.lt_or_ge i a.peers.length
  · rw [peer_mapIdx (a := a) (b := a.onPeers own f) rfl hi]
    split
    · exact .refl _
    · exact hf i _
  · rw [peer_default hi, peer_default (by simpa [Agreement.onPeers] using hi)]
    exact .refl _

theorem Agreement.SameReports.modify {a b : Agreement} {i : Nat} {f : PeerRecord → PeerRecord}
    (h : b.peers = a.peers.modify i f) (hf : ∀ r : PeerRecord, r.SameReport (f r)) : a.SameReports b := by
  intro j
  simp only [Agreement.peer, h, List.getD_eq_getElem?_getD, List.getElem?_modify]
  cases a.peers[j]? with
  | none => exact .refl _
  | some r =>
    rw [Option.map_eq_map, Option.map_some, Option.getD_some, Option.getD_some]
    split
    · exact hf r
    · exact .refl r

/-- A state change that takes effect moves the own condition and its dwell count, and a light factor at most (R44, R29). -/
theorem applyState_counts (s : State) (c : StateChange) : s.agr.SameReports (applyState s c).agr ∧
    ∃ cond d, (applyState s c).ctl = { s.ctl with condition := cond, dwell := d } := by
  unfold applyState
  dsimp only
  split
  · exact ⟨.refl _, _, _, rfl⟩
  · refine ⟨?_, ?_⟩
    · show s.agr.SameReports { s.agr with live := _, peers := applyStateToPeers s.agr.peers c }
      unfold applyStateToPeers
      split
      · exact .modify (i := c.subject) rfl fun _ => rfl
      · exact .refl _
    · show ∃ cond d, moveCondition s.own s.ctl c = _
      unfold moveCondition
      split_ifs <;> exact ⟨_, _, rfl⟩

theorem foldl_applyState_counts (cs : List StateChange) (s : State) : s.agr.SameReports (cs.foldl applyState s).agr ∧
    ∃ cond d, (cs.foldl applyState s).ctl = { s.ctl with condition := cond, dwell := d } := by
  induction cs generalizing s with
  | nil => exact ⟨.refl _, _, _, rfl⟩
  | cons c rest ih =>
    obtain ⟨same, cond, d, h⟩ := applyState_counts s c
    obtain ⟨same', cond', d', h'⟩ := ih (applyState s c)
    exact ⟨same.trans same', cond', d', h'.trans (by rw [h])⟩

theorem foldl_applyLight_reports (ls : List LightChange) (a : Agreement) :
    a.SameReports { a with peers := ls.foldl applyLightToPeers a.peers } := by
  induction ls generalizing a with
  | nil => exact .refl a
  | cons l rest ih =>
    have one : a.SameReports { a with peers := applyLightToPeers a.peers l } := .modify (i := l.station) rfl fun _ => rfl
    exact one.trans (ih { a with peers := applyLightToPeers a.peers l })

theorem applyRecord_counts (s : State) (r : EpochRecord) : s.agr.SameReports (applyRecord s r).agr ∧
    ∃ cond d, (applyRecord s r).ctl = { s.ctl with condition := cond, dwell := d } := by
  obtain ⟨same, cond, d, h⟩ := foldl_applyState_counts r.states s
  obtain ⟨y, x, ha⟩ := answerSwap_frame r (applyLights r (r.states.foldl applyState s))
  unfold applyRecord
  rw [ha]
  exact ⟨same.trans (foldl_applyLight_reports r.lights _), cond, d, h⟩

theorem applyDue_counts (old : FrameNo) (s : State) : s.agr.SameReports (applyDue old s).agr ∧
    ∃ cond d, (applyDue old s).ctl = { s.ctl with condition := cond, dwell := d } := by
  unfold applyDue
  refine List.foldlRecOn (motive := fun t => s.agr.SameReports t.agr ∧
    ∃ cond d, t.ctl = { s.ctl with condition := cond, dwell := d }) _ applyRecord ?_ ?_
  · exact ⟨fun _ => .refl _, _, _, rfl⟩
  rintro t ⟨same, cond, d, h⟩ r -
  obtain ⟨same', cond', d', h'⟩ := applyRecord_counts t r
  exact ⟨same.trans same', cond', d', h'.trans (by rw [h])⟩

theorem foldl_repairPeer_reports (is : List Nat) (s : State) : s.agr.SameReports (is.foldl repairPeer s).agr :=
  List.foldlRecOn (motive := fun t => s.agr.SameReports t.agr) is repairPeer (.refl _) fun t same i _ =>
    same.trans (.modify (i := i) (a := t.agr) (f := fun r => { r with repair := 0 }) rfl fun _ => rfl)

theorem sourceToLevels_report (v : StationSet) (i : Nat) (r : PeerRecord) : r.SameReport (sourceToLevels v i r) := by
  unfold sourceToLevels
  split
  · split <;> rfl
  · rfl

theorem viewStep_reports (joining : Bool) (old : FrameNo) (s : State) : s.agr.SameReports (viewStep joining old s).agr := by
  cases joining
  · exact .onPeers _ _ fun _ _ => rfl
  · exact .refl _

/-- The agreement part of a frame start leaves the reports of every station, and of the controller the listen, aligned and
self-silence counts. -/
theorem frameAgreement_counts (joining : Bool) (old : FrameNo) (s : State) :
    s.agr.SameReports (frameAgreement joining old s).agr ∧
      ∃ cond d, (frameAgreement joining old s).ctl = { s.ctl with condition := cond, dwell := d } := by
  have viewed := viewStep_reports joining old s
  have viewedCtl : (viewStep joining old s).ctl = s.ctl := by cases joining <;> rfl
  obtain ⟨y, hy⟩ := lateSwapStep_frame (viewStep joining old s)
  obtain ⟨applied, cond, d, hc⟩ := applyDue_counts old (lateSwapStep (viewStep joining old s))
  rw [hy] at applied hc
  have repaired := foldl_repairPeer_reports (if joining then [] else repairDue s)
    (applyDue old (lateSwapStep (viewStep joining old s)))
  obtain ⟨v, ps, x, hr⟩ := foldl_repairPeer_frame (if joining then [] else repairDue s)
    (applyDue old (lateSwapStep (viewStep joining old s)))
  rw [hy] at repaired hr
  have sourced : ∀ u : State, u.agr.SameReports (if joining then u else lightSourceStep u).agr ∧
      (if joining then u else lightSourceStep u).ctl = u.ctl := fun u => by
    split
    · exact ⟨.refl _, rfl⟩
    · exact ⟨.onPeers _ _ (sourceToLevels_report _), rfl⟩
  have shown : ∀ u : State, u.agr.SameReports (showStep old (dwellStep u)).agr ∧
      ∃ d, (showStep old (dwellStep u)).ctl = { u.ctl with dwell := d } := fun u => by
    have agr : (dwellStep u).agr = u.agr := by unfold dwellStep; split <;> rfl
    refine ⟨fun i => ?_, ?_⟩
    · have peers := (identifyFadeFrameStart_frame old (dwellStep u).current (dwellStep u).agr).2
      unfold showStep Agreement.peer
      rw [State.withAgr_agr, peers, agr]
      exact .refl _
    · show ∃ d, (dwellStep u).ctl = _
      unfold dwellStep
      split
      · exact ⟨_, rfl⟩
      · exact ⟨u.ctl.dwell, rfl⟩
  unfold frameAgreement
  dsimp only
  rw [hy]
  obtain ⟨same, ctl⟩ := sourced ((if joining then [] else repairDue s).foldl repairPeer
    (applyDue old { viewStep joining old s with sol := y }))
  obtain ⟨same', d', ctl'⟩ := shown (if joining then (if joining then [] else repairDue s).foldl repairPeer
    (applyDue old { viewStep joining old s with sol := y })
    else lightSourceStep ((if joining then [] else repairDue s).foldl repairPeer
    (applyDue old { viewStep joining old s with sol := y })))
  refine ⟨(((viewed.trans applied).trans repaired).trans same).trans same', cond, d', ?_⟩
  rw [ctl', ctl, hr]
  dsimp only
  rw [hc]
  dsimp only
  rw [viewedCtl]

end Sys2Proof.Machine
end

section
/-!
PROOFS. The counts of a frame start (O24).
-/
namespace Sys2Proof.Machine

/-- The misses after a frame start (R134). -/
def Link.missesNow (l : Link) : Nat := if l.cleanFlag then 0 else satInc 255 l.miss

/-- The link receiver after a frame start, by the hold limit and the rejoin count (R134, R135). -/
def Link.healthNow (hold rejoin : Nat) (l : Link) : Link :=
  { l with
    miss := l.missesNow
    cleanFlag := false
    health := if (l.missesNow < hold ∧ l.state = .up) ∧ (l.health = .good ∨ rejoin ≤ l.cleanRun) then .good else .failed
    cleanRun := if hold ≤ l.missesNow ∨ (l.health = .good ∧ l.state ≠ .up) then 0 else l.cleanRun }

/-- Input health at a frame start: it stays or becomes GOOD while it holds, and falls otherwise (R134, R135). -/
theorem inputHealthStep_link (s : State) :
    (inputHealthStep s).link = s.link.healthNow s.settings.holdLimit s.settings.rejoin := by
  unfold inputHealthStep Link.healthNow
  dsimp only
  by_cases misses : s.settings.holdLimit ≤ s.link.missesNow
  · have reached : s.settings.holdLimit ≤ (missStep s.link).miss := misses
    rw [if_pos reached]
    cases hh : s.link.health <;> by_cases up : s.link.state = .up <;>
      simp [hh, up, missStep, healthFall, ← Link.missesNow.eq_def, misses, not_lt.2 misses]
  · have below : ¬ s.settings.holdLimit ≤ (missStep s.link).miss := misses
    rw [if_neg below]
    cases hh : s.link.health <;> by_cases up : s.link.state = .up <;> by_cases run : s.settings.rejoin ≤ s.link.cleanRun <;>
      simp [hh, up, run, missStep, healthFall, ← Link.missesNow.eq_def, misses, not_le.1 misses]

/-- A fall of GOOD health is reported (R135). -/
theorem inputHealthStep_falls {s : State} (hg : s.link.health = .good)
    (hh : ¬(s.link.missesNow < s.settings.holdLimit ∧ s.link.state = .up)) :
    (inputHealthStep s).faults.pending.getLsbD (faultNumber .inputFailed) = true := by
  let l := if s.settings.holdLimit ≤ (missStep s.link).miss then { missStep s.link with cleanRun := 0 } else missStep s.link
  have good : l.health = .good := by
    show (if _ then _ else _ : Link).health = _
    split <;> exact hg
  have kept : l.state = s.link.state ∧ l.miss = s.link.missesNow := by
    show (if _ then _ else _ : Link).state = _ ∧ (if _ then _ else _ : Link).miss = _
    split <;> exact ⟨rfl, rfl⟩
  have falls : healthFall s.settings.holdLimit l ≠ 0 := by
    unfold healthFall
    rw [kept.1, kept.2]
    split_ifs with up reached
    · decide
    · decide
    · exact absurd ⟨not_le.1 reached, not_not.1 up⟩ hh
  have step : inputHealthStep s = report .link .inputFailed (healthFall s.settings.holdLimit l)
      (s.withLink { l with health := .failed, cleanRun := 0 }) := by
    show (match l.health with
      | .good => if healthFall s.settings.holdLimit l = 0 then s.withLink l
        else report .link .inputFailed (healthFall s.settings.holdLimit l)
          (s.withLink { l with health := .failed, cleanRun := 0 })
      | .failed => _) = _
    rw [good]
    exact if_neg falls
  rw [step]
  exact report_pendingBit _ _ _ _

/-- The port after a frame start's off count (R109). -/
def Port.offNow (p : Port) : Port :=
  if p.state = .off then
    if 64 ≤ p.offCount + 1 then { p with state := .active, joined := false, offCount := 0, failures := 0 }
    else { p with offCount := p.offCount + 1 }
  else p

theorem portFrameStart_eq (s : State) : portFrameStart s = s.withPort s.port.offNow := by
  unfold portFrameStart Port.offNow
  dsimp only
  split
  · split <;> rfl
  · rfl

theorem offNow_active_iff (p : Port) :
    p.offNow.state = .active ↔ p.state = .active ∨ (p.state = .off ∧ 64 ≤ p.offCount + 1) := by
  unfold Port.offNow
  split_ifs with off full
  · simp [off, full]
  · simp [off, full]
  · simp [off]

theorem silencedPeers_eq (s : State) : silencedPeers s = if s.port.state = .active then
    (s.agr.onPeers s.own (fun _ r => { r with silence := satInc 65535 r.silence })).peers else s.agr.peers := by
  unfold silencedPeers silenceStep
  split <;> rfl

/-- The silence count of a peer grows while the port is ACTIVE (R35). -/
theorem silencedPeers_peer {s : State} {i : Nat} (hi : i < s.agr.peers.length) (ho : i ≠ s.own) :
    ({ s.agr with peers := silencedPeers s } : Agreement).peer i =
      if s.port.state = .active then { s.agr.peer i with silence := satInc 65535 (s.agr.peer i).silence } else s.agr.peer i := by
  rw [silencedPeers_eq]
  split
  · refine (peer_mapIdx (a := s.agr) rfl hi).trans ?_
    rw [if_neg ho]
  · rfl

/-- The station once the counts of a frame start are made: the port, the link, the spacing count, the peers' silence counts and the
controller's counts, beside what the raster's part changes (R25, R35, R37, R109, R134, R135, R170). -/
theorem countedAt_frame (first : Stamp) (s : State) : ∃ st x, countedAt first s = { s with
    port := s.port.offNow
    link := s.link.healthNow s.settings.holdLimit s.settings.rejoin
    light := { s.light with spacing := satInc 65535 s.light.spacing }
    agr := { s.agr with peers := silencedPeers { s with port := s.port.offNow } }
    line := lineFrameStart first s.halfWidth s.line, store := st, faults := x
    ctl := { s.ctl with
      listen := if s.ctl.condition = .joining ∧ s.port.offNow.state = .active then satInc 65535 s.ctl.listen else s.ctl.listen
      aligned := if alignedNow s then satInc 65535 s.ctl.aligned else 0
      selfSilence := satInc 65535 s.ctl.selfSilence } } := by
  obtain ⟨b, x1, h1⟩ := endFrameReads_frame s
  obtain ⟨x2, h2⟩ := rasterFrameStart_frame first (endFrameReads s)
  let r := rasterFrameStart first (endFrameReads s)
  obtain ⟨p, l, x3, h3⟩ := frameCounts_frame r
  have port : (frameCounts r).port = s.port.offNow := by
    obtain ⟨l, x, h⟩ := inputHealthStep_frame (portFrameStart r)
    have same : (silenceStep (spacingStep (inputHealthStep (portFrameStart r)))).port = (portFrameStart r).port := by
      rw [silenceStep_frame, h]
      rfl
    refine same.trans ?_
    rw [portFrameStart_eq, show r = _ from h2, h1]
    rfl
  have link : (frameCounts r).link = s.link.healthNow s.settings.holdLimit s.settings.rejoin := by
    have same : (silenceStep (spacingStep (inputHealthStep (portFrameStart r)))).link =
        (inputHealthStep (portFrameStart r)).link := by
      rw [silenceStep_frame]
      rfl
    refine same.trans ?_
    rw [inputHealthStep_link, portFrameStart_eq, show r = _ from h2, h1]
    rfl
  have port' : p = s.port.offNow := by rw [← port, h3]
  have link' : l = s.link.healthNow s.settings.holdLimit s.settings.rejoin := by rw [← link, h3]
  refine ⟨{ s.store with eccReported := b }, x3, ?_⟩
  unfold countedAt
  rw [h3, port', link', silencedPeers_eq, silencedPeers_eq, show r = _ from h2, h1]
  rfl

/-- A fall of input health at a frame start is in the pending set after it (R135). -/
theorem countedAt_falls {first : Stamp} {s : State} (hg : s.link.health = .good)
    (hh : ¬(s.link.missesNow < s.settings.holdLimit ∧ s.link.state = .up)) :
    (countedAt first s).faults.pending.getLsbD (faultNumber .inputFailed) = true := by
  obtain ⟨b, x1, h1⟩ := endFrameReads_frame s
  obtain ⟨x2, h2⟩ := rasterFrameStart_frame first (endFrameReads s)
  let r := rasterFrameStart first (endFrameReads s)
  have link : (portFrameStart r).link = s.link ∧ (portFrameStart r).settings = s.settings := by
    rw [portFrameStart_eq, show r = _ from h2, h1]
    exact ⟨rfl, rfl⟩
  have fell : (inputHealthStep (portFrameStart r)).faults.pending.getLsbD (faultNumber .inputFailed) = true :=
    inputHealthStep_falls (by rw [link.1]; exact hg) (by rw [link.1, link.2]; exact hh)
  exact (((spacingStep_keepsCounts _).trans (silenceStep_keepsCounts _)).trans (countStep_keepsCounts _)).1.pending _ fell

/-- Settles O24: the counts are those of `countedAt`, and the rest of the frame start leaves them. -/
theorem frameStartCounts : Obligations.FrameStartCounts := by
  intro first s hw hr returns active misses held
  obtain ⟨st, x, hc⟩ := countedAt_frame first s
  obtain ⟨e, y, l, q, w, x', st', px, ht⟩ := startedAt_frame first s
  obtain ⟨reports, cond, d, hk⟩ := frameAgreement_counts (s.ctl.condition == .joining) s.line.frameNo (countedAt first s)
  obtain ⟨a, y', k, x'', hg⟩ := frameAgreement_frame (s.ctl.condition == .joining) s.line.frameNo (countedAt first s)
  have act : s.port.offNow.state = .active ↔ active := offNow_active_iff s.port
  have ctl : (startedAt first s).ctl = { (countedAt first s).ctl with condition := cond, dwell := d } := by rw [ht]; exact hk
  have port : (startedAt first s).port.state = s.port.offNow.state ∧ (startedAt first s).port.joined = s.port.offNow.joined ∧
      (startedAt first s).port.failures = s.port.offNow.failures ∧
      (startedAt first s).port.offCount = s.port.offNow.offCount := by
    have g : (agreedAt first s).port = s.port.offNow := by rw [show agreedAt first s = _ from hg, hc]
    rw [ht]
    dsimp only
    rw [g]
    exact ⟨rfl, rfl, rfl, rfl⟩
  have link : (startedAt first s).link = s.link.healthNow s.settings.holdLimit s.settings.rejoin := by
    rw [ht]
    dsimp only
    rw [show agreedAt first s = _ from hg, hc]
  have peer : ∀ i < s.agr.peers.length, i ≠ s.own → ((startedAt first s).agr.peer i).silence =
      if s.port.offNow.state = .active then satInc 65535 (s.agr.peer i).silence else (s.agr.peer i).silence := by
    intro i hi ho
    have same : ((startedAt first s).agr.peer i).silence = ((countedAt first s).agr.peer i).silence := by
      rw [ht]
      exact (reports i).silence
    rw [same, hc]
    dsimp only
    rw [silencedPeers_peer (s := { s with port := s.port.offNow }) hi ho]
    split <;> rfl
  obtain ⟨state, joined, failures, offCount⟩ := port
  rw [hc] at ctl
  refine ⟨_, exec_startedAt hw hr, by rw [ctl], fun h => ?_, fun h => ?_, by rw [ctl], fun i hi ho => ⟨fun h => ?_, fun h => ?_⟩,
    fun h => ?_, fun h hn => ?_, by rw [link]; rfl, by rw [link]; rfl, ?_, by rw [link]; rfl, fun hg hh => ?_,
    by rw [link]; rfl, by rw [link]; rfl, by rw [link]; rfl, by rw [link]; rfl⟩
  · rw [ctl]
    exact if_pos ⟨h.1, act.2 h.2⟩
  · rw [ctl]
    exact if_neg fun c => h ⟨c.1, act.1 c.2⟩
  · rw [peer i hi ho, if_pos (act.2 h)]
  · rw [peer i hi ho, if_neg (mt act.1 h)]
  · rw [state, joined, failures]
    simp [Port.offNow, h.1, h.2]
  · rw [state, offCount]
    have below : ¬ 64 ≤ s.port.offCount + 1 := fun c => hn ⟨h, c⟩
    simp [Port.offNow, h, below]
  · rw [link]
    show (if _ then Health.good else .failed) = .good ↔ _
    split_ifs with good
    · exact iff_of_true rfl good
    · exact iff_of_false (by decide) good
  · refine startedAt_keepsPending ?_
    exact (frameAgreement_keepsCounts _ _ _).1.pending _ (countedAt_falls hg hh)

end Sys2Proof.Machine
end

section
/-!
PROOFS. The live view and the repairs of a frame start (O27).
-/
namespace Sys2Proof.Machine

/-! ## Sets of stations -/

/-- A station whose number is below 12 has the membership set; every other keeps its own. -/
theorem isMember_setMember (v : StationSet) (i j : Nat) (b : Bool) :
    isMember (setMember v i b) j = if j = i ∧ i < 12 then b else isMember v j := by
  have bit : (1#12 <<< i).getLsbD j = decide (j = i ∧ i < 12) := by
    rw [BitVec.getLsbD_shiftLeft, BitVec.getLsbD_one, Bool.eq_iff_iff]
    simp only [Bool.and_eq_true, Bool.not_eq_true', decide_eq_true_eq, decide_eq_false_iff_not]
    omega
  have below : ¬ j < 12 → v.getLsbD j = false := fun h => BitVec.getLsbD_of_ge v j (not_lt.1 h)
  have below : ¬ j < 12 → v.getLsbD j = false := fun h => BitVec.getLsbD_of_ge v j (not_lt.1 h)
  unfold isMember setMember
  cases b
  · rw [if_neg (by decide), BitVec.getLsbD_and, BitVec.getLsbD_not, bit]
    by_cases h12 : j < 12 <;> by_cases hj : j = i ∧ i < 12 <;> simp [h12, hj, below]
  · rw [if_pos rfl, BitVec.getLsbD_or, bit]
    by_cases hj : j = i ∧ i < 12 <;> simp [hj]

theorem isMember_lt {v : StationSet} {i : Nat} (h : isMember v i = true) : i < 12 := BitVec.lt_of_getLsbD h

/-- The stations of a list that a condition admits join a view. -/
theorem isMember_foldl_join (p : Nat → Prop) [DecidablePred p] (l : List Nat) (v : StationSet) (j : Nat) :
    isMember (l.foldl (fun v i => if p i then setMember v i true else v) v) j = true ↔
      isMember v j = true ∨ (j ∈ l ∧ j < 12 ∧ p j) := by
  induction l generalizing v with
  | nil => simp
  | cons i rest ih =>
    rw [List.foldl_cons, ih, List.mem_cons]
    by_cases hp : p i
    · rw [if_pos hp, isMember_setMember]
      by_cases hj : j = i
      · subst hj
        by_cases h12 : j < 12
        · simp [h12, hp]
        · simp [h12]
      · simp [hj]
    · rw [if_neg hp]
      by_cases hj : j = i
      · subst hj
        simp [hp]
      · simp [hj]

/-! ## The agreement part in its steps -/

/-- The agreement part of a frame start up to the records due (R44, R45, R75). -/
def appliedDue (joining : Bool) (old : FrameNo) (s : State) : State := applyDue old (lateSwapStep (viewStep joining old s))

/-- The agreement part of a frame start up to the repairs (R46). -/
def repairedView (joining : Bool) (old : FrameNo) (s : State) : State :=
  (if joining then [] else repairDue s).foldl repairPeer (appliedDue joining old s)

/-- The agreement part of a frame start up to the sources (R48). -/
def sourcedView (joining : Bool) (old : FrameNo) (s : State) : State :=
  if joining then repairedView joining old s else lightSourceStep (repairedView joining old s)

theorem frameAgreement_eq (joining : Bool) (old : FrameNo) (s : State) :
    frameAgreement joining old s = showStep old (dwellStep (sourcedView joining old s)) := rfl

section
variable {joining : Bool} {old : FrameNo} {s : State}

theorem dwellStep_agr (s : State) : (dwellStep s).agr = s.agr := by unfold dwellStep; split <;> rfl

theorem sourcedView_agr : ∃ ps, (sourcedView joining old s).agr = { (repairedView joining old s).agr with peers := ps } := by
  unfold sourcedView
  split
  · exact ⟨_, rfl⟩
  · exact ⟨_, rfl⟩

/-- The show state is behind the view, the peer table, the records and the levels. -/
theorem frameAgreement_shown : (frameAgreement joining old s).agr.live = (repairedView joining old s).agr.live ∧
    (frameAgreement joining old s).agr.peers = (sourcedView joining old s).agr.peers := by
  obtain ⟨f, p, d, h⟩ := fadeFrameStart_frame old (dwellStep (sourcedView joining old s)).current
    (dwellStep (sourcedView joining old s)).agr
  obtain ⟨ps, hs⟩ := sourcedView_agr (joining := joining) (old := old) (s := s)
  rw [frameAgreement_eq, showStep, State.withAgr_agr, h, dwellStep_agr]
  exact ⟨(congrArg Agreement.live hs : (sourcedView joining old s).agr.live = _), rfl⟩

/-- With no record due, none takes effect. -/
theorem appliedDue_of_none (h : ∀ r ∈ s.agr.epochs, isDue old s.current r = false) :
    appliedDue joining old s = lateSwapStep (viewStep joining old s) := by
  obtain ⟨y, hy⟩ := lateSwapStep_frame (viewStep joining old s)
  refine applyDue_of_none ?_
  rw [hy]
  cases joining <;> exact h

end

/-! ## Repairs (R46) -/

/-- The condition of a peer's last PULSE, as a membership (R46). -/
def PeerRecord.pulseLive (r : PeerRecord) : Bool :=
  match r.pulse with
  | some p => p.condition == .live
  | none => false

theorem pulseLive_iff (r : PeerRecord) : r.pulseLive = true ↔ ∃ p, r.pulse = some p ∧ p.condition = .live := by
  unfold PeerRecord.pulseLive
  cases r.pulse <;> simp

theorem repairPeer_live (s : State) (i : Nat) : (repairPeer s i).agr.live = setMember s.agr.live i (s.agr.peer i).pulseLive := by
  unfold repairPeer PeerRecord.pulseLive
  rfl

theorem repairPeer_peers (s : State) (i : Nat) :
    (repairPeer s i).agr.peers = s.agr.peers.modify i (fun r => { r with repair := 0 }) := rfl

theorem peer_modify {a b : Agreement} {i : Nat} {f : PeerRecord → PeerRecord} (h : b.peers = a.peers.modify i f) (j : Nat) :
    b.peer j = if j = i ∧ j < a.peers.length then f (a.peer j) else a.peer j := by
  obtain hj | hj := Nat.lt_or_ge j a.peers.length
  · simp only [Agreement.peer, h, List.getD_eq_getElem?_getD, List.getElem?_modify, List.getElem?_eq_getElem hj, hj, and_true]
    by_cases e : j = i
    · simp [e]
    · simp [e, Ne.symm e]
  · rw [peer_default hj, peer_default (by rw [h, List.length_modify]; exact hj), if_neg (by omega)]

/-- The repairs of a frame start: each peer of the list takes the condition of its last PULSE, its repair count becomes 0, and
VIEW_REPAIR is reported; the others stay. -/
theorem foldl_repairPeer (l : List Nat) (s : State) (j : Nat) :
    isMember (l.foldl repairPeer s).agr.live j =
        (if j ∈ l ∧ j < 12 then (s.agr.peer j).pulseLive else isMember s.agr.live j) ∧
      (l.foldl repairPeer s).agr.peer j =
        (if j ∈ l ∧ j < s.agr.peers.length then { s.agr.peer j with repair := 0 } else s.agr.peer j) := by
  induction l generalizing s with
  | nil => simp
  | cons i rest ih =>
    obtain ⟨live, peer⟩ := ih (repairPeer s i)
    have head := peer_modify (a := s.agr) (b := (repairPeer s i).agr) (repairPeer_peers s i) j
    have same : ((repairPeer s i).agr.peer j).pulseLive = (s.agr.peer j).pulseLive := by
      rw [head]
      split <;> rfl
    have len : (repairPeer s i).agr.peers.length = s.agr.peers.length := by rw [repairPeer_peers, List.length_modify]
    rw [List.foldl_cons, live, peer, same, len, head, repairPeer_live, isMember_setMember]
    by_cases hj : j = i
    · subst hj
      refine ⟨?_, ?_⟩
      · by_cases h12 : j < 12 <;> simp [h12]
      · by_cases hlen : j < s.agr.peers.length <;> simp [hlen]
    · simp [hj]

theorem foldl_repairPeer_reported {l : List Nat} {i : Nat} (h : i ∈ l) (s : State) :
    (l.foldl repairPeer s).faults.pending.getLsbD (faultNumber .viewRepair) = true := by
  induction l generalizing s with
  | nil => exact nomatch h
  | cons j rest ih =>
    obtain rfl | h := List.mem_cons.1 h
    · exact (KeepsCounts.foldl repairPeer_keepsCounts rest (repairPeer s i)).1.pending _ (report_pendingBit _ _ _ _)
    · exact ih h _

theorem frameAgreement_repairReported {old : FrameNo} {s : State} {i : Nat} (h : i ∈ repairDue s) :
    (frameAgreement false old s).faults.pending.getLsbD (faultNumber .viewRepair) = true := by
  have repaired : (repairedView false old s).faults.pending.getLsbD (faultNumber .viewRepair) = true :=
    foldl_repairPeer_reported h _
  have sourced : KeepsCounts (repairedView false old s) (sourcedView false old s) := lightSourceStep_keepsCounts _
  rw [frameAgreement_eq]
  exact ((sourced.trans (dwellStep_keepsCounts _)).trans (showStep_keepsCounts _ _)).1.pending _ repaired

theorem mem_repairDue {s : State} {i : Nat} :
    i ∈ repairDue s ↔ i < 12 ∧ i ≠ s.own ∧ 2 ≤ (s.agr.peer i).repair ∧ s.agr.statePending i = false := by
  simp [repairDue, and_assoc]

theorem statePending_iff (a : Agreement) (i : Nat) :
    a.statePending i = true ↔ ∃ r ∈ a.epochs, ∃ c ∈ r.states, c.subject = i := by
  simp [Agreement.statePending, Agreement.pendingState, List.find?_isSome]

/-! ## The view of a frame start with no record due -/

theorem peer_onPeers {a : Agreement} {own i : Nat} (f : Nat → PeerRecord → PeerRecord) (hi : i < a.peers.length) (ho : i ≠ own) :
    (a.onPeers own f).peer i = f i (a.peer i) := (peer_mapIdx (a := a) rfl hi).trans (if_neg ho)

theorem sourceToLevels_repair (v : StationSet) (i : Nat) (r : PeerRecord) : (sourceToLevels v i r).repair = r.repair := by
  unfold sourceToLevels
  split
  · split <;> rfl
  · rfl

section
variable {old : FrameNo} {s : State}

/-- In JOINING the view is the rebuilt one (R45). -/
theorem frameAgreement_rebuilt (h : ∀ r ∈ s.agr.epochs, isDue old s.current r = false) :
    (frameAgreement true old s).agr.live = rebuiltView s := by
  obtain ⟨y, hy⟩ := lateSwapStep_frame (viewStep true old s)
  rw [frameAgreement_shown.1]
  show (appliedDue true old s).agr.live = _
  rw [appliedDue_of_none h, hy]
  rfl

theorem mem_rebuiltView (s : State) (i : Nat) : isMember (rebuiltView s) i = true ↔ i < 12 ∧ i ≠ s.own ∧
    (s.agr.peer i).silence < s.settings.silenceTimeout ∧ ∃ p, (s.agr.peer i).pulse = some p ∧ p.condition = .live := by
  have admitted : rebuiltMember s.settings.silenceTimeout (s.agr.peer i) = true ↔
      (s.agr.peer i).silence < s.settings.silenceTimeout ∧ ∃ p, (s.agr.peer i).pulse = some p ∧ p.condition = .live := by
    unfold rebuiltMember
    cases (s.agr.peer i).pulse <;> simp [and_comm]
  unfold rebuiltView
  rw [isMember_foldl_join (fun i => i ≠ s.own ∧ rebuiltMember s.settings.silenceTimeout (s.agr.peer i) = true), admitted]
  simp [isMember]

/-- In LIVE or DARK the view and the repair counts are those of the repairs due and of the comparison (R46). -/
theorem frameAgreement_repaired (h : ∀ r ∈ s.agr.epochs, isDue old s.current r = false) {i : Nat} (hi : i < 12)
    (hl : s.agr.peers.length = 12) :
    isMember (frameAgreement false old s).agr.live i =
        (if i ∈ repairDue s then (s.agr.peer i).pulseLive else isMember s.agr.live i) ∧
      (i ≠ s.own → ((frameAgreement false old s).agr.peer i).repair =
        if i ∈ repairDue s then 0 else repairCount s.agr old i (s.agr.peer i)) := by
  obtain ⟨y, hy⟩ := lateSwapStep_frame (viewStep false old s)
  let compared := s.agr.onPeers s.own (fun i r => { r with repair := repairCount s.agr old i r })
  have before : (appliedDue false old s).agr = compared := by
    rw [appliedDue_of_none h, hy]
    rfl
  have len : compared.peers.length = 12 := by simpa [compared, Agreement.onPeers] using hl
  have pulse : (compared.peer i).pulseLive = (s.agr.peer i).pulseLive := by
    obtain own | ho := eq_or_ne i s.own
    · exact congrArg PeerRecord.pulseLive ((peer_mapIdx (a := s.agr) rfl (by omega)).trans (if_pos own))
    · rw [show compared.peer i = _ from peer_onPeers _ (by omega) ho]
      rfl
  obtain ⟨live, peer⟩ := foldl_repairPeer (repairDue s) (appliedDue false old s) i
  rw [before] at live peer
  have viewLive : (repairedView false old s).agr.live = ((repairDue s).foldl repairPeer (appliedDue false old s)).agr.live := rfl
  have viewPeer : (repairedView false old s).agr.peer i = ((repairDue s).foldl repairPeer (appliedDue false old s)).agr.peer i := rfl
  refine ⟨?_, fun ho => ?_⟩
  · rw [frameAgreement_shown.1, viewLive, live, pulse]
    simp [hi, compared, Agreement.onPeers]
  · have same : ((frameAgreement false old s).agr.peer i).repair = ((repairedView false old s).agr.peer i).repair := by
      have sourced : (frameAgreement false old s).agr.peer i = (lightSourceStep (repairedView false old s)).agr.peer i := by
        rw [Agreement.peer, frameAgreement_shown.2]
        rfl
      obtain hr | hr := Nat.lt_or_ge i (repairedView false old s).agr.peers.length
      · have own : i ≠ (repairedView false old s).own := by
          obtain ⟨v, ps, x, hv⟩ := foldl_repairPeer_frame (repairDue s) (appliedDue false old s)
          have : (repairedView false old s).own = s.own := by
            show ((repairDue s).foldl repairPeer (appliedDue false old s)).own = _
            rw [hv, appliedDue_of_none h, hy]
            rfl
          rw [this]
          exact ho
        rw [sourced, show (lightSourceStep (repairedView false old s)).agr.peer i = _ from peer_onPeers _ hr own]
        exact sourceToLevels_repair _ _ _
      · rw [sourced, peer_default hr, peer_default (by simpa [lightSourceStep, Agreement.onPeers] using hr)]
    rw [same, viewPeer, peer, len]
    by_cases due : i ∈ repairDue s
    · simp [due, hi]
    · rw [if_neg fun c => due c.1, if_neg due, show compared.peer i = _ from peer_onPeers _ (by omega) ho]

end

/-! ## The station once the counts are made -/

/-- What the counts of a frame start keep of the state `s` in `c`, beside the peer records. -/
structure CountsKeep (s c : State) : Prop where
  live : c.agr.live = s.agr.live
  epochs : c.agr.epochs = s.agr.epochs
  levels : c.agr.levels = s.agr.levels
  sol : c.sol = s.sol
  settings : c.settings = s.settings
  own : c.own = s.own
  condition : c.ctl.condition = s.ctl.condition

/-- What the state `t` after a frame start has of the counted state `c` and of the state `g` once the agreement part is done. -/
structure StartKeeps (c g t : State) : Prop where
  frameNo : t.line.frameNo = c.current
  live : t.agr.live = g.agr.live
  peer : ∀ i, t.agr.peer i = g.agr.peer i

section
variable (first : Stamp) (s : State)

/-- The counts leave the view, the records, the levels, the solver and the settings. -/
theorem countedAt_core : CountsKeep s (countedAt first s) := by
  obtain ⟨st, x, h⟩ := countedAt_frame first s
  exact ⟨by rw [h], by rw [h], by rw [h], by rw [h], by rw [h], by rw [State.own, h]; rfl, by rw [h]⟩

/-- The counts leave of every peer record all but the silence count. -/
theorem countedAt_peer (i : Nat) : ∃ n, (countedAt first s).agr.peer i = { s.agr.peer i with silence := n } := by
  obtain ⟨st, x, h⟩ := countedAt_frame first s
  have key : ∃ n, ({ s.agr with peers := silencedPeers { s with port := s.port.offNow } } : Agreement).peer i =
      { s.agr.peer i with silence := n } := by
    rw [silencedPeers_eq]
    split
    · obtain hi | hi := Nat.lt_or_ge i s.agr.peers.length
      · rw [peer_mapIdx (a := s.agr) rfl hi]
        split <;> exact ⟨_, rfl⟩
      · rw [peer_default hi, peer_default (by simpa [Agreement.onPeers] using hi)]
        exact ⟨_, rfl⟩
    · exact ⟨_, rfl⟩
  rw [h]
  exact key

theorem countedAt_length : (countedAt first s).agr.peers.length = s.agr.peers.length := by
  obtain ⟨st, x, h⟩ := countedAt_frame first s
  rw [h]
  show (silencedPeers _).length = _
  rw [silencedPeers_eq]
  split
  · simp [Agreement.onPeers]
  · rfl

/-- After the frame start the line is that of the counts, and the view and the peer records are those of the agreement part. -/
theorem startedAt_core : StartKeeps (countedAt first s) (agreedAt first s) (startedAt first s) := by
  obtain ⟨e, y, l, q, w, x, st, px, h⟩ := startedAt_frame first s
  obtain ⟨a, y', k, x', hg⟩ := frameAgreement_frame (s.ctl.condition == .joining) s.line.frameNo (countedAt first s)
  refine ⟨?_, by rw [h], fun i => by rw [h]; rfl⟩
  rw [h]
  dsimp only
  rw [show agreedAt first s = _ from hg]
  rfl

end

/-- No record due, as it stands once the counts are made. -/
theorem countedAt_none {first : Stamp} {s : State}
    (h : s.agr.epochs.filter (isDue s.line.frameNo (startedAt first s).line.frameNo) = []) :
    ∀ r ∈ (countedAt first s).agr.epochs, isDue s.line.frameNo (countedAt first s).current r = false := by
  rw [(startedAt_core first s).frameNo] at h
  rw [(countedAt_core first s).epochs]
  intro r hr
  exact Bool.eq_false_iff.2 (List.filter_eq_nil_iff.1 h r hr)

/-- Settles O27: the view is the rebuilt one in JOINING, and otherwise that of the repairs due. -/
theorem frameStartView : Obligations.FrameStartView := by
  intro first s hw hr hl
  refine ⟨_, exec_startedAt hw hr, fun none => ?_⟩
  have quiet := countedAt_none none
  obtain ⟨cLive, cEpochs, -, -, cSettings, cOwn, -⟩ := countedAt_core first s
  obtain ⟨-, live, peer⟩ := startedAt_core first s
  have silence : ∀ i, ((startedAt first s).agr.peer i).silence = ((countedAt first s).agr.peer i).silence := fun i => by
    rw [peer]
    exact ((frameAgreement_counts _ _ _).1 i).silence
  refine ⟨fun hj i => ?_, fun hj => ?_⟩
  · have view : (startedAt first s).agr.live = rebuiltView (countedAt first s) := by
      rw [live, agreedAt, show (s.ctl.condition == .joining) = true from beq_iff_eq.2 hj]
      exact frameAgreement_rebuilt quiet
    obtain ⟨n, hn⟩ := countedAt_peer first s i
    rw [view, mem_rebuiltView, silence, cSettings, cOwn, hn]
  · have agreed : agreedAt first s = frameAgreement false s.line.frameNo (countedAt first s) := by
      rw [agreedAt, show (s.ctl.condition == .joining) = false from beq_eq_false_iff_ne.2 hj]
    have repaired := fun (i : Nat) (hi : i < 12) =>
      frameAgreement_repaired quiet hi ((countedAt_length first s).trans hl)
    rw [← agreed] at repaired
    have due : ∀ i, i ∈ repairDue (countedAt first s) ↔
        i < 12 ∧ i ≠ s.own ∧ 2 ≤ (s.agr.peer i).repair ∧ s.agr.statePending i = false := fun i => by
      obtain ⟨n, hn⟩ := countedAt_peer first s i
      rw [mem_repairDue, cOwn, hn, Agreement.statePending, Agreement.pendingState, cEpochs]
      rfl
    have pulse : ∀ i, ((countedAt first s).agr.peer i).pulse = (s.agr.peer i).pulse := fun i => by
      obtain ⟨n, hn⟩ := countedAt_peer first s i
      rw [hn]
    refine ⟨?_, fun i hi ho => ?_⟩
    · obtain h12 | h12 := Nat.lt_or_ge s.own 12
      · rw [live, (repaired s.own h12).1, if_neg fun hd => ?_, cLive]
        obtain ⟨-, other, -⟩ := (due s.own).1 hd
        exact other rfl
      · exact (BitVec.getLsbD_of_ge _ _ h12).trans (BitVec.getLsbD_of_ge _ _ h12).symm
    · obtain ⟨member, repair⟩ := repaired i hi
      have repair := repair (by rw [cOwn]; exact ho)
      rw [← live, cLive] at member
      rw [← peer] at repair
      intro x y pending
      have pending_iff : s.agr.statePending i = true ↔ pending := statePending_iff s.agr i
      have idle : ¬pending → s.agr.statePending i = false := fun h => Bool.eq_false_iff.2 (mt pending_iff.1 h)
      have below : x.repair < 2 → i ∉ repairDue (countedAt first s) := fun two hd => by
        obtain ⟨-, -, reached, -⟩ := (due i).1 hd
        exact absurd reached (not_le.2 two)
      have count : repairCount (countedAt first s).agr s.line.frameNo i ((countedAt first s).agr.peer i) =
          repairCount s.agr s.line.frameNo i x := by
        obtain ⟨n, hn⟩ := countedAt_peer first s i
        unfold repairCount Agreement.statePending Agreement.pendingState
        rw [hn, cEpochs, cLive]
      rw [count] at repair
      refine ⟨fun h => ?_, fun h => ?_, fun h two => ?_, fun h two p hp taken => ?_, fun h two hp => ?_⟩
      · rw [member, if_neg fun hd => ?_]
        obtain ⟨-, -, two, quiet⟩ := (due i).1 hd
        exact h ⟨fun c => absurd quiet (by rw [pending_iff.2 c]; decide), two⟩
      · have waits := pending_iff.2 h
        rw [repair]
        split
        · rfl
        · rw [repairCount, if_pos waits]
      · have hd := (due i).2 ⟨hi, ho, two, idle h⟩
        rw [if_pos hd] at member repair
        refine ⟨repair, startedAt_keepsPending (i := faultNumber .viewRepair) ?_, ?_⟩
        · rw [agreed]
          exact frameAgreement_repairReported hd
        · rw [member, pulseLive_iff, pulse]
      · rw [repair, if_neg (below two), repairCount, if_neg (by rw [idle h]; decide), if_neg (not_le.2 two), hp]
        simp [taken, beq_eq_decide]
      · rw [repair, if_neg (below two), repairCount, if_neg (by rw [idle h]; decide), if_neg (not_le.2 two)]
        cases hx : x.pulse with
        | none => rfl
        | some p => exact if_neg (hp p hx)

end Sys2Proof.Machine
end

section
/-!
PROOFS. The changes that a frame start queues or enters (O28).
-/
namespace Sys2Proof.Machine

/-! ## What the steps behind the records due leave -/

/-- The controller with the dwell count of a frame start (R30). -/
def Controller.dwellNow (k : Controller) : Controller :=
  if k.condition = .dark then { k with dwell := satInc 65535 k.dwell } else k

theorem dwellStep_ctl (s : State) : (dwellStep s).ctl = s.ctl.dwellNow := by
  unfold dwellStep Controller.dwellNow
  split <;> rfl

section
variable {joining : Bool} {old : FrameNo} {s : State}

/-- Behind the records due, the agreement part leaves the records, the levels and the solver, and of the controller all but the
dwell count. -/
theorem frameAgreement_behind : (frameAgreement joining old s).agr.epochs = (appliedDue joining old s).agr.epochs ∧
    (frameAgreement joining old s).agr.levels = (appliedDue joining old s).agr.levels ∧
    (frameAgreement joining old s).ctl = (appliedDue joining old s).ctl.dwellNow := by
  obtain ⟨v, ps, x, hv⟩ := foldl_repairPeer_frame (if joining then [] else repairDue s) (appliedDue joining old s)
  have repaired : (repairedView joining old s).agr.epochs = (appliedDue joining old s).agr.epochs ∧
      (repairedView joining old s).agr.levels = (appliedDue joining old s).agr.levels ∧
      (repairedView joining old s).ctl = (appliedDue joining old s).ctl := by
    unfold repairedView
    rw [hv]
    exact ⟨rfl, rfl, rfl⟩
  have sourced : (sourcedView joining old s).ctl = (repairedView joining old s).ctl := by
    unfold sourcedView
    split <;> rfl
  obtain ⟨qs, hs⟩ := sourcedView_agr (joining := joining) (old := old) (s := s)
  obtain ⟨f, p, d, h⟩ := fadeFrameStart_frame old (dwellStep (sourcedView joining old s)).current
    (dwellStep (sourcedView joining old s)).agr
  obtain ⟨epochs, levels, ctl⟩ := repaired
  refine ⟨?_, ?_, ?_⟩
  · rw [frameAgreement_eq, showStep, State.withAgr_agr, h, dwellStep_agr, ← epochs]
    exact (congrArg Agreement.epochs hs : (sourcedView joining old s).agr.epochs = _)
  · rw [frameAgreement_eq, showStep, State.withAgr_agr, h, dwellStep_agr, ← levels]
    exact (congrArg Agreement.levels hs : (sourcedView joining old s).agr.levels = _)
  · rw [frameAgreement_eq, ← ctl, ← sourced]
    exact dwellStep_ctl _

/-- With no record due, the agreement part leaves the records, and of the controller all but the dwell count. -/
theorem frameAgreement_of_none (h : ∀ r ∈ s.agr.epochs, isDue old s.current r = false) :
    (frameAgreement joining old s).agr.epochs = s.agr.epochs ∧ (frameAgreement joining old s).ctl = s.ctl.dwellNow := by
  obtain ⟨y, hy⟩ := lateSwapStep_frame (viewStep joining old s)
  obtain ⟨epochs, -, ctl⟩ := frameAgreement_behind (joining := joining) (old := old) (s := s)
  rw [appliedDue_of_none h, hy] at epochs ctl
  refine ⟨epochs.trans ?_, ctl.trans ?_⟩ <;> cases joining <;> rfl

end

/-! ## The CHANGE queue of a frame start -/

theorem enqueue_change_room {live : Bool} {why : Reason} {j : BitVec 8} {e : FrameNo} {lam : BitVec 16} {s : State}
    (hs : s.port.state ≠ .disabled) (hl : s.port.change.length < 4) : enqueue (.change live why j e lam) s =
      s.withPort { s.port with change := s.port.change ++ [⟨BitVec.ofNat 4 s.own, .change live why j e lam⟩] } := by
  simp [enqueue, hs, hl]

theorem takesChange_room {p : Port} (hs : p.state ≠ .disabled) (hl : p.change.length < 4) : p.takesChange = true := by
  simp [Port.takesChange, hs, hl]

theorem own_lt (s : State) : s.own < 16 := s.loader.strapped.isLt

/-- The own CHANGE that a frame start queues: the announcement, with its factor as λ, or the own DARK change (R26 to R28). -/
def ownChange (live : Bool) (s : State) : Message :=
  ⟨BitVec.ofNat 4 s.own, .change live (if live then .join else if s.link.health = .failed then .input else .light)
    (BitVec.ofNat 8 s.own) s.leadEpoch (if live then field16 s.light.filtered else 0)⟩

theorem changeAbout_ownChange (live : Bool) (s : State) (i : Nat) : changeAbout i (ownChange live s) = true ↔ i = s.own := by
  have number : (BitVec.ofNat 8 s.own).toNat = s.own := by
    rw [BitVec.toNat_ofNat]
    exact Nat.mod_eq_of_lt (by have := own_lt s; omega)
  show ((BitVec.ofNat 8 s.own).toNat == i) = true ↔ _
  rw [number, beq_iff_eq, eq_comm]

section
variable {s : State} (hs : s.port.state ≠ .disabled) (hc : s.port.change = [])
include hs hc

/-- With an empty CHANGE queue the announcement enters it, and the light monitor takes its factor (R26, R170). -/
theorem announceStep_announces (h : mayAnnounce s = true) : announceStep s =
    { s with
      port := { s.port with change := [ownChange true s] }
      light := { s.light with announced := s.light.filtered, spacing := 0 } } := by
  have room : s.port.change.length < 4 := by rw [hc]; decide
  rw [announceStep, if_pos h, announceLive, if_pos (takesChange_room hs room), enqueue_change_room hs room, hc]
  rfl

/-- With an empty CHANGE queue the own DARK change enters it (R27, R28). -/
theorem announceStep_departs (h : mayAnnounce s = false) (hd : (mayWithdraw s || mayDepart s) = true) :
    announceStep s = s.withPort { s.port with change := [ownChange false s] } := by
  have room : s.port.change.length < 4 := by rw [hc]; decide
  rw [announceStep, if_neg (by simp [h]), if_pos hd, queueOwnDark, enqueue_change_room hs room, hc]
  rfl

/-- With an empty CHANGE queue a frame start queues at most one own change (R26 to R28). -/
theorem announceStep_own : ∃ l w, announceStep s = { s with port := { s.port with change := l }, light := w } ∧
    l.length ≤ 1 ∧ ∀ m ∈ l, ∃ live, m = ownChange live s := by
  cases ha : mayAnnounce s with
  | true => exact ⟨_, _, announceStep_announces hs hc ha, le_refl _, fun m hm => ⟨true, List.mem_singleton.1 hm⟩⟩
  | false =>
    cases hd : (mayWithdraw s || mayDepart s) with
    | true => exact ⟨_, _, announceStep_departs hs hc ha hd, le_refl _, fun m hm => ⟨false, List.mem_singleton.1 hm⟩⟩
    | false =>
      refine ⟨[], s.light, ?_, Nat.zero_le _, fun m hm => nomatch hm⟩
      rw [announceStep, if_neg (by simp [ha]), if_neg (by simp [hd]), ← hc]

end

/-- The DARK CHANGE about a silent peer (R36). -/
def silenceChange (i : Nat) (s : State) : Message :=
  ⟨BitVec.ofNat 4 s.own, .change false .silence (BitVec.ofNat 8 i) s.leadEpoch 0⟩

theorem announceSilence_room {s : State} (hs : s.port.state ≠ .disabled) (hl : s.port.change.length < 4) (i : Nat) :
    announceSilence s i = report .agreement .peerSilent i
      (s.withPort { s.port with change := s.port.change ++ [silenceChange i s] }) := by
  rw [announceSilence, takesChange_room hs hl, enqueue_change_room hs hl]
  rfl

/-- The one peer that is examined as silent is the one announced (R36). -/
theorem silentPeers_single {s : State} {i : Nat} (hi : i < 12) (ho : i ≠ s.own)
    (hm : isMember s.agr.live i = true ∨ s.agr.statePendingAs i true = true)
    (ht : s.settings.silenceTimeout ≤ (s.agr.peer i).silence) (hp : s.agr.statePendingAs i false = false)
    (hq : s.port.changeStands i = false)
    (others : ∀ j < 12, j ≠ i → j ≠ s.own → (s.agr.peer j).silence < s.settings.silenceTimeout) : silentPeers s = [i] := by
  have only : ∀ j ∈ List.range 12, (decide (j ≠ s.own) && (isMember s.agr.live j || s.agr.statePendingAs j true)
      && decide (s.settings.silenceTimeout ≤ (s.agr.peer j).silence) && !(s.agr.statePendingAs j false)
      && !(s.port.changeStands j)) = (j == i) := by
    intro j hj
    by_cases e : j = i
    · subst e
      simp [ho, hm, ht, hp, hq]
    · by_cases own : j = s.own
      · simp [own, Ne.symm ho]
      · simp [e, not_le.2 (others j (List.mem_range.1 hj) e own)]
  unfold silentPeers
  rw [List.filter_congr only]
  exact (List.filter_beq i).trans (by rw [List.count_eq_one_of_mem List.nodup_range (List.mem_range.2 hi)]; rfl)

/-! ## The changes of a frame start, one after another -/

/-- The station at a frame start before self-silence is examined: its own change and those about silent peers are queued. -/
def queuedChanges (s : State) : State :=
  if (announceStep s).ctl.condition = .joining then announceStep s else peerSilenceStep (announceStep s)

theorem frameChanges_eq (s : State) : frameChanges s = lightRequestStep (selfSilenceStep (queuedChanges s)) := rfl

theorem lightRequestStep_of_not_live {s : State} (h : s.ctl.condition ≠ .live) : lightRequestStep s = s :=
  if_neg fun c => h c.1

/-- The LIGHT message of a request (R171). -/
def requestMessage (s : State) : Message := ⟨BitVec.ofNat 4 s.own, .light s.leadEpoch (field16 s.light.filtered)⟩

/-- The LIGHT request with an empty LIGHT queue (R171). -/
theorem lightRequestStep_requests {s : State} (hl : s.ctl.condition = .live) (hd : s.settings.drift ≤ s.light.driftNow)
    (hn : 256 ≤ s.light.spacing) (hq : s.port.light = []) (hs : s.port.state ≠ .disabled) :
    (lightRequestStep s).port.light = [requestMessage s] ∧ (lightRequestStep s).light.spacing = 0 := by
  have step : lightRequestStep s = { s with
      port := { s.port with light := singlePlace (s.port.onBus 4) s.port.light (requestMessage s) }
      light := { s.light with spacing := 0 } } := by
    rw [lightRequestStep, if_pos ⟨hl, hd, hn, hq⟩, enqueue, if_neg hs]
    rfl
  have placed : singlePlace (s.port.onBus 4) s.port.light (requestMessage s) = [requestMessage s] := by
    unfold singlePlace
    rw [hq]
    split <;> rfl
  rw [step]
  exact ⟨placed, rfl⟩

/-- What stands in the CHANGE queue before self-silence is examined stands there after the frame start, and the light monitor is then
as the LIGHT request leaves it. -/
theorem startedAt_queue (first : Stamp) (s : State) :
    (startedAt first s).port.change = (queuedChanges (agreedAt first s)).port.change ∧
      (startedAt first s).port.light = (lightRequestStep (selfSilenceStep (queuedChanges (agreedAt first s)))).port.light ∧
      (startedAt first s).light = (lightRequestStep (selfSilenceStep (queuedChanges (agreedAt first s)))).light ∧
      (startedAt first s).agr.epochs = (frameJobs (changedAt first s)).agr.epochs := by
  obtain ⟨e, y, x, hs⟩ := selfSilenceStep_frame (queuedChanges (agreedAt first s))
  obtain ⟨q, w, hq⟩ := lightRequestStep_queue (selfSilenceStep (queuedChanges (agreedAt first s)))
  obtain ⟨e', y', x', hj⟩ := frameJobs_quiet (changedAt first s)
  obtain ⟨st, x'', hc⟩ := selectContent_frame (frameJobs (changedAt first s))
  obtain ⟨z, hz⟩ := takeReports_frame (setupStep (selectContent (frameJobs (changedAt first s))))
  have port : (startedAt first s).port = (changedAt first s).port := by
    unfold startedAt
    rw [hz, setupStep_frame, hc, hj]
  have light : (startedAt first s).light = (changedAt first s).light := by
    unfold startedAt
    rw [hz, setupStep_frame, hc, hj]
  have changed : changedAt first s = lightRequestStep (selfSilenceStep (queuedChanges (agreedAt first s))) := rfl
  refine ⟨?_, by rw [port, changed], by rw [light, changed], ?_⟩
  · rw [port, changed, hq, hs]
  · unfold startedAt
    rw [hz, setupStep_frame, hc]

/-- The changes about silent peers stand behind the own one, and the light monitor stays (R36). -/
theorem queuedChanges_frame (s : State) : ∃ l x, queuedChanges s = { announceStep s with
    port := { (announceStep s).port with change := (announceStep s).port.change ++ l }, faults := x } :=
  peerSilence_queue (announceStep s)

/-! ## The own entry at self-silence (R37) -/

/-- A record of frame `f` holds the state change `d`. -/
def Agreement.HoldsAt (a : Agreement) (f : FrameNo) (d : StateChange) : Prop := ∃ r ∈ a.epochs, r.frame = f ∧ d ∈ r.states

theorem Agreement.HoldsAt.map {a b : Agreement} {f : FrameNo} {d : StateChange} (h : a.HoldsAt f d)
    {g : EpochRecord → EpochRecord} (hb : b.epochs = a.epochs.map g) (hf : ∀ r, (g r).frame = r.frame)
    (hs : ∀ r, (g r).states = r.states) : b.HoldsAt f d := by
  obtain ⟨r, hr, frame, hd⟩ := h
  exact ⟨g r, by rw [hb]; exact List.mem_map_of_mem hr, (hf r).trans frame, by rw [hs]; exact hd⟩

theorem Agreement.HoldsAt.onRecord {a : Agreement} {f : FrameNo} {d : StateChange} (h : a.HoldsAt f d) (n : FrameNo)
    {g : EpochRecord → EpochRecord} (hf : ∀ r, (g r).frame = r.frame) (hs : ∀ r, (g r).states = r.states) :
    (a.onRecord n g).HoldsAt f d := by
  refine h.map rfl (fun r => ?_) (fun r => ?_)
  · split
    · exact hf r
    · rfl
  · split
    · exact hs r
    · rfl

/-- The jobs of a frame start leave the changes of every record. -/
theorem frameJobs_holdsAt {s : State} {f : FrameNo} {d : StateChange} (h : s.agr.HoldsAt f d) :
    (frameJobs s).agr.HoldsAt f d := by
  have queued : (queueBoundsJobs s).agr.HoldsAt f d := by
    refine h.map rfl (fun r => ?_) (fun r => ?_)
    · split <;> rfl
    · split <;> rfl
  refine startJobs_agr (P := fun a => a.HoldsAt f d) (fun a n ha => ?_) ?_
  · unfold Agreement.boundedAt
    split
    · split
      · exact ha.onRecord n (fun _ => rfl) (fun _ => rfl)
      · exact ha
    · exact ha
  · refine List.foldlRecOn (motive := fun t => t.agr.HoldsAt f d) _ cutRecord queued fun t ht r _ => ?_
    rw [cutRecord_agr]
    exact ht.onRecord r.frame (fun _ => rfl) (fun _ => rfl)

/-- A self-silent LIVE station enters its own DARK change, at the lead epoch once re-epoched, and reports SELF_SILENT (R37). -/
theorem selfSilenceStep_enters {s : State} (hl : s.ctl.condition = .live)
    (ht : s.settings.silenceTimeout ≤ s.ctl.selfSilence) (hp : s.agr.statePendingAs s.own false = false)
    (hm : isMember s.agr.live s.own = true) (room : s.agr.epochs.length < 8) :
    (selfSilenceStep s).faults.pending.getLsbD (faultNumber .selfSilent) = true ∧
      (selfSilenceStep s).agr.HoldsAt (reEpoch s.current s.leadEpoch) ⟨s.own, false, .silent, none⟩ := by
  let c : StateChange := ⟨s.own, false, .silent, none⟩
  have step : selfSilenceStep s = report .agreement .selfSilent (s.leadEpoch.setWidth 16).toNat
      (takeChange (.state c) s.leadEpoch s) := if_pos ⟨hl, ht, hp⟩
  have open_ : matchesStanding s.agr (.state c) = false := by simp [matchesStanding, c, hm]
  obtain ⟨⟨r, hr, frame, about⟩, -⟩ := takeChange_standsAlone (.state c) s.leadEpoch s open_
  have at_ : r.frame = reEpoch s.current s.leadEpoch := by
    rw [frame, placeFrame, if_pos (.inr ((length_keptRecords_le (.state c) _).trans_lt room))]
  have held : c ∈ r.states := by
    have : Change.state c ∈ changesAbout (.state c) r := by rw [about]; exact List.mem_singleton_self _
    exact (mem_changesAbout_state.1 this).1
  rw [step]
  exact ⟨report_pendingBit _ _ _ _, r, hr, at_, held⟩

/-- Before the LIGHT request the changes leave all but the records, the solver's queue, the CHANGE queue and the announced factor. -/
theorem selfSilenced_frame (s : State) : ∃ e y l x, selfSilenceStep (queuedChanges s) =
    { s with
      agr := { s.agr with epochs := e }, sol := y, port := { s.port with change := l }, light := (announceStep s).light
      faults := x } := by
  obtain ⟨l, w, x, ha⟩ := announceStep_queue s
  obtain ⟨k, x', hq⟩ := queuedChanges_frame s
  obtain ⟨e, y, x'', hs⟩ := selfSilenceStep_frame (queuedChanges s)
  rw [hs, hq, ha]
  exact ⟨e, y, _, x'', rfl⟩

/-- In LIVE the announced factor stays up to the LIGHT request, which then reads what the frame start has counted (R171). -/
theorem frameChanges_requests {s : State} (hs : s.port.state ≠ .disabled) (hc : s.port.change = [])
    (hl : s.ctl.condition = .live) (hd : s.settings.drift ≤ s.light.driftNow) (hn : 256 ≤ s.light.spacing)
    (hq : s.port.light = []) :
    (lightRequestStep (selfSilenceStep (queuedChanges s))).port.light = [requestMessage s] ∧
      (lightRequestStep (selfSilenceStep (queuedChanges s))).light.spacing = 0 := by
  have may : mayAnnounce s = false := by simp [mayAnnounce, hl]
  have light : (announceStep s).light = s.light := by
    cases hd : (mayWithdraw s || mayDepart s) with
    | true => rw [announceStep_departs hs hc may hd]; rfl
    | false => rw [announceStep, if_neg (by simp [may]), if_neg (by simp [hd])]
  obtain ⟨e, y, l, x, hv⟩ := selfSilenced_frame s
  rw [hv, light]
  exact lightRequestStep_requests hl hd hn hq hs

/-- With an empty CHANGE queue the change about the one silent peer is queued, and PEER_SILENT is reported (R36). -/
theorem queuedChanges_silent {s : State} (hs : s.port.state ≠ .disabled) (hc : s.port.change = [])
    (hj : s.ctl.condition ≠ .joining) {i : Nat} (hi : i < 12) (ho : i ≠ s.own)
    (hm : isMember s.agr.live i = true ∨ s.agr.statePendingAs i true = true)
    (ht : s.settings.silenceTimeout ≤ (s.agr.peer i).silence) (hp : s.agr.statePendingAs i false = false)
    (others : ∀ j < 12, j ≠ i → j ≠ s.own → (s.agr.peer j).silence < s.settings.silenceTimeout) :
    silenceChange i s ∈ (queuedChanges s).port.change ∧
      (queuedChanges s).faults.pending.getLsbD (faultNumber .peerSilent) = true := by
  obtain ⟨l, w, ha, short, ours⟩ := announceStep_own hs hc
  let a : State := { s with port := { s.port with change := l }, light := w }
  have fresh : a.port.changeStands i = false := by
    refine List.any_eq_false.2 fun m hm about => ?_
    obtain ⟨b, rfl⟩ := ours m hm
    exact ho ((changeAbout_ownChange b s i).1 about)
  have one : silentPeers a = [i] := silentPeers_single hi ho hm ht hp fresh others
  have step : queuedChanges s = announceSilence a i := by
    rw [queuedChanges, ha, if_neg hj]
    exact congrArg (List.foldl announceSilence a) one
  rw [step, announceSilence_room (s := a) hs (lt_of_le_of_lt short (by decide)) i]
  exact ⟨List.mem_append_right _ (List.mem_singleton_self _), report_pendingBit _ _ _ _⟩

/-- The own entry at self-silence, behind the changes queued (R37). -/
theorem frameChanges_selfSilent {s : State} (hl : s.ctl.condition = .live)
    (ht : s.settings.silenceTimeout ≤ s.ctl.selfSilence) (hp : s.agr.statePendingAs s.own false = false)
    (hm : isMember s.agr.live s.own = true) (room : s.agr.epochs.length < 8) :
    (selfSilenceStep (queuedChanges s)).faults.pending.getLsbD (faultNumber .selfSilent) = true ∧
      (frameChanges s).agr.HoldsAt (reEpoch s.current s.leadEpoch) ⟨s.own, false, .silent, none⟩ := by
  obtain ⟨l, w, x, ha⟩ := announceStep_queue s
  obtain ⟨k, x', hq⟩ := queuedChanges_frame s
  rw [ha] at hq
  have same : (queuedChanges s).agr = s.agr ∧ (queuedChanges s).ctl = s.ctl ∧ (queuedChanges s).own = s.own ∧
      (queuedChanges s).settings = s.settings ∧ (queuedChanges s).current = s.current ∧
      (queuedChanges s).leadEpoch = s.leadEpoch := by
    rw [State.own, State.current, State.leadEpoch, hq]
    exact ⟨rfl, rfl, rfl, rfl, rfl, rfl⟩
  obtain ⟨agr, ctl, own, settings, current, lead⟩ := same
  have entered := selfSilenceStep_enters (s := queuedChanges s) (by rw [ctl]; exact hl) (by rw [settings, ctl]; exact ht)
    (by rw [agr, own]; exact hp) (by rw [agr, own]; exact hm) (by rw [agr]; exact room)
  rw [own, current, lead] at entered
  obtain ⟨q, w', hr⟩ := lightRequestStep_queue (selfSilenceStep (queuedChanges s))
  rw [frameChanges_eq, hr]
  exact entered

/-- What is reported by self-silence or before it is in the pending set after the frame start. -/
theorem selfSilenced_keepsPending {first : Stamp} {s : State} {i : Nat}
    (h : (selfSilenceStep (queuedChanges (agreedAt first s))).faults.pending.getLsbD i = true) :
    (startedAt first s).faults.pending.getLsbD i = true := by
  have kept : KeepsCounts (selfSilenceStep (queuedChanges (agreedAt first s))) (startedAt first s) := by
    unfold startedAt changedAt
    rw [frameChanges_eq]
    exact (((((lightRequestStep_keepsCounts _).trans (frameJobs_keepsCounts _)).trans
      (selectContent_keepsCounts _)).trans (setupStep_keepsCounts _)).trans (takeReports_keepsCounts _))
  exact kept.1.pending i h

/-! ## The obligation -/

/-- The station before its changes, at a frame start with no record due: what the changes read of it. -/
structure BeforeChanges (first : Stamp) (s g : State) : Prop where
  epochs : g.agr.epochs = s.agr.epochs
  condition : g.ctl.condition = s.ctl.condition
  dwell : s.ctl.condition = .dark → g.ctl.dwell = satInc 65535 s.ctl.dwell
  settings : g.settings = s.settings
  own : g.own = s.own
  light : g.light = { s.light with spacing := satInc 65535 s.light.spacing }
  change : g.port.change = s.port.change
  lightQueue : g.port.light = s.port.light
  port : g.port.state = .disabled → s.port.state = .disabled
  after : (startedAt first s).ctl = g.ctl ∧ (startedAt first s).link = g.link ∧
    (startedAt first s).port.state = g.port.state ∧ (startedAt first s).line = g.line

theorem agreedAt_beforeChanges {first : Stamp} {s : State}
    (h : s.agr.epochs.filter (isDue s.line.frameNo (startedAt first s).line.frameNo) = []) :
    BeforeChanges first s (agreedAt first s) := by
  obtain ⟨st, x, hc⟩ := countedAt_frame first s
  obtain ⟨a, y, k, x', hg⟩ := frameAgreement_frame (s.ctl.condition == .joining) s.line.frameNo (countedAt first s)
  obtain ⟨e, y', l, q, w, z, st', px, ht⟩ := startedAt_frame first s
  obtain ⟨epochs, ctl⟩ := frameAgreement_of_none (joining := s.ctl.condition == .joining) (countedAt_none h)
  obtain ⟨-, cEpochs, -, -, cSettings, cOwn, cCond⟩ := countedAt_core first s
  have agreed : agreedAt first s = _ := hg
  have dwelled : ∀ k : Controller, k.dwellNow.condition = k.condition ∧
      (k.condition = .dark → k.dwellNow.dwell = satInc 65535 k.dwell) := fun k => by
    unfold Controller.dwellNow
    split
    · exact ⟨rfl, fun _ => rfl⟩
    · exact ⟨rfl, fun hd => absurd hd ‹_›⟩
  have off : ∀ p : Port, p.offNow.change = p.change ∧ p.offNow.light = p.light ∧
      (p.offNow.state = .disabled → p.state = .disabled) := fun p => by
    unfold Port.offNow
    split_ifs with hoff
    · exact ⟨rfl, rfl, fun h => nomatch h⟩
    · exact ⟨rfl, rfl, id⟩
    · exact ⟨rfl, rfl, id⟩
  have kept : (agreedAt first s).settings = s.settings ∧ (agreedAt first s).own = s.own ∧
      (agreedAt first s).light = { s.light with spacing := satInc 65535 s.light.spacing } ∧
      (agreedAt first s).port = s.port.offNow := by
    rw [State.own, agreed, hc]
    exact ⟨rfl, rfl, rfl, rfl⟩
  obtain ⟨settings, own, light, port⟩ := kept
  obtain ⟨change, lightQueue, state⟩ := off s.port
  have ctl : (agreedAt first s).ctl = _ := ctl
  refine ⟨epochs.trans cEpochs, ?_, fun hd => ?_, settings, own, light, by rw [port, change], by rw [port, lightQueue],
    fun hp => state (by rw [← port]; exact hp), ?_⟩
  · rw [ctl, (dwelled _).1, cCond]
  · rw [ctl, (dwelled _).2 (cCond.trans hd), hc]
  · rw [ht]
    exact ⟨rfl, rfl, rfl, rfl⟩

/-- Settles O28: with an empty CHANGE queue each change finds its place, in the order of `frameChanges`. -/
theorem frameStartChanges : Obligations.FrameStartChanges := by
  intro first s hw hr hl hs hc
  refine ⟨_, exec_startedAt hw hr, fun noneDue => ?_⟩
  intro epoch own queued cause reason awaits heard
  have B := agreedAt_beforeChanges noneDue
  obtain ⟨change, lightQueue, light, recs⟩ := startedAt_queue first s
  obtain ⟨-, live, peer⟩ := startedAt_core first s
  have bits := fun i => selfSilenced_keepsPending (first := first) (s := s) (i := i)
  have jobs : ∀ f d, (frameChanges (agreedAt first s)).agr.HoldsAt f d → (frameJobs (changedAt first s)).agr.HoldsAt f d :=
    fun _ _ => frameJobs_holdsAt
  generalize agreedAt first s = g at B change lightQueue light live peer bits jobs
  obtain ⟨ctl, link, state, line⟩ := B.after
  have gs : g.port.state ≠ .disabled := fun h => hs (B.port h)
  have gc : g.port.change = [] := B.change.trans hc
  obtain ⟨k, x, hq⟩ := queuedChanges_frame g
  obtain ⟨e, y, q, z, hv⟩ := selfSilenced_frame g
  have gown : g.own = own := B.own
  have lead : g.leadEpoch = epoch := by rw [State.leadEpoch, B.settings, ← line]
  have pending : ∀ i, g.agr.pendingState i = s.agr.pendingState i := fun i => by
    rw [Agreement.pendingState, Agreement.pendingState, B.epochs]
  have pendingAs : ∀ i b, g.agr.statePendingAs i b = s.agr.statePendingAs i b := fun i b => by
    rw [Agreement.statePendingAs, Agreement.statePendingAs, pending]
  have stands : g.port.changeStands g.own = false := by simp [Port.changeStands, gc]
  have lit : g.light.state = s.light.state ∧ g.light.filtered = s.light.filtered := by
    rw [B.light]
    exact ⟨rfl, rfl⟩
  have departs : departCause g = true ↔ cause := by
    simp [departCause, cause, link, lit.1]
  have first_ : ∀ m ∈ (announceStep g).port.change, m ∈ (startedAt first s).port.change := fun m hm => by
    rw [change, hq]
    exact List.mem_append_left _ hm
  have ownDark : ownChange false g = ⟨BitVec.ofNat 4 own, .change false reason (BitVec.ofNat 8 own) epoch 0⟩ := by
    rw [ownChange, lead, gown]
    simp [reason, link]
  have departure : mayAnnounce g = false → (mayWithdraw g || mayDepart g) = true →
      queued (.change false reason (BitVec.ofNat 8 own) epoch 0) := fun hn hd => by
    refine first_ _ ?_
    rw [announceStep_departs gs gc hn hd, ownDark]
    exact List.mem_singleton_self _
  refine ⟨by rw [ctl]; exact B.condition, fun hd => by rw [ctl]; exact B.dwell hd, ?_, ?_, ?_, ?_, ?_, ?_⟩
  · intro hcond aligned good lamp long active idle
    have may : mayAnnounce g = true := by
      have time : timeHeard g = true := by
        unfold timeHeard
        rw [B.condition, B.settings, ← ctl]
        split
        · exact decide_eq_true (long.1 ‹_›)
        · exact decide_eq_true (long.2 (hcond.resolve_left ‹_›))
      have idle : g.agr.statePending g.own = false := by rw [Agreement.statePending, pending, B.own]; exact idle
      have hcond : (g.ctl.condition == .joining || g.ctl.condition == .dark) = true := by simpa [B.condition] using hcond
      rw [ctl] at aligned
      rw [link] at good
      rw [state] at active
      simp [mayAnnounce, hcond, aligned, good, lit.1, lamp, time, active, stands, idle]
    have notLive : (selfSilenceStep (queuedChanges g)).ctl.condition ≠ .live := by
      rw [hv]
      show g.ctl.condition ≠ .live
      rw [B.condition]
      rcases hcond with h | h <;> rw [h] <;> decide
    have announced := announceStep_announces gs gc may
    refine ⟨first_ _ ?_, ?_⟩
    · rw [announced]
      refine List.mem_singleton.2 ?_
      rw [ownChange, lead, B.own, lit.2]
      rfl
    · rw [light, lightRequestStep_of_not_live notLive, hv]
      show (announceStep g).light.announced = _ ∧ (announceStep g).light.spacing = _
      rw [announced]
      exact ⟨lit.2, rfl⟩
  · intro hcond waits hcause
    rw [← pendingAs, ← gown] at waits
    have pends : g.agr.statePending g.own = true := by
      unfold Agreement.statePendingAs at waits
      unfold Agreement.statePending
      cases hp : g.agr.pendingState g.own with
      | none => rw [hp] at waits; exact absurd waits (by decide)
      | some c => rfl
    refine departure (by simp [mayAnnounce, pends]) ?_
    simp only [mayWithdraw, Bool.or_eq_true, Bool.and_eq_true, beq_iff_eq, B.condition]
    exact .inl ⟨⟨⟨hcond, waits⟩, departs.2 hcause⟩, by rw [stands]; rfl⟩
  · intro hlive hcause notYet
    rw [← pendingAs, ← gown] at notYet
    refine departure (by simp [mayAnnounce, B.condition, hlive]) ?_
    simp [mayDepart, B.condition, hlive, departs.2 hcause, notYet, gc]
  · intro hcond i hi ho member silent notYet others
    obtain ⟨placed, bit⟩ := queuedChanges_silent gs gc (by rw [B.condition]; exact hcond) hi (by rw [gown]; exact ho)
      (by rw [pendingAs, ← live]; exact member) (by rw [B.settings, ← peer]; exact silent) (by rw [pendingAs]; exact notYet)
      (fun j hj hji hjo => by rw [B.settings, ← peer]; exact others j hj hji (by rw [← gown]; exact hjo))
    rw [silenceChange, gown, lead, ← change] at placed
    exact ⟨placed, bits (faultNumber .peerSilent) ((selfSilenceStep_keepsCounts _).1.pending _ bit)⟩
  · intro hlive silent notYet member room
    obtain ⟨bit, held⟩ := frameChanges_selfSilent (s := g) (B.condition.trans hlive)
      (by rw [B.settings, ← ctl]; exact silent) (by rw [gown, pendingAs]; exact notYet)
      (by rw [gown, ← live]; exact member) (by rw [B.epochs]; exact room)
    rw [gown, lead, State.current, ← line] at held
    exact ⟨bits (faultNumber .selfSilent) bit, by rw [recs]; exact jobs _ _ held⟩
  · intro hlive drift spaced empty
    obtain ⟨placed, spacing⟩ := frameChanges_requests gs gc (B.condition.trans hlive)
      (by rw [B.light, B.settings]; exact drift) (by rw [B.light]; exact spaced) (B.lightQueue.trans empty)
    have asked : requestMessage g = ⟨BitVec.ofNat 4 own, .light epoch (BitVec.ofNat 16 s.light.filtered)⟩ := by
      rw [requestMessage, gown, lead, lit.2]
      rfl
    rw [lightQueue, light]
    exact ⟨by rw [placed, asked], spacing⟩

end Sys2Proof.Machine
end

section
/-!
PROOFS. A record that takes effect, seen from one station and from the solver (R44, R74).
-/
namespace Sys2Proof.Machine

/-! ## State changes, as one station sees them -/

/-- From `s` to `t` the membership and the record of station `i` stay, and with `i` the own station the controller. -/
structure Untouched (i : Nat) (s t : State) : Prop where
  length : t.agr.peers.length = s.agr.peers.length
  member : isMember t.agr.live i = isMember s.agr.live i
  peer : t.agr.peer i = s.agr.peer i
  ctl : i = s.own → t.ctl = s.ctl
  own : t.own = s.own

theorem Untouched.refl (i : Nat) (s : State) : Untouched i s s := ⟨rfl, rfl, rfl, fun _ => rfl, rfl⟩

theorem Untouched.trans {i : Nat} {s t u : State} (h : Untouched i s t) (g : Untouched i t u) : Untouched i s u :=
  ⟨g.length.trans h.length, g.member.trans h.member, g.peer.trans h.peer, fun e => (g.ctl (e.trans h.own.symm)).trans (h.ctl e), g.own.trans h.own⟩

theorem applyState_own (s : State) (c : StateChange) : (applyState s c).own = s.own := by
  unfold applyState
  dsimp only
  split <;> rfl

theorem length_applyState (u : State) (c : StateChange) : (applyState u c).agr.peers.length = u.agr.peers.length := by
  unfold applyState applyStateToPeers
  dsimp only
  split
  · rfl
  · show (match c.live, c.lam with | true, some lam => _ | _, _ => _ : List PeerRecord).length = _
    split
    · exact List.length_modify _ _ _
    · rfl

theorem moveCondition_other {own : Nat} {k : Controller} {c : StateChange} (h : c.subject ≠ own) : moveCondition own k c = k :=
  if_neg h

/-- A state change leaves every other station (R44). -/
theorem applyState_untouched {i : Nat} {c : StateChange} (h : c.subject ≠ i) (s : State) : Untouched i s (applyState s c) := by
  have live : isMember (setMember s.agr.live c.subject c.live) i = isMember s.agr.live i := by
    rw [isMember_setMember, if_neg fun hc => h hc.1.symm]
  have peer : ({ s.agr with live := setMember s.agr.live c.subject c.live, peers := applyStateToPeers s.agr.peers c } :
      Agreement).peer i = s.agr.peer i := by
    unfold applyStateToPeers
    split
    · exact (peer_modify (a := s.agr) rfl i).trans (if_neg fun hc => h hc.1.symm)
    · rfl
  refine ⟨length_applyState s c, ?_, ?_, fun e => ?_, applyState_own s c⟩
  all_goals unfold applyState; dsimp only; split
  · exact live
  · exact live
  · rfl
  · exact peer
  · rfl
  · exact moveCondition_other fun hc => h (hc.trans e.symm)

theorem foldl_applyState_untouched {i : Nat} {cs : List StateChange} (h : ∀ c ∈ cs, c.subject ≠ i) (s : State) :
    Untouched i s (cs.foldl applyState s) :=
  List.foldlRecOn (motive := fun t => Untouched i s t) cs applyState (.refl i s)
    fun t ht c hc => ht.trans (applyState_untouched (h c hc) t)

/-- Where the changes of a record are about stations all different, each acts on its own station as if alone. -/
theorem foldl_applyState_single {cs : List StateChange} (nd : (cs.map (fun c => c.subject)).Nodup) {c : StateChange}
    (hc : c ∈ cs) (s : State) :
    ∃ u, Untouched c.subject s u ∧ Untouched c.subject (applyState u c) (cs.foldl applyState s) := by
  obtain ⟨before, behind, rfl⟩ := List.append_of_mem hc
  rw [List.map_append, List.map_cons, List.nodup_append, List.nodup_cons] at nd
  obtain ⟨-, ⟨hbehind, -⟩, hbefore⟩ := nd
  refine ⟨before.foldl applyState s, foldl_applyState_untouched (fun d hd e => ?_) s, ?_⟩
  · exact hbefore d.subject (List.mem_map_of_mem hd) c.subject List.mem_cons_self e
  · rw [List.foldl_append, List.foldl_cons]
    exact foldl_applyState_untouched (fun d hd e => hbehind (by rw [← e]; exact List.mem_map_of_mem hd)) _

theorem applyState_member {c : StateChange} (h : c.subject < 12) (s : State) :
    isMember (applyState s c).agr.live c.subject = c.live := by
  have set : isMember (setMember s.agr.live c.subject c.live) c.subject = c.live := by
    rw [isMember_setMember, if_pos ⟨rfl, h⟩]
  unfold applyState
  dsimp only
  split <;> exact set

/-- A change that matches its subject's standing sets the membership again alone (R44). -/
theorem applyState_matches {c : StateChange} {s : State} (h : isMember s.agr.live c.subject = c.live) :
    applyState s c = s.withAgr { s.agr with live := setMember s.agr.live c.subject c.live } := if_pos h

theorem applyState_takes {c : StateChange} {s : State} (h : isMember s.agr.live c.subject ≠ c.live) :
    (applyState s c).agr.peers = applyStateToPeers s.agr.peers c ∧ (applyState s c).ctl = moveCondition s.own s.ctl c := by
  rw [applyState, if_neg h]
  exact ⟨rfl, rfl⟩

/-- The factor of the subject of a LIVE change that was no member (R44, R48). -/
theorem applyState_factor {c : StateChange} {s : State} {lam : Nat} (h : isMember s.agr.live c.subject = false)
    (hl : c.live = true) (hlam : c.lam = some lam) (hn : c.subject < s.agr.peers.length) :
    ((applyState s c).agr.peer c.subject).factor = some ⟨lam, .epoch⟩ := by
  have peers : (applyState s c).agr.peers = s.agr.peers.modify c.subject (fun r => { r with factor := some ⟨lam, .epoch⟩ }) := by
    rw [(applyState_takes (by rw [h, hl]; decide)).1, applyStateToPeers, hl, hlam]
  rw [peer_modify peers, if_pos ⟨rfl, hn⟩]

/-! ## Light changes, as one station sees them -/

theorem applyLightToPeers_peer (a : Agreement) (l : LightChange) (i : Nat) :
    ({ a with peers := applyLightToPeers a.peers l } : Agreement).peer i =
      if i = l.station ∧ i < a.peers.length then { a.peer i with factor := some ⟨l.lam, .epoch⟩ } else a.peer i :=
  peer_modify (a := a) (f := fun r => { r with factor := some ⟨l.lam, .epoch⟩ }) rfl i

theorem length_foldl_applyLight (ls : List LightChange) (ps : List PeerRecord) :
    (ls.foldl applyLightToPeers ps).length = ps.length :=
  List.foldlRecOn (motive := fun qs => qs.length = ps.length) ls applyLightToPeers rfl fun qs h l _ => by
    rw [applyLightToPeers, List.length_modify, h]

theorem foldl_applyLight_other {ls : List LightChange} {i : Nat} (h : ∀ l ∈ ls, l.station ≠ i) (a : Agreement) :
    ({ a with peers := ls.foldl applyLightToPeers a.peers } : Agreement).peer i = a.peer i :=
  List.foldlRecOn (motive := fun qs => ({ a with peers := qs } : Agreement).peer i = a.peer i) ls applyLightToPeers rfl
    fun qs hq l hl => by
      have step := applyLightToPeers_peer { a with peers := qs } l i
      rw [if_neg fun hc => h l hl hc.1.symm] at step
      exact step.trans hq

/-- Where the light changes of a record are about stations all different, each sets its station's factor (R44, R48). -/
theorem foldl_applyLight_factor {ls : List LightChange} (nd : (ls.map (fun l => l.station)).Nodup) {l : LightChange}
    (hl : l ∈ ls) {a : Agreement} (hn : l.station < a.peers.length) :
    (({ a with peers := ls.foldl applyLightToPeers a.peers } : Agreement).peer l.station).factor = some ⟨l.lam, .epoch⟩ := by
  obtain ⟨before, behind, rfl⟩ := List.append_of_mem hl
  rw [List.map_append, List.map_cons, List.nodup_append, List.nodup_cons] at nd
  obtain ⟨-, ⟨hbehind, -⟩, -⟩ := nd
  let b : Agreement := { a with peers := applyLightToPeers (before.foldl applyLightToPeers a.peers) l }
  have rest := foldl_applyLight_other (ls := behind) (i := l.station)
    (fun d hd e => hbehind (by rw [← e]; exact List.mem_map_of_mem hd)) b
  have set := applyLightToPeers_peer { a with peers := before.foldl applyLightToPeers a.peers } l l.station
  rw [if_pos ⟨rfl, by rw [length_foldl_applyLight]; exact hn⟩] at set
  have split : ({ a with peers := (before ++ l :: behind).foldl applyLightToPeers a.peers } : Agreement) =
      { b with peers := behind.foldl applyLightToPeers b.peers } := by
    rw [List.foldl_append, List.foldl_cons]
  rw [split, rest]
  exact congrArg PeerRecord.factor set

/-! ## The solver -/

theorem swap_active (x : Solver) : x.swap.active = { x.spare with status := .active } := by
  unfold Solver.swap
  split
  · rename_i h
    have one : x.bank0.status = .active := by simpa [Solver.spareIsOne] using h
    simp [Solver.active, Solver.spare, Solver.spareIsOne, one]
  · rename_i h
    have other : x.bank0.status ≠ .active := by simpa [Solver.spareIsOne] using h
    simp [Solver.active, Solver.spare, Solver.spareIsOne, other]

theorem setSpare_lateSwap (x : Solver) (b : Bank) : (x.setSpare b).lateSwap = x.lateSwap := by
  unfold Solver.setSpare
  split <;> rfl

/-- From `x` to `y` the ACTIVE bank stays, and no late swap is held that was not. -/
def Solver.KeepsActive (x y : Solver) : Prop := y.active = x.active ∧ (x.lateSwap = none → y.lateSwap = none)

theorem Solver.KeepsActive.trans {x y z : Solver} (h : x.KeepsActive y) (g : y.KeepsActive z) : x.KeepsActive z :=
  ⟨g.1.trans h.1, g.2 ∘ h.2⟩

theorem abandon_keepsActive (x : Solver) (n : FrameNo) : x.KeepsActive (x.abandon n) := by
  have held : x.lateSwap = none → (if x.lateSwap = some n then none else x.lateSwap) = none := fun h => by
    rw [h]
    rfl
  unfold Solver.abandon
  dsimp only
  split
  · exact ⟨(spare_setSpare _ (by simp [emptied])).2.trans (spare_of_banks rfl rfl).2,
      fun h => (setSpare_lateSwap _ _).trans (held h)⟩
  · exact ⟨(spare_of_banks rfl rfl).2, held⟩

theorem queueCoeff_keepsActive (x : Solver) (j : Job) : x.KeepsActive (x.queueCoeff j) := by
  unfold Solver.queueCoeff
  split
  · exact ⟨(spare_of_banks rfl rfl).2, id⟩
  · split
    · exact ⟨rfl, id⟩
    · exact (abandon_keepsActive x _).trans ⟨(spare_of_banks rfl rfl).2, id⟩

theorem startPass_swaps (j : Job) (s : State) :
    (startPass j s).sol.active = s.sol.active ∧ (startPass j s).sol.lateSwap = s.sol.lateSwap := by
  unfold startPass
  dsimp only
  split
  · exact ⟨(spare_setSpare _ (by simp)).2.trans (spare_of_banks rfl rfl).2, setSpare_lateSwap _ _⟩
  · exact ⟨(spare_of_banks rfl rfl).2, rfl⟩

/-- The solver's choices leave the ACTIVE bank and the late swap held (R66, R71). -/
theorem chooseJobs_swaps (n : Nat) (s : State) :
    (chooseJobs n s).sol.active = s.sol.active ∧ (chooseJobs n s).sol.lateSwap = s.sol.lateSwap := by
  induction n generalizing s with
  | zero => exact ⟨rfl, rfl⟩
  | succ n ih =>
    unfold chooseJobs
    split
    · exact ⟨rfl, rfl⟩
    · split
      · exact ⟨rfl, rfl⟩
      · rename_i j _
        obtain ⟨active, late⟩ := startPass_swaps j s
        dsimp only
        split
        · obtain ⟨active', late'⟩ := ih (completeBounds (makePass s.agr j) (startPass j s))
          rw [completeBounds_sol] at active' late'
          exact ⟨(active'.trans (spare_of_banks rfl rfl).2).trans active, late'.trans late⟩
        · exact ⟨active, late⟩

theorem startJobs_swaps (s : State) :
    (startJobs s).sol.active = s.sol.active ∧ (startJobs s).sol.lateSwap = s.sol.lateSwap := chooseJobs_swaps _ s

/-- The jobs of a frame start leave the ACTIVE bank, and hold no late swap (R52, R53, R66). -/
theorem frameJobs_keepsActive (s : State) : s.sol.KeepsActive (frameJobs s).sol := by
  have queued : s.sol.KeepsActive (queueBoundsJobs s).sol := ⟨(spare_of_banks rfl rfl).2, id⟩
  have cut : s.sol.KeepsActive (cutStep (queueBoundsJobs s)).sol :=
    List.foldlRecOn (motive := fun t => s.sol.KeepsActive t.sol) _ cutRecord queued fun t ht r _ => by
      rw [cutRecord_sol]
      exact ht.trans (queueCoeff_keepsActive _ _)
  obtain ⟨active, late⟩ := startJobs_swaps (cutStep (queueBoundsJobs s))
  exact cut.trans ⟨active, fun h => late.trans h⟩

/-- With no record pending nothing is queued or cut, and a late swap that is held stays. -/
theorem frameJobs_lateSwap_of_none {s : State} (h : s.agr.epochs = []) : (frameJobs s).sol.lateSwap = s.sol.lateSwap := by
  have cut : cutStep (queueBoundsJobs s) = queueBoundsJobs s := by
    unfold cutStep
    rw [show (queueBoundsJobs s).agr.epochs = [] by show s.agr.epochs.map _ = []; rw [h]; rfl]
    rfl
  rw [frameJobs, cut]
  exact (startJobs_swaps _).2

/-- The records of `b` have the frames of those of `a`, in order. -/
def Agreement.SameFrames (a b : Agreement) : Prop := b.epochs.map (fun x => x.frame) = a.epochs.map (fun x => x.frame)

theorem Agreement.SameFrames.map {a b c : Agreement} (h : a.SameFrames b) {g : EpochRecord → EpochRecord}
    (hc : c.epochs = b.epochs.map g) (hg : ∀ r, (g r).frame = r.frame) : a.SameFrames c := by
  unfold SameFrames at h ⊢
  rw [hc, List.map_map, ← h]
  exact List.map_congr_left fun r _ => hg r

theorem Agreement.SameFrames.onRecord {a b : Agreement} (h : a.SameFrames b) (n : FrameNo) {g : EpochRecord → EpochRecord}
    (hg : ∀ r, (g r).frame = r.frame) : a.SameFrames (b.onRecord n g) := by
  refine h.map rfl fun r => ?_
  split
  · exact hg r
  · rfl

/-- The jobs of a frame start leave the frames of the records. -/
theorem frameJobs_sameFrames (s : State) : s.agr.SameFrames (frameJobs s).agr := by
  have queued : s.agr.SameFrames (queueBoundsJobs s).agr := by
    refine Agreement.SameFrames.map (b := s.agr) rfl rfl fun r => ?_
    split <;> rfl
  refine startJobs_agr (P := s.agr.SameFrames) (fun a n ha => ?_) ?_
  · unfold Agreement.boundedAt
    split
    · split
      · exact ha.onRecord n fun _ => rfl
      · exact ha
    · exact ha
  · refine List.foldlRecOn (motive := fun t => s.agr.SameFrames t.agr) _ cutRecord queued fun t ht r _ => ?_
    rw [cutRecord_agr]
    exact ht.onRecord r.frame fun _ => rfl

/-! ## A record that takes effect -/

section
variable (s : State) (r : EpochRecord)

/-- A record acts on the agreement unit and the controller by its state changes, then its light changes and levels (R44). -/
theorem applyRecord_parts : (applyRecord s r).agr = (applyLights r (r.states.foldl applyState s)).agr ∧
    (applyRecord s r).ctl = (r.states.foldl applyState s).ctl := by
  obtain ⟨y, x, h⟩ := answerSwap_frame r (applyLights r (r.states.foldl applyState s))
  unfold applyRecord
  rw [h]
  exact ⟨rfl, rfl⟩

theorem applyLights_sol : (applyLights r (r.states.foldl applyState s)).sol = s.sol := by
  obtain ⟨ps, k, h⟩ := foldl_applyState_frame r.states s
  rw [h]
  rfl

/-- The swap of a record whose bank is ready (R74). -/
theorem applyRecord_swaps (h : r.phase = .banked ∧ s.sol.readyFor r.frame = true) :
    (applyRecord s r).sol.active = { s.sol.spare with status := .active } := by
  have swapped : (answerSwap r (applyLights r (r.states.foldl applyState s))).sol = s.sol.swap := by
    rw [answerSwap, if_pos (by rw [applyLights_sol]; exact h), State.withSol_sol, applyLights_sol]
  have active : (applyRecord s r).sol.active = (answerSwap r (applyLights r (r.states.foldl applyState s))).sol.active :=
    (spare_of_banks rfl rfl).2
  rw [active, swapped, swap_active]

/-- A record whose bank is not ready: the ACTIVE bank stays, LATE_BANK is reported, and the swap is held while the job of a CUT
record waits (R74). -/
theorem applyRecord_late (h : ¬(r.phase = .banked ∧ s.sol.readyFor r.frame = true)) :
    (applyRecord s r).sol.active = s.sol.active ∧
      (applyRecord s r).faults.pending.getLsbD (faultNumber .lateBank) = true ∧
      (r.phase = .cut → s.sol.coeffWaiting r.frame = true → (applyRecord s r).sol.lateSwap = some r.frame) := by
  let u := applyLights r (r.states.foldl applyState s)
  have sol : u.sol = s.sol := applyLights_sol s r
  have step : answerSwap r u = if r.phase = .cut ∧ u.sol.coeffWaiting r.frame = true then
      report .solver .lateBank (r.frame.setWidth 16).toNat (u.withSol { u.sol with lateSwap := some r.frame })
      else report .solver .lateBank (r.frame.setWidth 16).toNat u := if_neg (by rw [sol]; exact h)
  have active : (answerSwap r u).sol.active = s.sol.active := by
    rw [step, ← sol]
    split
    · exact (spare_of_banks rfl rfl).2
    · rfl
  have late : (answerSwap r u).faults.pending.getLsbD (faultNumber .lateBank) = true := by
    rw [step]
    split <;> exact report_pendingBit _ _ _ _
  refine ⟨((spare_of_banks rfl rfl).2 : (applyRecord s r).sol.active = (answerSwap r u).sol.active).trans active, late,
    fun hp hw => ?_⟩
  show (answerSwap r u).sol.lateSwap = _
  rw [step, if_pos ⟨hp, by rw [sol]; exact hw⟩]
  rfl

end

/-- One record due is applied as the list without it stands (R44). -/
theorem applyDue_single {old : FrameNo} {s : State} {r : EpochRecord} (h : s.agr.epochs.filter (isDue old s.current) = [r]) :
    applyDue old s = applyRecord (s.withAgr { s.agr with epochs := s.agr.epochs.filter (fun x => !isDue old s.current x) }) r := by
  unfold applyDue
  dsimp only
  rw [h]
  rfl

end Sys2Proof.Machine
end

section
/-!
PROOFS. A frame start with one record due (O26).
-/
namespace Sys2Proof.Machine

/-! ## What follows the agreement part, below the self-silence timeout -/

/-- What the state `t` has of the state `g` before the changes of a frame start, with no self-silence entered. -/
structure KeepsRecords (g t : State) : Prop where
  frames : g.agr.SameFrames t.agr
  levels : t.agr.levels = g.agr.levels
  banks : g.sol.KeepsActive t.sol
  lateSwap : g.agr.epochs = [] → t.sol.lateSwap = g.sol.lateSwap

/-- Below the self-silence timeout, what follows the agreement part leaves the frames of the records, the levels and the ACTIVE bank, and
holds no late swap that was not held. -/
theorem startedAt_below {first : Stamp} {s : State} (hs : s.ctl.selfSilence + 1 < s.settings.silenceTimeout) :
    KeepsRecords (agreedAt first s) (startedAt first s) := by
  obtain ⟨st, x, hc⟩ := countedAt_frame first s
  obtain ⟨-, cond, d, hk⟩ := frameAgreement_counts (s.ctl.condition == .joining) s.line.frameNo (countedAt first s)
  obtain ⟨a, y, k, x', hg⟩ := frameAgreement_frame (s.ctl.condition == .joining) s.line.frameNo (countedAt first s)
  have below : (agreedAt first s).ctl.selfSilence < (agreedAt first s).settings.silenceTimeout := by
    have silence : (agreedAt first s).ctl.selfSilence = satInc 65535 s.ctl.selfSilence := by
      rw [show (agreedAt first s).ctl = _ from hk, hc]
    have settings : (agreedAt first s).settings = s.settings := by rw [show agreedAt first s = _ from hg, hc]
    rw [silence, settings]
    unfold satInc
    split <;> omega
  obtain ⟨u, ⟨p, w, z, hu⟩, agr, sol⟩ := frameChanges_core (agreedAt first s)
  have still : selfSilenceStep u = u := selfSilenceStep_below (by rw [hu]; exact below)
  rw [still, hu] at agr sol
  have agr : (changedAt first s).agr = (agreedAt first s).agr := agr
  have sol : (changedAt first s).sol = (agreedAt first s).sol := sol
  obtain ⟨tAgr, tSol, -, -⟩ := afterJobs (frameJobs (changedAt first s))
  have tAgr : (startedAt first s).agr = (frameJobs (changedAt first s)).agr := tAgr
  have tSol : (startedAt first s).sol = (frameJobs (changedAt first s)).sol := tSol
  obtain ⟨e, y', x'', hj⟩ := frameJobs_quiet (changedAt first s)
  constructor
  · rw [tAgr, ← agr]
    exact frameJobs_sameFrames _
  · rw [tAgr, ← agr, hj]
  · rw [tSol, ← sol]
    exact frameJobs_keepsActive _
  · rw [tSol, ← agr, ← sol]
    exact frameJobs_lateSwap_of_none

/-! ## The agreement part with no repair due -/

section
variable {joining : Bool} {old : FrameNo} {s : State}

/-- With every repair count below 2 in LIVE or DARK no membership is repaired (R46). -/
theorem repairedView_of_none (h : joining = false → ∀ i, (s.agr.peer i).repair < 2) :
    repairedView joining old s = appliedDue joining old s := by
  have none : (if joining then [] else repairDue s) = [] := by
    cases hj : joining with
    | true => rfl
    | false =>
      refine List.eq_nil_iff_forall_not_mem.2 fun i hi => ?_
      obtain ⟨-, -, two, -⟩ := mem_repairDue.1 hi
      exact absurd two (not_le.2 (h hj i))
  rw [repairedView, none]
  rfl

theorem appliedDue_own : (appliedDue joining old s).own = s.own := by
  obtain ⟨y, hy⟩ := lateSwapStep_frame (viewStep joining old s)
  obtain ⟨a, z, k, x, h⟩ := applyDue_frame old (lateSwapStep (viewStep joining old s))
  rw [State.own, appliedDue, h, hy]
  cases joining <;> rfl

theorem sourceToLevels_member {v : StationSet} {i : Nat} (h : isMember v i = true) (r : PeerRecord) :
    sourceToLevels v i r = r := by
  unfold sourceToLevels
  split
  · rw [if_neg]
    rintro ⟨-, out⟩
    rw [h] at out
    exact absurd out (by decide)
  · rfl

theorem sourceToLevels_epoch (v : StationSet) (i : Nat) {r : PeerRecord} {lam : Nat} (h : r.factor = some ⟨lam, .epoch⟩) :
    (sourceToLevels v i r).factor = some ⟨lam, if isMember v i = true then .epoch else .levels⟩ := by
  unfold sourceToLevels
  rw [h]
  dsimp only
  cases hm : isMember v i with
  | true => simp [h]
  | false => simp

/-- The peer records once the sources are set: in LIVE or DARK each peer's by the view (R48). -/
theorem frameAgreement_sourced (h : joining = false → ∀ i, (s.agr.peer i).repair < 2) {i : Nat}
    (hi : i < (appliedDue joining old s).agr.peers.length) : (frameAgreement joining old s).agr.peer i =
      if joining = true ∨ i = s.own then (appliedDue joining old s).agr.peer i
      else sourceToLevels (appliedDue joining old s).agr.live i ((appliedDue joining old s).agr.peer i) := by
  have sourced : (frameAgreement joining old s).agr.peer i = (sourcedView joining old s).agr.peer i := by
    rw [Agreement.peer, frameAgreement_shown.2]
    rfl
  rw [sourced, sourcedView, repairedView_of_none h]
  cases joining with
  | true => rfl
  | false =>
    have table := peer_mapIdx (a := (appliedDue false old s).agr) (b := (lightSourceStep (appliedDue false old s)).agr) rfl hi
    rw [appliedDue_own] at table
    simpa using table

end

/-! ## The state on which a record due acts -/

/-- The state on which a record due acts: the view rebuilt or compared, a held swap made, and the list without the records due. -/
def beforeRecord (joining : Bool) (old : FrameNo) (s : State) : State :=
  let v := lateSwapStep (viewStep joining old s)
  v.withAgr { v.agr with epochs := v.agr.epochs.filter (fun x => !isDue old v.current x) }

section
variable {joining : Bool} {old : FrameNo} {s : State}

theorem viewStep_frame : ∃ v ps, viewStep joining old s = s.withAgr { s.agr with live := v, peers := ps } := by
  cases joining <;> exact ⟨_, _, rfl⟩

/-- The view and the late swap change the live view, the peer table and the solver alone (R45, R46, R75). -/
theorem beforeRecord_frame : ∃ y, beforeRecord joining old s = { s with
    agr := { (viewStep joining old s).agr with epochs := s.agr.epochs.filter (fun x => !isDue old s.current x) }
    sol := y } := by
  obtain ⟨y, hy⟩ := lateSwapStep_frame (viewStep joining old s)
  obtain ⟨v, ps, hv⟩ := viewStep_frame (joining := joining) (old := old) (s := s)
  refine ⟨y, ?_⟩
  rw [beforeRecord, hy, hv]
  rfl

theorem beforeRecord_core : (beforeRecord joining old s).ctl = s.ctl ∧ (beforeRecord joining old s).own = s.own ∧
    (beforeRecord joining old s).agr.levels = s.agr.levels ∧
    (beforeRecord joining old s).agr.epochs = s.agr.epochs.filter (fun x => !isDue old s.current x) ∧
    (beforeRecord joining old s).agr.live = (viewStep joining old s).agr.live ∧
    (beforeRecord joining old s).agr.peers = (viewStep joining old s).agr.peers := by
  obtain ⟨y, h⟩ := beforeRecord_frame (joining := joining) (old := old) (s := s)
  obtain ⟨v, ps, hv⟩ := viewStep_frame (joining := joining) (old := old) (s := s)
  rw [State.own, h, hv]
  exact ⟨rfl, rfl, rfl, rfl, rfl, rfl⟩

theorem beforeRecord_sol (h : s.sol.lateSwap = none) : (beforeRecord joining old s).sol = s.sol := by
  obtain ⟨v, ps, hv⟩ := viewStep_frame (joining := joining) (old := old) (s := s)
  have sol : (viewStep joining old s).sol = s.sol := by rw [hv]; rfl
  show (lateSwapStep (viewStep joining old s)).sol = _
  rw [lateSwapStep, sol, h]
  exact sol

/-- The view leaves every light factor. -/
theorem viewStep_factor (i : Nat) : ((viewStep joining old s).agr.peer i).factor = (s.agr.peer i).factor := by
  cases joining with
  | true => rfl
  | false =>
    obtain hi | hi := Nat.lt_or_ge i s.agr.peers.length
    · rw [peer_mapIdx (a := s.agr) (b := (viewStep false old s).agr) rfl hi]
      split <;> rfl
    · rw [peer_default hi, peer_default (by simpa [viewStep, repairCompare, Agreement.onPeers] using hi)]

theorem viewStep_rebuilt (old : FrameNo) (s : State) : (viewStep true old s).agr.live = rebuiltView s := rfl

theorem viewStep_compared (old : FrameNo) (s : State) : (viewStep false old s).agr.live = s.agr.live := rfl

theorem viewStep_length : (viewStep joining old s).agr.peers.length = s.agr.peers.length := by
  cases joining
  · simp [viewStep, repairCompare, Agreement.onPeers]
  · rfl

/-- With one record due, it acts on that state (R44). -/
theorem appliedDue_single {r : EpochRecord} (h : s.agr.epochs.filter (isDue old s.current) = [r]) :
    appliedDue joining old s = applyRecord (beforeRecord joining old s) r := by
  obtain ⟨y, hy⟩ := lateSwapStep_frame (viewStep joining old s)
  obtain ⟨v, ps, hv⟩ := viewStep_frame (joining := joining) (old := old) (s := s)
  refine applyDue_single ?_
  rw [hy, hv]
  exact h

end

/-! ## The record due, at a station's frame start -/

/-- The state on which the record due at a frame start acts. -/
def recordBase (first : Stamp) (s : State) : State :=
  beforeRecord (s.ctl.condition == .joining) s.line.frameNo (countedAt first s)

/-- What the state `b` on which the record due acts has of the counted state and of the state `s` before the frame start. -/
structure RecordBase (first : Stamp) (s b : State) : Prop where
  ctl : b.ctl = (countedAt first s).ctl
  own : b.own = s.own
  levels : b.agr.levels = s.agr.levels
  epochs : b.agr.epochs = s.agr.epochs.filter (fun x => !isDue s.line.frameNo (startedAt first s).line.frameNo x)
  length : b.agr.peers.length = s.agr.peers.length

section
variable {first : Stamp} {s : State}

theorem recordBase_core : RecordBase first s (recordBase first s) := by
  obtain ⟨ctl, own, levels, epochs, -, peers⟩ :=
    beforeRecord_core (joining := s.ctl.condition == .joining) (old := s.line.frameNo) (s := countedAt first s)
  obtain ⟨-, cEpochs, cLevels, -, -, cOwn, -⟩ := countedAt_core first s
  refine ⟨ctl, own.trans cOwn, levels.trans cLevels, ?_, ?_⟩
  · rw [recordBase, epochs, cEpochs, (startedAt_core first s).frameNo]
  · rw [recordBase, peers, viewStep_length, countedAt_length]

theorem recordBase_sol (h : s.sol.lateSwap = none) : (recordBase first s).sol = s.sol := by
  have sol := (countedAt_core first s).sol
  exact (beforeRecord_sol (by rw [sol]; exact h)).trans sol

theorem recordBase_factor (i : Nat) : ((recordBase first s).agr.peer i).factor = (s.agr.peer i).factor := by
  obtain ⟨n, hn⟩ := countedAt_peer first s i
  obtain ⟨-, -, -, -, -, peers⟩ := beforeRecord_core (joining := s.ctl.condition == .joining) (old := s.line.frameNo)
    (s := countedAt first s)
  have same : (recordBase first s).agr.peer i =
      (viewStep (s.ctl.condition == .joining) s.line.frameNo (countedAt first s)).agr.peer i := by
    rw [recordBase, Agreement.peer, peers]
    rfl
  rw [same, viewStep_factor, hn]

/-- The view on which a record due acts: in JOINING the rebuilt one, and otherwise the one before (R45). -/
theorem recordBase_member (i : Nat) : isMember (recordBase first s).agr.live i = true ↔
    if s.ctl.condition = .joining then i < 12 ∧ i ≠ s.own ∧
      ((startedAt first s).agr.peer i).silence < s.settings.silenceTimeout ∧
        ∃ p, (s.agr.peer i).pulse = some p ∧ p.condition = .live
    else isMember s.agr.live i = true := by
  obtain ⟨cLive, -, -, -, cSettings, cOwn, -⟩ := countedAt_core first s
  obtain ⟨-, -, -, -, live, -⟩ :=
    beforeRecord_core (joining := s.ctl.condition == .joining) (old := s.line.frameNo) (s := countedAt first s)
  rw [recordBase, live]
  by_cases hj : s.ctl.condition = .joining
  · have silence : ((startedAt first s).agr.peer i).silence = ((countedAt first s).agr.peer i).silence := by
      rw [(startedAt_core first s).peer]
      exact ((frameAgreement_counts _ _ _).1 i).silence
    obtain ⟨n, hn⟩ := countedAt_peer first s i
    rw [if_pos hj, show (s.ctl.condition == .joining) = true from beq_iff_eq.2 hj]
    rw [viewStep_rebuilt, mem_rebuiltView, silence, cSettings, cOwn, hn]
  · rw [if_neg hj, show (s.ctl.condition == .joining) = false from beq_eq_false_iff_ne.2 hj, viewStep_compared, cLive]

end

end Sys2Proof.Machine
end

section
/-!
PROOFS. The obligation on the record due at a frame start (O26).
-/
namespace Sys2Proof.Machine

section
variable {first : Stamp} {s : State} {r : EpochRecord}

/-- The station once the state changes of the record due have taken effect (R44). -/
def recordStates (first : Stamp) (s : State) (r : EpochRecord) : State := r.states.foldl applyState (recordBase first s)

/-- The agreement unit once the light changes of the record due have taken effect too (R44). -/
def recordLights (first : Stamp) (s : State) (r : EpochRecord) : Agreement :=
  { (recordStates first s r).agr with peers := r.lights.foldl applyLightToPeers (recordStates first s r).agr.peers }

theorem recordStates_frame : (recordStates first s r).own = s.own ∧ (recordStates first s r).agr.levels = s.agr.levels ∧
    (recordStates first s r).agr.epochs = (recordBase first s).agr.epochs := by
  obtain ⟨-, own, levels, -, -⟩ := recordBase_core (first := first) (s := s)
  obtain ⟨ps, k, h⟩ := foldl_applyState_frame r.states (recordBase first s)
  rw [State.own, recordStates, h]
  exact ⟨own, levels, rfl⟩

theorem recordLights_length (hl : s.agr.peers.length = 12) : (recordLights first s r).peers.length = 12 := by
  have states : (recordStates first s r).agr.peers.length = 12 :=
    List.foldlRecOn (motive := fun u => u.agr.peers.length = 12) r.states applyState
      (recordBase_core.length.trans hl) fun u hu c _ => (length_applyState u c).trans hu
  exact (length_foldl_applyLight _ _).trans states

/-- What is reported up to the records due stands in the pending set after the agreement part. -/
theorem appliedDue_keepsCounts (joining : Bool) (old : FrameNo) (u : State) :
    KeepsCounts (appliedDue joining old u) (frameAgreement joining old u) := by
  have repaired : KeepsCounts (appliedDue joining old u) (repairedView joining old u) := .foldl repairPeer_keepsCounts _ _
  have sourced : KeepsCounts (repairedView joining old u) (sourcedView joining old u) :=
    .ite (fun _ => .refl _) (fun _ => lightSourceStep_keepsCounts _)
  rw [frameAgreement_eq]
  exact ((repaired.trans sourced).trans (dwellStep_keepsCounts _)).trans (showStep_keepsCounts _ _)

theorem countedAt_repair (hrep : s.ctl.condition ≠ .joining → ∀ i, (s.agr.peer i).repair < 2) :
    (s.ctl.condition == .joining) = false → ∀ i, ((countedAt first s).agr.peer i).repair < 2 := by
  intro hj i
  obtain ⟨n, hn⟩ := countedAt_peer first s i
  rw [hn]
  exact hrep (beq_eq_false_iff_ne.1 hj) i

section
variable (hrep : s.ctl.condition ≠ .joining → ∀ i, (s.agr.peer i).repair < 2)
  (h : s.agr.epochs.filter (isDue s.line.frameNo (startedAt first s).line.frameNo) = [r])
include h

theorem appliedDue_record : appliedDue (s.ctl.condition == .joining) s.line.frameNo (countedAt first s) =
    applyRecord (recordBase first s) r := by
  refine appliedDue_single ?_
  rw [(countedAt_core first s).epochs, ← (startedAt_core first s).frameNo]
  exact h

/-- The records and the levels before the changes of a frame start with one record due (R44). -/
theorem agreedAt_record : (agreedAt first s).agr.epochs =
      s.agr.epochs.filter (fun x => !isDue s.line.frameNo (startedAt first s).line.frameNo x) ∧
    (agreedAt first s).agr.levels = r.levels.getD s.agr.levels := by
  obtain ⟨epochs, levels, -⟩ := frameAgreement_behind (joining := s.ctl.condition == .joining) (old := s.line.frameNo)
    (s := countedAt first s)
  obtain ⟨-, kept, listed⟩ := recordStates_frame (first := first) (s := s) (r := r)
  rw [appliedDue_record h, (applyRecord_parts _ r).1] at epochs levels
  refine ⟨epochs.trans (listed.trans recordBase_core.epochs), levels.trans ?_⟩
  exact congrArg r.levels.getD kept

/-- The controller at a frame start with one record due (R29, R30, R44). -/
theorem startedAt_ctl : (startedAt first s).ctl = (recordStates first s r).ctl.dwellNow := by
  obtain ⟨e, y, l, q, w, x, st, px, ht⟩ := startedAt_frame first s
  obtain ⟨-, -, ctl⟩ := frameAgreement_behind (joining := s.ctl.condition == .joining) (old := s.line.frameNo)
    (s := countedAt first s)
  rw [appliedDue_record h, (applyRecord_parts _ r).2] at ctl
  rw [ht]
  exact ctl

include hrep

/-- The live view at a frame start with one record due (R44). -/
theorem startedAt_live : (startedAt first s).agr.live = (recordStates first s r).agr.live := by
  rw [(startedAt_core first s).live, agreedAt, frameAgreement_shown.1, repairedView_of_none (countedAt_repair hrep),
    appliedDue_record h, (applyRecord_parts _ r).1]
  rfl

/-- The peer records at a frame start with one record due (R44, R48). -/
theorem startedAt_peer (hl : s.agr.peers.length = 12) {i : Nat} (hi : i < 12) : (startedAt first s).agr.peer i =
    if s.ctl.condition = .joining ∨ i = s.own then (recordLights first s r).peer i
    else sourceToLevels (startedAt first s).agr.live i ((recordLights first s r).peer i) := by
  have lights : (appliedDue (s.ctl.condition == .joining) s.line.frameNo (countedAt first s)).agr =
      (applyLights r (recordStates first s r)).agr := by
    rw [appliedDue_record h, (applyRecord_parts _ r).1]
    rfl
  have peer : (appliedDue (s.ctl.condition == .joining) s.line.frameNo (countedAt first s)).agr.peer i =
      (recordLights first s r).peer i := by
    rw [lights]
    rfl
  have live : (appliedDue (s.ctl.condition == .joining) s.line.frameNo (countedAt first s)).agr.live =
      (startedAt first s).agr.live := by
    rw [lights, startedAt_live hrep h]
    rfl
  have len : i < (appliedDue (s.ctl.condition == .joining) s.line.frameNo (countedAt first s)).agr.peers.length := by
    rw [lights]
    exact lt_of_lt_of_eq hi (recordLights_length (first := first) (r := r) hl).symm
  rw [(startedAt_core first s).peer, agreedAt, frameAgreement_sourced (countedAt_repair hrep) len, peer, live,
    (countedAt_core first s).own]
  simp only [beq_iff_eq]

end

/-! ## The factors -/

section
variable (hrep : s.ctl.condition ≠ .joining → ∀ i, (s.agr.peer i).repair < 2)
  (h : s.agr.epochs.filter (isDue s.line.frameNo (startedAt first s).line.frameNo) = [r]) (hl : s.agr.peers.length = 12)
include hrep h hl

/-- A light change of the record due sets its station's factor, with source LEVELS for a peer that is then no member of a LIVE or DARK
station's view (R44, R48). -/
theorem startedAt_lightFactor (nd : (r.lights.map (fun c => c.station)).Nodup) {c : LightChange} (hc : c ∈ r.lights)
    (h12 : c.station < 12) : ((startedAt first s).agr.peer c.station).factor = some ⟨c.lam,
      if c.station = s.own ∨ s.ctl.condition = .joining ∨ isMember (startedAt first s).agr.live c.station = true then .epoch
      else .levels⟩ := by
  have len := recordLights_length (first := first) (r := r) hl
  have set : ((recordLights first s r).peer c.station).factor = some ⟨c.lam, .epoch⟩ := by
    refine foldl_applyLight_factor nd hc ?_
    rw [recordLights, length_foldl_applyLight] at len
    omega
  rw [startedAt_peer hrep h hl h12]
  by_cases fixed : s.ctl.condition = .joining ∨ c.station = s.own
  · rw [if_pos fixed, set, if_pos (by tauto)]
  · rw [if_neg fixed, sourceToLevels_epoch _ _ set]
    have same : (c.station = s.own ∨ s.ctl.condition = .joining ∨ isMember (startedAt first s).agr.live c.station = true) ↔
        isMember (startedAt first s).agr.live c.station = true := by tauto
    simp only [same]

/-- The factor of a member of the view is as the record due leaves it (R48). -/
theorem startedAt_memberFactor {i : Nat} (hi : i < 12) (hm : isMember (startedAt first s).agr.live i = true)
    (hn : ∀ c ∈ r.lights, c.station ≠ i) : ((startedAt first s).agr.peer i).factor =
      ((recordStates first s r).agr.peer i).factor := by
  have lights : (recordLights first s r).peer i = (recordStates first s r).agr.peer i :=
    foldl_applyLight_other hn (recordStates first s r).agr
  rw [startedAt_peer hrep h hl hi, sourceToLevels_member hm, ite_self, lights]

end

/-! ## The own condition (R29, R30) -/

theorem dwellNow_condition (k : Controller) : k.dwellNow.condition = k.condition := by
  unfold Controller.dwellNow
  split <;> rfl

/-- What a change about this station does to a working station's controller (R29). -/
theorem applyState_ownCtl {u : State} {c : StateChange} (hc : c.subject = u.own)
    (hw : u.ctl.condition = .joining ∨ u.ctl.condition = .live ∨ u.ctl.condition = .dark) :
    (c.live = true → isMember u.agr.live u.own = false → (applyState u c).ctl.condition = .live) ∧
      (c.live = false → isMember u.agr.live u.own = true → u.ctl.condition = .live →
        (applyState u c).ctl = { u.ctl with condition := .dark, dwell := 0 }) ∧
      (isMember u.agr.live u.own = c.live → (applyState u c).ctl = u.ctl) := by
  refine ⟨fun hl hm => ?_, fun hl hm hcond => ?_, fun hm => ?_⟩
  · rw [(applyState_takes (by rw [hc, hm, hl]; decide)).2, moveCondition, if_pos hc, if_pos hl]
    split
    · rfl
    · rename_i other
      rcases hw with hw | hw | hw
      · exact absurd (.inl hw) other
      · exact hw
      · exact absurd (.inr hw) other
  · rw [(applyState_takes (by rw [hc, hm, hl]; decide)).2, moveCondition, if_pos hc, if_neg (by rw [hl]; decide), if_pos hcond]
  · rw [applyState_matches (by rw [hc]; exact hm)]
    rfl

/-! ## The solver -/

section
variable (h : s.agr.epochs.filter (isDue s.line.frameNo (startedAt first s).line.frameNo) = [r])
  (hs : s.ctl.selfSilence + 1 < s.settings.silenceTimeout)
include h hs

/-- The agreement part leaves the solver as the record due does, and what follows keeps its ACTIVE bank (R74). -/
theorem startedAt_active : (startedAt first s).sol.active = (applyRecord (recordBase first s) r).sol.active := by
  have sol : (agreedAt first s).sol = (applyRecord (recordBase first s) r).sol := by
    rw [agreedAt, frameAgreement_sol]
    exact congrArg State.sol (appliedDue_record h)
  rw [(startedAt_below hs).banks.1, sol]

theorem startedAt_swaps (free : s.sol.lateSwap = none) (ready : r.phase = .banked ∧ s.sol.readyFor r.frame = true) :
    (startedAt first s).sol.active = { s.sol.spare with status := .active } := by
  have base := recordBase_sol (first := first) free
  rw [startedAt_active h hs, applyRecord_swaps _ _ (by rw [base]; exact ready), base]

theorem startedAt_late (free : s.sol.lateSwap = none) (notReady : ¬(r.phase = .banked ∧ s.sol.readyFor r.frame = true)) :
    (startedAt first s).sol.active = s.sol.active ∧
      (startedAt first s).faults.pending.getLsbD (faultNumber .lateBank) = true ∧
      (r.phase = .cut → s.sol.coeffWaiting r.frame = true → s.agr.epochs = [r] →
        (startedAt first s).sol.lateSwap = some r.frame) := by
  have base := recordBase_sol (first := first) free
  obtain ⟨active, late, held⟩ := applyRecord_late (recordBase first s) r (by rw [base]; exact notReady)
  rw [base] at active held
  have sol : (agreedAt first s).sol = (applyRecord (recordBase first s) r).sol := by
    rw [agreedAt, frameAgreement_sol]
    exact congrArg State.sol (appliedDue_record h)
  refine ⟨(startedAt_active h hs).trans active, startedAt_keepsPending ?_, fun hp hw one => ?_⟩
  · rw [← appliedDue_record h] at late
    exact (appliedDue_keepsCounts _ _ _).1.pending _ late
  · have due : isDue s.line.frameNo (startedAt first s).line.frameNo r = true :=
      (List.mem_filter.1 (by rw [h]; exact List.mem_singleton_self r)).2
    have empty : (agreedAt first s).agr.epochs = [] := by
      rw [(agreedAt_record h).1, one]
      simp [due]
    rw [(startedAt_below hs).lateSwap empty, sol]
    exact held hp hw

end

end

/-! ## The obligation -/

theorem condition_of_working {s : State} (h : s.working = true) :
    s.ctl.condition = .joining ∨ s.ctl.condition = .live ∨ s.ctl.condition = .dark := by
  simpa [State.working, or_assoc] using h

/-- Settles O26: the record due acts on the view of `recordBase`, station by station, and the rest of the frame start leaves what it has
done. -/
theorem frameStartRecords : Obligations.FrameStartRecords := by
  intro first s hw hr hl hrep hs
  refine ⟨_, exec_startedAt hw hr, ?_⟩
  intro before
  have member : ∀ i, isMember (recordBase first s).agr.live i = true ↔ before i := fun i => recordBase_member i
  refine ⟨fun r h ndStates ndLights => ?_, fun n none held ready => ?_⟩
  · have live := startedAt_live hrep h
    have each := fun (c : StateChange) (hc : c ∈ r.states) => foldl_applyState_single ndStates hc (recordBase first s)
    have named : ∀ c ∈ r.states, c.subject < 12 → isMember (startedAt first s).agr.live c.subject = c.live :=
      fun c hc h12 => by
        obtain ⟨u, -, after⟩ := each c hc
        rw [live, recordStates, after.member, applyState_member h12]
    have ctl := startedAt_ctl h
    obtain ⟨baseCtl, baseOwn, -, -, baseLen⟩ := recordBase_core (first := first) (s := s)
    have condition : (recordBase first s).ctl.condition = s.ctl.condition := by
      rw [baseCtl, (countedAt_core first s).condition]
    refine ⟨named, fun i hi => ?_, fun c hc h12 => startedAt_lightFactor hrep h hl ndLights hc h12,
      fun c hc lam h12 hlive hlam nol => ?_, ?_, ?_, fun c hc own h12 => ?_, fun hno => ?_, fun free => ⟨fun hp hready => ?_, ?_⟩⟩
    · rw [live, recordStates, (foldl_applyState_untouched hi _).member]
      exact member i
    · have factor := startedAt_memberFactor hrep h hl h12 (by rw [named c hc h12, hlive]) nol
      obtain ⟨u, prior, after⟩ := each c hc
      rw [factor, recordStates, after.peer, ← member, ← prior.member]
      refine ⟨fun out => applyState_factor (Bool.eq_false_iff.2 out) hlive hlam ?_, fun inside => ?_⟩
      · rw [prior.length, baseLen, hl]
        exact h12
      · rw [applyState_matches (by rw [inside, hlive])]
        show (u.agr.peer c.subject).factor = _
        rw [prior.peer, recordBase_factor]
    · rw [(startedAt_below hs).levels, (agreedAt_record h).2]
    · exact (startedAt_below hs).frames.trans (congrArg _ (agreedAt_record h).1)
    · obtain ⟨u, prior, after⟩ := each c hc
      have uOwn : u.own = s.own := prior.own.trans baseOwn
      have uCtl : u.ctl = (recordBase first s).ctl := prior.ctl (own.trans baseOwn.symm)
      have ctl : (startedAt first s).ctl = (applyState u c).ctl.dwellNow := by
        rw [ctl, recordStates, after.ctl (by rw [applyState_own, uOwn]; exact own)]
      have uMember : isMember u.agr.live u.own = true ↔ before s.own := by
        rw [uOwn, ← own, prior.member]
        exact member c.subject
      obtain ⟨joins, leaves, same⟩ := applyState_ownCtl (u := u) (c := c) (own.trans uOwn.symm)
        (by rw [uCtl, condition]; exact condition_of_working hw)
      refine ⟨fun hlive out => ?_, fun hdark inside hcond => ?_, fun agrees => ?_⟩
      · rw [ctl, dwellNow_condition]
        exact joins hlive (Bool.eq_false_iff.2 (mt uMember.1 out))
      · rw [ctl, leaves hdark (uMember.2 inside) (by rw [uCtl, condition]; exact hcond)]
        exact ⟨rfl, rfl⟩
      · rw [ctl, dwellNow_condition, same (Bool.eq_iff_iff.2 (uMember.trans agrees.symm)), uCtl, condition]
    · rw [ctl, dwellNow_condition, recordStates,
        (foldl_applyState_untouched (i := s.own) hno (recordBase first s)).ctl baseOwn.symm, condition]
    · exact startedAt_swaps h hs free ⟨hp, hready⟩
    · exact startedAt_late h hs free
  · have swapped : (agreedAt first s).sol = { s.sol.swap with lateSwap := Option.none } := by
      obtain ⟨v, ps, hv⟩ := viewStep_frame (joining := s.ctl.condition == .joining) (old := s.line.frameNo)
        (s := countedAt first s)
      have sol : (viewStep (s.ctl.condition == .joining) s.line.frameNo (countedAt first s)).sol = s.sol := by
        rw [hv]
        exact (countedAt_core first s).sol
      have applied := appliedDue_of_none (joining := s.ctl.condition == .joining) (countedAt_none none)
      rw [agreedAt, frameAgreement_sol]
      refine (congrArg State.sol applied).trans ?_
      rw [lateSwapStep, sol, held]
      dsimp only
      rw [if_pos ready, State.withSol_sol]
    obtain ⟨active, late⟩ := (startedAt_below (first := first) hs).banks
    rw [swapped] at active late
    exact ⟨active.trans (((spare_of_banks rfl rfl).2 : _ = s.sol.swap.active).trans (swap_active _)), late rfl⟩

end Sys2Proof.Machine
end

section
/-!
PROOFS. The fade and identify at a frame start (O25).
-/
namespace Sys2Proof.Machine

/-! ## A fade step (R56) -/

/-- m after a fade step, on either side of the target. -/
theorem fadeStep_m {f : Fade} (h : 0 < f.remaining) : (fadeStep f).m =
    if f.m ≤ f.target then f.m + roundDiv (f.target - f.m) f.remaining
    else f.m - roundDiv (f.m - f.target) f.remaining := by
  rw [fadeStep, if_pos h]
  show ((f.m : Int) + roundDivInt ((f.target : Int) - f.m) f.remaining).toNat = _
  unfold roundDivInt
  by_cases up : f.m ≤ f.target
  · have distance : ((f.target : Int) - f.m).toNat = f.target - f.m := by omega
    rw [if_pos (by omega), if_pos up, distance]
    omega
  · have distance : (-((f.target : Int) - f.m)).toNat = f.m - f.target := by omega
    rw [if_neg (by omega), if_neg up, distance]
    omega

theorem fadeStep_between {f : Fade} (h : 0 < f.remaining) :
    min f.m f.target ≤ (fadeStep f).m ∧ (fadeStep f).m ≤ max f.m f.target := by
  have rises := roundDiv_le (f.target - f.m) h
  have falls := roundDiv_le (f.m - f.target) h
  rw [fadeStep_m h]
  split <;> omega

theorem fadeStep_last {f : Fade} (h : f.remaining = 1) : (fadeStep f).m = f.target := by
  have quotient : ∀ n, roundDiv n 1 = n := fun n => by simpa using roundDiv_mul_self n Nat.one_pos
  rw [fadeStep_m (by omega), h, quotient, quotient]
  split <;> omega

/-- A fade step that has frames remaining keeps the target and counts one of them. -/
theorem fadeStep_counts {f : Fade} (h : 0 < f.remaining) :
    (fadeStep f).target = f.target ∧ (fadeStep f).remaining = f.remaining - 1 := by
  rw [fadeStep, if_pos h]
  exact ⟨rfl, rfl⟩

/-! ## The show state -/

/-- The agreement units `a` and `b` hold the same show state. -/
structure Agreement.SameShow (a b : Agreement) : Prop where
  fade : b.fade = a.fade
  adopted : b.adopted = a.adopted
  pendingFade : b.pendingFade = a.pendingFade
  identify : b.identify = a.identify

theorem Agreement.SameShow.trans {a b c : Agreement} (h : a.SameShow b) (g : b.SameShow c) : a.SameShow c :=
  ⟨g.fade.trans h.fade, g.adopted.trans h.adopted, g.pendingFade.trans h.pendingFade, g.identify.trans h.identify⟩

/-- The records due leave the show state. -/
theorem applyDue_sameShow (old : FrameNo) (s : State) : s.agr.SameShow (applyDue old s).agr := by
  refine List.foldlRecOn (motive := fun (t : State) => s.agr.SameShow t.agr) _ applyRecord ⟨rfl, rfl, rfl, rfl⟩ ?_
  intro t ht r _
  obtain ⟨ps, y, k, x, h⟩ := applyRecord_frame t r
  rw [h]
  exact ht.trans ⟨rfl, rfl, rfl, rfl⟩

section
variable {joining : Bool} {old : FrameNo} {s : State}

/-- What the agreement part of a frame start does before its fades leaves the show state. -/
theorem sourcedView_sameShow : s.agr.SameShow (sourcedView joining old s).agr := by
  obtain ⟨v, ps, viewed⟩ := viewStep_frame (joining := joining) (old := old) (s := s)
  obtain ⟨y, swapped⟩ := lateSwapStep_frame (viewStep joining old s)
  have before : s.agr.SameShow (lateSwapStep (viewStep joining old s)).agr := by
    rw [swapped, viewed]
    exact ⟨rfl, rfl, rfl, rfl⟩
  obtain ⟨w, qs, x, repaired⟩ := foldl_repairPeer_frame (if joining then [] else repairDue s) (appliedDue joining old s)
  have behind : (appliedDue joining old s).agr.SameShow (repairedView joining old s).agr := by
    rw [repairedView, repaired]
    exact ⟨rfl, rfl, rfl, rfl⟩
  obtain ⟨rs, sourced⟩ := sourcedView_agr (joining := joining) (old := old) (s := s)
  rw [sourced]
  exact ((before.trans (applyDue_sameShow old _)).trans behind).trans ⟨rfl, rfl, rfl, rfl⟩

end

section
variable {old new : FrameNo} {a : Agreement}

theorem fadeFrameStart_adopted (old new : FrameNo) (a : Agreement) : (fadeFrameStart old new a).adopted = none := by
  unfold fadeFrameStart
  dsimp only
  split
  · split <;> rfl
  · rfl

theorem fadeFrameStart_none (h : a.pendingFade = none) :
    fadeFrameStart old new a = { a with fade := fadeStep (a.adopted.getD a.fade), adopted := none } := by
  simp only [fadeFrameStart, h]

theorem fadeFrameStart_starts {p : PendingFade} (h : a.pendingFade = some p) (hp : fadeStarts old new p = true) :
    fadeFrameStart old new a = { a with
      fade := fadeStep (startFade (a.adopted.getD a.fade).m p), adopted := none, pendingFade := none } := by
  simp only [fadeFrameStart, h, hp, if_true]

theorem fadeFrameStart_waits {p : PendingFade} (h : a.pendingFade = some p) (hp : fadeStarts old new p = false) :
    fadeFrameStart old new a = { a with fade := fadeStep (a.adopted.getD a.fade), adopted := none } := by
  simp only [fadeFrameStart, h, hp, Bool.false_eq_true, if_false]

theorem identifyFrameStart_none (h : a.identify = none) :
    identifyFrameStart new a = { a with identify := none, onFrame := false } := by
  simp [identifyFrameStart, h]

theorem identifyFrameStart_ends {i : Identify} (h : a.identify = some i) (hi : identifyEnds new i = true) :
    identifyFrameStart new a = { a with identify := none, onFrame := false } := by
  simp [identifyFrameStart, h, Option.filter, hi]

theorem identifyFrameStart_stays {i : Identify} (h : a.identify = some i) (hi : identifyEnds new i = false) :
    identifyFrameStart new a = { a with identify := some i, onFrame := identifyOn new i } := by
  simp [identifyFrameStart, h, Option.filter, hi]

end

/-- The show state of a working station after a frame start is that of R56, R58, R63 and R64 on the show state before it. -/
theorem startedAt_shown (first : Stamp) (s : State) : ∃ a e, s.agr.SameShow a ∧
    let n := (startedAt first s).line.frameNo
    (startedAt first s).agr = { identifyFrameStart n (fadeFrameStart s.line.frameNo n a) with epochs := e } := by
  obtain ⟨st, x, counted⟩ := countedAt_frame first s
  obtain ⟨e, y, l, q, w, z, st', px, started⟩ := startedAt_frame first s
  let u := sourcedView (s.ctl.condition == .joining) s.line.frameNo (countedAt first s)
  have same : s.agr.SameShow (countedAt first s).agr := by
    rw [counted]
    exact ⟨rfl, rfl, rfl, rfl⟩
  have number : (startedAt first s).line.frameNo = (dwellStep u).current := by
    rw [started]
    rfl
  refine ⟨u.agr, e, same.trans sourcedView_sameShow, ?_⟩
  rw [number, ← dwellStep_agr u]
  exact congrArg State.agr started

/-- Settles O25: what a frame start does before its fades leaves the show state, and what follows them leaves it too. -/
theorem frameStartShows : Obligations.FrameStartShows := by
  refine ⟨fun first s hw hr => ⟨_, exec_startedAt hw hr, ?_⟩, fun f => ⟨fun h => if_neg (by omega), fun h => ?_⟩⟩
  · obtain ⟨a, e, same, shown⟩ := startedAt_shown first s
    rw [shown, ← same.fade, ← same.adopted, ← same.pendingFade, ← same.identify]
    generalize (startedAt first s).line.frameNo = n
    let b := fadeFrameStart s.line.frameNo n a
    have kept : b.identify = a.identify := by
      obtain ⟨f, p, d, h⟩ := fadeFrameStart_frame s.line.frameNo n a
      rw [show b = _ from h]
    refine ⟨fadeFrameStart_adopted s.line.frameNo n a, fun h => ?_, fun p h hp => ?_, fun p h hp => ?_, fun i h hi => ?_,
      fun i h hi => ?_, fun h => ?_⟩
    · rw [fadeFrameStart_none h]
      exact ⟨rfl, h⟩
    · rw [fadeFrameStart_starts h hp]
      exact ⟨rfl, rfl⟩
    · rw [fadeFrameStart_waits h hp]
      exact ⟨rfl, h⟩
    · rw [identifyFrameStart_ends (kept.trans h) hi]
      exact ⟨rfl, rfl⟩
    · rw [identifyFrameStart_stays (kept.trans h) hi]
      exact ⟨rfl, rfl⟩
    · rw [identifyFrameStart_none (kept.trans h)]
      exact ⟨rfl, rfl⟩
  · obtain ⟨target, remaining⟩ := fadeStep_counts h
    obtain ⟨above, below⟩ := fadeStep_between h
    exact ⟨target, remaining, above, below, fadeStep_last⟩

end Sys2Proof.Machine
end

section
/-!
PROOFS. The messages of the control nodes, and the BOUNDS and LEVELS of the other stations (O45, O48).
-/
namespace Sys2Proof.Machine

/-! ## A message of a control node -/

section
variable {s : State} {m : Message} {i : BitVec 4}

/-- A control node has no record, so that its messages set no heard flag (R33, R112). -/
theorem setHeard_control {n : Nat} (h : s.agr.peers.length ≤ n) : setHeard n s = s := by
  have kept : s.agr.peers.modify n (fun r => { r with heard := true }) = s.agr.peers := List.modify_eq_self h
  rw [setHeard, Agreement.onPeer, kept]
  rfl

/-- A SHOW of a control node is taken from its frame, and leaves nothing but what its command does (R110 to R112). -/
theorem receiveFrame_show (ht : takesFrames s = true) (hi : 12 ≤ m.sender.toNat) (ho : m.sender.toNat ≠ s.own)
    (hl : s.agr.peers.length = 12) (hk : kindCode m.body = 2) :
    receiveFrame (messageFrame m) s = takeBody m.sender.toNat m.body s := by
  have read : frameMessage (messageFrame m) = some m := frameMessage_messageFrame ⟨fun _ => hi, fun _ => hk⟩
  have other : clashes s.own (messageFrame m) = false := by simp [clashes, messageFrame, ho]
  have roster : strayed s m = false := by simp [strayed, hi]
  have offered : ∀ t, offerCount m.body t = t := fun t => by
    cases hb : m.body with
    | pulse condition driving heldValid frame held => simp [hb, kindCode] at hk
    | _ => rfl
  rw [receiveFrame_of_message ht other read roster, acceptMessage, offered, setHeard_control (by omega)]

/-! ## SHOW_FADE (R57) -/

variable {n : FrameNo} {g k : Nat}

theorem takeFade_refused (h : 4096 < g) : takeFade n g k s = report .agreement .showRange 1 s := if_pos h

theorem takeFade_pending (h : g ≤ 4096) (ha : after n s.line.frameNo = true) :
    takeFade n g k s = { s with agr := { s.agr with pendingFade := some ⟨n, g, k⟩ } } := by
  rw [takeFade, if_neg (by omega)]
  exact if_pos ha

theorem takeFade_late (h : g ≤ 4096) (ha : after n s.line.frameNo = false) :
    takeFade n g k s = report .agreement .lateShow (n.setWidth 16).toNat
      { s with agr := { s.agr with pendingFade := some ⟨s.line.frameNo + 1, g, k⟩ } } := by
  rw [takeFade, if_neg (by omega)]
  exact if_neg (by rw [State.current, ha]; decide)

end

/-- Settles O48: a SHOW comes to the agreement unit alone, and each command is taken or refused there. -/
theorem showsTaken : Obligations.ShowsTaken := by
  intro i s hs ht hi ho hl
  have taken : ∀ b, kindCode b = 2 → finish (receiveFrame (messageFrame ⟨i, b⟩) s) = finish (takeBody i.toNat b s) :=
    fun b hk => congrArg finish (receiveFrame_show (m := ⟨i, b⟩) ht hi ho hl hk)
  refine ⟨fun n g k => ?_, fun n mask p o => ?_, fun n => ?_⟩
  · have run : exec (.showFade i n g k) s = finish (takeFade n g.toNat k.toNat s) := taken (.fade n g k) rfl
    rw [run]
    refine ⟨fun hg => ?_, fun hg ha => ?_, fun hg ha => ?_⟩
    · rw [takeFade_refused hg, finish_eq_next, takeReports_report hs]
    · rw [takeFade_pending hg ha, finish_eq_next, takeReports_of_settled (by exact hs)]
    · rw [takeFade_late hg ha, finish_eq_next, takeReports_report (by exact hs)]
  · have run : exec (.showIdentify i n mask p o) s = finish (takeIdentify n mask p.toNat o.toNat s) :=
      taken (.identify n mask p o) rfl
    have range : p.toNat = 0 ∨ p.toNat < o.toNat ↔ p = 0 ∨ p.toNat < o.toNat := by
      rw [← BitVec.toNat_inj]
      rfl
    rw [run]
    refine ⟨fun h => ?_, fun h => ?_⟩
    · rw [takeIdentify, if_pos (range.2 h), finish_eq_next, takeReports_report hs]
    · rw [takeIdentify, if_neg (mt range.1 h), finish_eq_next]
      exact takeReports_of_settled (by split <;> exact hs)
  · have run : exec (.showIdentifyOff i n) s = finish (takeIdentifyOff n s) := taken (.identifyOff n) rfl
    rw [run, finish_eq_next]
    exact takeReports_of_settled hs

/-! ## LEVELS of a peer (R48, R60, R61) -/

/-- The factor is that of the LEVELS in JOINING, and where there is none or it came from LEVELS (R48). -/
theorem factorFromLevels_eq (c : Condition) (old : Option Factor) (lam : Nat)
    [Decidable (c = .joining ∨ ∀ f, old = some f → f.source = .levels)] : factorFromLevels (c == .joining) old lam =
      if c = .joining ∨ ∀ f, old = some f → f.source = .levels then some ⟨lam, .levels⟩ else old := by
  cases old with
  | none => exact (if_pos (.inr fun _ hf => nomatch hf)).symm
  | some f => simp [factorFromLevels]

/-- The state adopted from the fields of a LEVELS (R61). -/
theorem adoptedFrom_fields (lam m g k : BitVec 16) : adoptedFrom ⟨lam.toNat, m.toNat, g.toNat, k.toNat⟩ =
    if k = 0 then ⟨m.toNat, m.toNat, 0⟩ else ⟨m.toNat, g.toNat, k.toNat⟩ := by
  by_cases hk : k = 0
  · rw [if_pos hk, hk]
    rfl
  · have rest : k.toNat ≠ 0 := fun h => hk (BitVec.eq_of_toNat_eq h)
    rw [if_neg hk, adoptedFrom, if_neg rest]

/-- A peer's LEVELS writes its record and the adopted state alone (R48, R60, R61). -/
theorem takeLevels_peer {i : Nat} {x : LevelsInfo} {s : State} (h : i ≠ s.own) : takeLevels i x s =
    s.withAgr { (s.agr.onPeer i (fun r => { r with levels := some x })).onPeer i (fun r => { r with
        factor := factorFromLevels (s.ctl.condition == .joining) r.factor x.lam }) with
      adopted := if adopts s i x then some (adoptedFrom x) else s.agr.adopted } := by
  rw [takeLevels, if_neg h]
  split <;> rfl

/-- The condition under which a LEVELS is adopted (R61). -/
theorem adopts_iff (s : State) (i : Nat) (x : LevelsInfo) : adopts s i x = true ↔
    (s.ctl.condition = .joining ∨ s.ctl.condition = .dark) ∧ isMember s.agr.live i = true ∧
      x.mNow ≤ 4096 ∧ x.target ≤ 4096 := by
  simp [adopts, and_assoc]

/-! ## A message of a station -/

section
variable {a b : Agreement} {i : Nat} {r : PeerRecord}

theorem onPeer_length (a : Agreement) (i : Nat) (f : PeerRecord → PeerRecord) :
    (a.onPeer i f).peers.length = a.peers.length := List.length_modify f a.peers i

theorem Agreement.onlyPeer.refl (a : Agreement) (i : Nat) : a.onlyPeer a i (a.peer i) := ⟨rfl, fun _ _ => rfl⟩

/-- The record that alone differs, changed again. -/
theorem Agreement.onlyPeer.onPeer (h : a.onlyPeer b i r) (hi : i < b.peers.length) (f : PeerRecord → PeerRecord) :
    a.onlyPeer (b.onPeer i f) i (f r) := by
  obtain ⟨changed, others⟩ := h
  refine ⟨?_, fun j hj => ?_⟩
  · rw [peer_onPeer_same hi, changed]
  · rw [peer_onPeer_other hj, others j hj]

end

/-- Settles O45: each message is written into its sender's record, whose heard flag is set, and nothing else takes it. -/
theorem boundsAndLevelsTaken : Obligations.BoundsAndLevelsTaken := by
  intro i s hs ht hi ho hr hl
  let heard := setHeard i.toNat s
  have inside : i.toNat < s.agr.peers.length := by omega
  have heardInside : i.toNat < heard.agr.peers.length := inside.trans_eq (onPeer_length _ _ _).symm
  have only : s.agr.onlyPeer heard.agr i.toNat { s.agr.peer i.toNat with heard := true } :=
    (Agreement.onlyPeer.refl s.agr i.toNat).onPeer inside _
  refine ⟨fun e f c => ?_, fun lam m g k => ?_⟩
  · have run : exec (.receiveBounds i e f c) s = finish (takeBounds i.toNat ⟨e, f.toNat, c.toNat⟩ heard) :=
      congrArg finish (receiveFrame_messageFrame (m := ⟨i, .bounds e f c⟩) ht hi ho hr (by simp [kindCode]))
    obtain ⟨l, x, written⟩ := takeBounds_frame i.toNat ⟨e, f.toNat, c.toNat⟩ heard
    obtain ⟨z, taken⟩ := takeReports_frame (takeBounds i.toNat ⟨e, f.toNat, c.toNat⟩ heard)
    refine ⟨_, run.trans (finish_eq_next.2 rfl), ?_, ?_, ?_, ?_,
      takeBounds_matched (s := heard) i.toNat e f.toNat c.toNat hs⟩
    all_goals rw [taken, written]
    · exact only.onPeer heardInside _
    all_goals rfl
  · let x : LevelsInfo := ⟨lam.toNat, m.toNat, g.toNat, k.toNat⟩
    let withLevels := heard.agr.onPeer i.toNat (fun r => { r with levels := some x })
    have levelsInside : i.toNat < withLevels.peers.length := heardInside.trans_eq (onPeer_length _ _ _).symm
    have run : exec (.receiveLevels i lam m g k) s = finish (takeLevels i.toNat x heard) :=
      congrArg finish (receiveFrame_messageFrame (m := ⟨i, .levels lam m g k⟩) ht hi ho hr (by simp [kindCode]))
    have settled : ∀ u, takeReports (s.withAgr u) = s.withAgr u := fun _ => takeReports_of_settled hs
    rw [takeLevels_peer (s := heard) ho] at run
    refine ⟨_, run.trans (finish_eq_next.2 (settled _)), ?_, rfl, rfl, rfl, fun h => ?_, fun h => ?_⟩
    · rw [← factorFromLevels_eq]
      exact (only.onPeer heardInside _).onPeer levelsInside _
    · exact (if_pos ((adopts_iff heard i.toNat x).2 h)).trans (congrArg some (adoptedFrom_fields lam m g k))
    · exact if_neg fun ha => h ((adopts_iff heard i.toNat x).1 ha)

end Sys2Proof.Machine
end

section
/-!
PROOFS. The messages that a station queues at its send event (O35).
-/
namespace Sys2Proof.Machine

/-! ## The message on the bus and the single-place queues (R113, R114) -/

theorem onBus_eq_true {p : Port} {k : BitVec 3} {m : Message} (h : p.attempt = some m) (hk : kindCode m.body = k) :
    p.onBus k = true := by
  simp [Port.onBus, h, hk]

theorem onBus_eq_false {p : Port} {k : BitVec 3} (h : ∀ m, p.attempt = some m → kindCode m.body ≠ k) :
    p.onBus k = false := by
  cases ha : p.attempt with
  | none => simp [Port.onBus, ha]
  | some m => simp [Port.onBus, ha, h m ha]

/-- The PULSEs displaced are reported, and nothing else is changed (R114). -/
theorem reportSkipped_frame (l : List Message) (s : State) : ∃ x, reportSkipped l s = { s with faults := x } ∧
    (l ≠ [] → x.pending.getLsbD (faultNumber .pulseSkipped) = true) := by
  obtain ⟨x, h⟩ := foldl_faults (fun t m => report .port .pulseSkipped (pulseDetail m) t) (fun _ _ => ⟨_, rfl⟩) l s
  refine ⟨x, h, fun hl => ?_⟩
  obtain ⟨m, hm⟩ := List.exists_mem_of_ne_nil l hl
  have reported := foldl_report_pendingBit hm .port .pulseSkipped pulseDetail s
  rw [h] at reported
  exact reported

/-! ## The PULSE and the LEVELS of a send event (R59, R83) -/

/-- The port with a PULSE and, in the station's slot, a LEVELS in their places (R59, R83, R114). -/
def Port.withPeriodic (p : Port) (slot : Prop) [Decidable slot] (pulse levels : Message) : Port :=
  { p with
    pulse := singlePlace (p.onBus 3) p.pulse pulse
    levels := if slot then singlePlace (p.onBus 6) p.levels levels else p.levels }

/-- What a working station queues at the send event, with a report of each PULSE displaced. -/
theorem queuePeriodic_eq {s : State} (hp : s.port.state ≠ .disabled) : ∃ x, queuePeriodic s = { s with
      port := s.port.withPeriodic (s.line.frameNo.toNat % 16 = s.own) ⟨BitVec.ofNat 4 s.own, pulseBody s⟩
        ⟨BitVec.ofNat 4 s.own, levelsBody s⟩
      faults := x } ∧
    (singleDisplaced (s.port.onBus 3) s.port.pulse ≠ [] → x.pending.getLsbD (faultNumber .pulseSkipped) = true) := by
  obtain ⟨x, skipped, told⟩ := reportSkipped_frame (singleDisplaced (s.port.onBus 3) s.port.pulse) (s.withPort { s.port with
    pulse := singlePlace (s.port.onBus 3) s.port.pulse ⟨BitVec.ofNat 4 s.own, pulseBody s⟩ })
  have pulse : enqueue (pulseBody s) s = _ := (if_neg hp).trans skipped
  refine ⟨x, ?_, told⟩
  unfold queuePeriodic Port.withPeriodic
  dsimp only
  rw [pulse]
  split
  · exact if_neg hp
  · rfl

/-- The frame line unit once the send event has come (R83, log 1). -/
def State.sentLine (s : State) : FrameLine :=
  { s.line with stamp := s.line.startStamp + BitVec.ofNat 32 (s.tf / 8), sendPending := false }

theorem exec_sendEvent {s : State} (hr : s.line.running = true) (hs : s.line.sendPending = true) : exec .sendEvent s =
    .next (takeReports (if s.working then queuePeriodic (s.withLine s.sentLine) else s.withLine s.sentLine)) := by
  have comes : (s.line.running && s.line.sendPending) = true := by rw [hr, hs]; rfl
  exact congrArg finish (if_pos comes)

/-- The send event of a working station whose port is not DISABLED. -/
theorem exec_sendEvent_working {s : State} (hr : s.line.running = true) (hw : s.working = true)
    (hp : s.port.state ≠ .disabled) (hs : s.line.sendPending = true) : ∃ x, exec .sendEvent s = .next { s with
      port := s.port.withPeriodic (s.line.frameNo.toNat % 16 = s.own) ⟨BitVec.ofNat 4 s.own, pulseBody s⟩
        ⟨BitVec.ofNat 4 s.own, levelsBody s⟩
      line := s.sentLine, faults := x } ∧
    (singleDisplaced (s.port.onBus 3) s.port.pulse ≠ [] → x.pending.getLsbD (faultNumber .pulseSkipped) = true) := by
  obtain ⟨x, queued, told⟩ := queuePeriodic_eq (s := s.withLine s.sentLine) hp
  refine ⟨(takeReports (queuePeriodic (s.withLine s.sentLine))).faults, ?_, fun hd => ?_⟩
  · rw [exec_sendEvent hr hs, if_pos hw, takeReports_eq, queued]
    rfl
  · rw [takeReports_pendingSet, queued]
    exact told hd

/-- Settles O35: the send event comes once in a frame, and a working station's messages take their places. -/
theorem sendEventQueues : Obligations.SendEventQueues := by
  intro s hr line pulse levels slot
  refine ⟨fun settled done => ?_, fun settled idle due => ?_, fun hw hp due => ?_, fun hw hp due other => ?_⟩
  · simp [exec, execSendEvent, done, takeReports_of_settled settled]
  · rw [exec_sendEvent hr due, idle]
    exact congrArg Host.Outcome.next (takeReports_of_settled settled)
  · obtain ⟨x, run, told⟩ := exec_sendEvent_working hr hw hp due
    refine ⟨_, run, rfl, rfl, fun idle => ?_, fun m rest sending kind queue => ⟨?_, fun waiting => told ?_⟩⟩
    · have free : ∀ k, s.port.onBus k = false := fun k => onBus_eq_false fun m hm => by simp [idle] at hm
      show s.port.withPeriodic slot pulse levels = _
      rw [Port.withPeriodic, free, free]
      rfl
    · have free : s.port.onBus 6 = false := onBus_eq_false fun n hn => by
        obtain rfl : m = n := Option.some.inj (sending.symm.trans hn)
        rw [kind]
        decide
      show s.port.withPeriodic slot pulse levels = _
      rw [Port.withPeriodic, onBus_eq_true sending kind, free, queue]
      rfl
    · rw [onBus_eq_true sending kind, queue]
      exact waiting
  · obtain ⟨x, run, told⟩ := exec_sendEvent_working hr hw hp due
    have free : s.port.onBus 3 = false := onBus_eq_false other
    refine ⟨_, run, ?_, fun waiting => told ?_, fun inSlot m rest sending kind queue => ?_, fun inSlot unsent => ?_,
      fun outside => if_neg outside, rfl⟩
    · show singlePlace (s.port.onBus 3) s.port.pulse pulse = [pulse]
      rw [free]
      rfl
    · rw [free]
      exact waiting
    · refine (if_pos inSlot).trans ?_
      rw [onBus_eq_true sending kind, queue]
      rfl
    · refine (if_pos inSlot).trans ?_
      rw [onBus_eq_false unsent]
      rfl

end Sys2Proof.Machine
end

section
/-!
PROOFS. One step: the front command or a tick (O1), and the frame line's release and edges (O32).
-/
namespace Sys2Proof.Machine

/-! ## Steps and the queue -/

/-- A step with commands waiting runs the front one (log 1). -/
theorem step_cons (c : Instr) (rest : List Instr) (s : State) :
    step { s with pending := c :: rest } = exec c { s with pending := rest } := rfl

/-- A step with no command waiting is one tick (R79, log 1). -/
theorem step_nil {s : State} (h : s.pending = []) : step s = .next (tick s) := by
  simp [step, h]

/-- What a step does, said once: it ticks, or it runs the front command. -/
theorem step_cases {s t : State} (h : step s = .next t) :
    t = tick s ∨ ∃ c rest, exec c { s with pending := rest } = .next t := by
  unfold step at h
  split at h
  · cases h
    exact .inl rfl
  · exact .inr ⟨_, _, h⟩

/-- Settles O1: the two branches of `step`. -/
theorem stepRunsFrontCommand : Obligations.StepRunsFrontCommand :=
  ⟨step_cons, fun _ h => step_nil h⟩

/-! ## The frame line's release and edges -/

/-- Settles O32: neither command makes a report, so the state that each writes is the outcome. -/
theorem lineReleaseAndEdges : Obligations.LineReleaseAndEdges := by
  intro s hs
  refine ⟨fun hp => ?_, fun falling stamp => ?_⟩
  · have pulls : exec .frameLineRelease s = finish (s.withLine
        { s.line with pulling := false, stamp := s.line.startStamp + BitVec.ofNat 32 pulseWidth }) := by
      simp [exec, execFrameLineRelease, hp]
    rw [pulls, finish_eq_next, takeReports_of_settled (by exact hs)]
    rfl
  · exact finish_eq_next.2 (takeReports_of_settled (by exact hs))

end Sys2Proof.Machine
end

section
/-!
PROOFS. What a window completion makes of the frame line unit, said once for every lock state (R85 to R97).
-/
namespace Sys2Proof.Machine

/-! ## The completion and the lock state's action -/

/-- The frame line unit written twice holds what was written last. -/
theorem withLine_withLine (s : State) (x y : FrameLine) : (s.withLine x).withLine y = s.withLine y := rfl

/-- The frame line unit as its window completes, before the lock state acts (R85, R86). -/
@[irreducible] def completedLine (s : State) : FrameLine :=
  { s.line with
    stamp := s.line.startStamp + BitVec.ofNat 32 (s.halfWidth + pulseWidth)
    last := (measure s.line s.halfWidth).1
    windowPending := false
    edges := keptEdges s.line s.halfWidth
    baseLow := keptBase s.line s.halfWidth }

section
variable (s : State)

@[simp] theorem completedLine_frameNo : (completedLine s).frameNo = s.line.frameNo := by unfold completedLine; rfl
@[simp] theorem completedLine_trim : (completedLine s).trim = s.line.trim := by unfold completedLine; rfl
@[simp] theorem completedLine_staged : (completedLine s).staged = s.line.staged := by unfold completedLine; rfl
@[simp] theorem completedLine_integral : (completedLine s).integral = s.line.integral := by unfold completedLine; rfl
@[simp] theorem completedLine_driving : (completedLine s).driving = s.line.driving := by unfold completedLine; rfl
@[simp] theorem completedLine_stamp : (completedLine s).stamp =
    s.line.startStamp + BitVec.ofNat 32 (s.halfWidth + pulseWidth) := by unfold completedLine; rfl
@[simp] theorem completedLine_last : (completedLine s).last = (measure s.line s.halfWidth).1 := by unfold completedLine; rfl
@[simp] theorem completedLine_windowPending : (completedLine s).windowPending = false := by unfold completedLine; rfl

end

section
variable {s : State}

theorem exec_windowCompletion (hw : s.working = true) (hp : s.line.windowPending = true) :
    exec .windowCompletion s = .next (takeReports (completeWindow s)) := by
  simp [exec, execWindowCompletion, hw, hp, finish]

/-- A line fault makes the lock state FREE and reports LINE_STUCK (R87). -/
theorem completeWindow_fault (h : (measure s.line s.halfWidth).1.cls = .lineFault) :
    completeWindow s = report .frameLine .lineStuck (measure s.line s.halfWidth).2
      (s.withLine (moveLock .free (completedLine s))) := by
  unfold completeWindow completedLine
  dsimp only
  rw [if_pos h, withLine_withLine]

/-- Any other measurement is the lock state's to act on (R89 to R93). -/
theorem completeWindow_lock (h : (measure s.line s.halfWidth).1.cls ≠ .lineFault) :
    completeWindow s = lockStep (measure s.line s.halfWidth).1 (s.withLine (completedLine s)) := by
  unfold completeWindow completedLine
  dsimp only
  rw [if_neg h]

end

/-! ## What the lock state may write -/

/-- What the lock state's action may make of the frame line unit of `u`: the lock state, its counts, the next frame start and the
jump wait; the trims stay, the integral term becoming 0 in a jump (R94), or are those of steering (R96). -/
structure LockWrites (u : State) (l : FrameLine) : Prop where
  frame : l = { u.line with
    lock := l.lock, near := l.near, quiet := l.quiet, inside := l.inside, outside := l.outside, good := l.good
    integral := l.integral, staged := l.staged, nextStart := l.nextStart, jumpWait := l.jumpWait }
  trims : (l.staged = u.line.staged ∧ (l.integral = u.line.integral ∨ l.integral = 0)) ∨
    ∃ e, l.staged = (steer u.tf u.settings e u.line).staged ∧ l.integral = (steer u.tf u.settings e u.line).integral

section
variable {u : State}

theorem LockWrites.trim {l : FrameLine} (h : LockWrites u l) : l.trim = u.line.trim := by
  rw [h.frame]

/-- A jump keeps the staged trim and sets the integral term to 0 (R94). -/
theorem jump_writes (e : Int) : LockWrites u (jump e u).line := by
  have jumped : (jump e u).line = if u.line.lock = .listen then jumpLine u.tf u.halfWidth u.own e u.line
      else moveLock .listen (jumpLine u.tf u.halfWidth u.own e u.line) := rfl
  rw [jumped]
  split <;> exact ⟨rfl, .inl ⟨rfl, .inr rfl⟩⟩

theorem listenStep_writes (m : Measurement) : LockWrites u (listenStep m u).line := by
  have moves : ∀ n q, LockWrites u (listenMoves { u.line with near := n, quiet := q }) := fun n q => by
    unfold listenMoves
    split_ifs <;> exact ⟨rfl, .inl ⟨rfl, .inl rfl⟩⟩
  unfold listenStep
  split
  · split
    · exact jump_writes _
    · exact moves _ _
  · exact moves _ _

theorem aloneStep_writes (span e : Int) : LockWrites u (aloneStep span e u).line := by
  unfold aloneStep
  split_ifs
  · exact ⟨rfl, .inr ⟨e, rfl, rfl⟩⟩
  · exact ⟨rfl, .inr ⟨e, rfl, rfl⟩⟩
  · exact jump_writes e
  · exact ⟨rfl, .inr ⟨e, rfl, rfl⟩⟩

theorem pullingStep_writes (e : Int) : LockWrites u (pullingStep e u).line := by
  unfold pullingStep
  dsimp only
  split_ifs
  · exact ⟨rfl, .inr ⟨e, rfl, rfl⟩⟩
  · exact jump_writes e
  all_goals exact ⟨rfl, .inr ⟨e, rfl, rfl⟩⟩

theorem lockedStep_writes (e : Int) : LockWrites u (lockedStep e u).line := by
  unfold lockedStep
  dsimp only
  split_ifs <;> exact ⟨rfl, .inr ⟨e, rfl, rfl⟩⟩

theorem freeStep_writes : LockWrites u (freeStep u).line := by
  unfold freeStep
  split <;> exact ⟨rfl, .inl ⟨rfl, .inl rfl⟩⟩

theorem quietDriving_writes : LockWrites u (quietDriving u).line := ⟨rfl, .inl ⟨rfl, .inl rfl⟩⟩

/-- The action of every lock state writes no more than `LockWrites` allows. -/
theorem lockStep_writes (m : Measurement) : LockWrites u (lockStep m u).line := by
  unfold lockStep
  split
  · exact listenStep_writes m
  · exact freeStep_writes
  · split
    · exact aloneStep_writes _ _
    · exact quietDriving_writes
  · split
    · exact pullingStep_writes _
    · exact quietDriving_writes
  · split
    · exact lockedStep_writes _
    · exact quietDriving_writes

end

end Sys2Proof.Machine
end

section
/-!
PROOFS. Every step keeps the trims and the integral term in range, and 0 in START (O8).
-/
namespace Sys2Proof.Machine

/-! ## Limits (R97) -/

/-- A value clamped to a limit lies within it. -/
theorem clampInt_natAbs_le (n : Nat) (x : Int) : (clampInt n x).natAbs ≤ n := by
  unfold clampInt
  split_ifs <;> omega

/-- A move toward a goal in range, cut to any slew, ends in range. -/
theorem slewed_natAbs_le {a b : Int} {n : Nat} (slew : Nat) (ha : a.natAbs ≤ n) (hb : b.natAbs ≤ n) :
    (a + clampInt slew (b - a)).natAbs ≤ n := by
  unfold clampInt
  split_ifs <;> omega

/-- Steering from a trim in range leaves the integral term and the staged trim in range (R96, R97). -/
theorem steer_inRange {x : Settings} {l : FrameLine} (h : trimInRange x l.trim) (tf : Nat) (e : Int) :
    trimInRange x (steer tf x e l).staged ∧ trimInRange x (steer tf x e l).integral :=
  ⟨slewed_natAbs_le x.slew h (clampInt_natAbs_le _ _), clampInt_natAbs_le _ _⟩

theorem zero_inRange (x : Settings) : trimInRange x 0 := Nat.zero_le _

/-! ## Operations that keep the trims sound -/

/-- Sound trims of `s` are sound in `t`. -/
def KeepsTrim (s t : State) : Prop := s.trimSound → t.trimSound

theorem KeepsTrim.refl (s : State) : KeepsTrim s s := id

theorem KeepsTrim.trans {s t u : State} (h : KeepsTrim s t) (g : KeepsTrim t u) : KeepsTrim s u := g ∘ h

/-- A conditional effect is that of the branch taken. -/
theorem KeepsTrim.ite {s u v : State} {c : Prop} [Decidable c] (hu : c → KeepsTrim s u) (hv : ¬c → KeepsTrim s v) :
    KeepsTrim s (if c then u else v) := by
  split
  · exact hu ‹_›
  · exact hv ‹_›

theorem takeReports_keepsTrim (s : State) : KeepsTrim s (takeReports s) := by
  rw [takeReports_eq]
  exact .refl s

theorem KeepsTrim.before_reports {s u : State} (h : KeepsTrim s (takeReports u)) : KeepsTrim s u := by
  rw [takeReports_eq] at h
  exact h

/-- A command keeps the trims sound when the effect that its outcome takes the reports of does. -/
theorem KeepsTrim.of_finish {s t u : State} (hu : KeepsTrim s u) (h : finish u = .next t) : KeepsTrim s t := by
  rw [← finish_eq_next.1 h]
  exact hu.trans (takeReports_keepsTrim u)

/-- A change of the frame line unit that keeps its trims and its integral term. -/
theorem withLine_keepsTrim {s : State} {l : FrameLine} (trim : l.trim = s.line.trim) (staged : l.staged = s.line.staged)
    (integral : l.integral = s.line.integral) : KeepsTrim s (s.withLine l) := by
  unfold KeepsTrim State.trimSound
  simp only [State.withLine_line, State.withLine_settings, State.withLine_ctl, trim, staged, integral, imp_self]

theorem withLoader_keepsTrim (s : State) (l : Loader) : KeepsTrim s (s.withLoader l) := .refl s

theorem withPort_keepsTrim (s : State) (p : Port) : KeepsTrim s (s.withPort p) := .refl s

theorem withPix_keepsTrim (s : State) (p : PixelPath) : KeepsTrim s (s.withPix p) := .refl s

theorem report_keepsTrim (b : Block) (k : FaultKind) (d : Nat) (s : State) : KeepsTrim s (report b k d s) := .refl s

/-- A change of the port and the fault unit alone. -/
theorem KeepsTrim.of_port {s t : State} (h : ∃ p x, t = { s with port := p, faults := x }) : KeepsTrim s t := by
  obtain ⟨p, x, rfl⟩ := h
  exact .refl s

theorem LinkAlone.keepsTrim {s t : State} (h : LinkAlone s t) : KeepsTrim s t := by
  obtain ⟨l, y, x, rfl⟩ := h
  exact .refl s

/-! ### The resets, the load and the halt -/

/-- Entry to HALTED keeps the trims and leaves START (R88). -/
theorem enterHalted_keepsTrim (s : State) : KeepsTrim s (enterHalted s) :=
  fun ⟨trim, staged, integral, _⟩ => ⟨trim, staged, integral, nofun⟩

theorem failLoad_keepsTrim (code : Nat) (s : State) : KeepsTrim s (failLoad code s) := enterHalted_keepsTrim s

theorem failLoadIf_keepsTrim (code : Option Nat) (s : State) : KeepsTrim s (failLoadIf code s) := by
  cases code with
  | none => exact .refl s
  | some c => exact failLoad_keepsTrim c s

/-- A load that completes leaves START, where the trims are 0 and so in range of the settings of any image (R97, R181). -/
theorem completeLoad_keepsTrim (x : Settings) {s : State} (h : s.inStart = true) : KeepsTrim s (completeLoad x s) := by
  intro ⟨_, _, _, zero⟩
  obtain ⟨trim, staged, integral⟩ := zero (beq_iff_eq.1 h)
  refine ⟨?_, ?_, ?_, nofun⟩
  · show trimInRange x s.line.trim
    exact trim ▸ zero_inRange x
  · show trimInRange x s.line.staged
    exact staged ▸ zero_inRange x
  · show trimInRange x s.line.integral
    exact integral ▸ zero_inRange x

theorem strapCheck_keepsTrim (s : State) : KeepsTrim s (strapCheck s) := by
  unfold strapCheck
  exact .ite (fun _ => enterHalted_keepsTrim s) (fun _ => .refl s)

/-- A start with the reset values has every trim 0, also where the straps halt the station (R97, R173, R183). -/
theorem startValues_trimSound (straps : BitVec 4) (stamp : Stamp) (low : Bool) (memory : List (Nat × Rgb))
    (errors : List Nat) (faults : FaultUnit) (queue : List Instr) :
    (strapCheck (startValues straps stamp low memory errors faults queue)).trimSound :=
  strapCheck_keepsTrim _ ⟨zero_inRange _, zero_inRange _, zero_inRange _, fun _ => ⟨rfl, rfl, rfl⟩⟩

/-- A write of the maintenance port keeps the trims, or resets them (R189, R192). -/
theorem portWrite_keepsTrim (b : Byte) (w : I2cWrite) (straps : BitVec 4) (s : State) :
    KeepsTrim s (portWrite b w straps s) := by
  have note : ∀ acks u, KeepsTrim s u → KeepsTrim s (noteWrite acks w u) := fun acks u h => .ite (fun _ => h) (fun _ => h)
  unfold portWrite
  apply note
  split
  · rename_i x _
    cases x with
    | restart => exact .ite (fun _ _ => startValues_trimSound _ _ _ _ _ _ _) (fun _ => .refl s)
    | _ => exact .ite (fun _ => KeepsTrim.refl s) (fun _ => .refl s)
  · exact .refl s

/-! ### The bus -/

/-- Count adoption writes the target alone (R98). -/
theorem offerCount_keepsTrim (b : Body) (s : State) : KeepsTrim s (offerCount b s) := by
  cases b with
  | pulse condition driving heldValid frame held => exact .ite (fun _ => KeepsTrim.refl s) (fun _ => .refl s)
  | _ => exact .refl s

theorem takeBody_keepsTrim (i : Nat) (b : Body) (s : State) : KeepsTrim s (takeBody i b s) := by
  obtain ⟨a, y, x, h⟩ := takeBody_frame i b s
  rw [h]
  exact .refl s

theorem ownNotice_keepsTrim (b : Body) (s : State) : KeepsTrim s (ownNotice b s) := by
  cases b <;> exact KeepsTrim.refl s

theorem receiveFrame_keepsTrim (f : BusFrame) (s : State) : KeepsTrim s (receiveFrame f s) := by
  refine .ite (fun _ => .refl s) fun _ => .ite (fun _ => enterHalted_keepsTrim s) fun _ => ?_
  split
  · exact KeepsTrim.refl s
  · rename_i m _
    refine .ite (fun _ => KeepsTrim.refl s) fun _ => ?_
    exact (takeBody_keepsTrim m.sender.toNat m.body (setHeard m.sender.toNat s)).trans (offerCount_keepsTrim m.body _)

/-! ### Passes -/

theorem startJobs_keepsTrim (s : State) : KeepsTrim s (startJobs s) := by
  obtain ⟨e, y, p, x, h⟩ := startJobs_frame s
  rw [h]
  exact .refl s

theorem completeBounds_keepsTrim (p : Pass) (s : State) : KeepsTrim s (completeBounds p s) := by
  obtain ⟨e, y, q, x, h⟩ := completeBounds_frame p s
  rw [h]
  exact .refl s

theorem completeCoeff_keepsTrim (p : Pass) (s : State) : KeepsTrim s (completeCoeff p s) := by
  obtain ⟨e, y, x, h⟩ := completeCoeff_frame p s
  rw [h]
  exact .refl s

/-! ### The frame start -/

theorem ne_start_of_working {s : State} (hw : s.working = true) : s.ctl.condition ≠ .start := by
  rintro start
  simp [State.working, start] at hw

/-- No state change takes a station back to START (R29). -/
theorem applyState_leavesStart {s : State} (h : s.ctl.condition ≠ .start) (c : StateChange) :
    (applyState s c).ctl.condition ≠ .start := by
  have moved : (moveCondition s.own s.ctl c).condition ≠ .start := by
    unfold moveCondition
    split_ifs
    · exact nofun
    · exact h
    · exact nofun
    · exact h
    · exact h
  unfold applyState
  dsimp only
  split
  · exact h
  · exact moved

theorem applyDue_leavesStart {s : State} (h : s.ctl.condition ≠ .start) (old : FrameNo) :
    (applyDue old s).ctl.condition ≠ .start := by
  unfold applyDue
  refine List.foldlRecOn (motive := fun t => t.ctl.condition ≠ .start) _ applyRecord ?_ fun t ht r _ => ?_
  · exact h
  obtain ⟨-, ctl⟩ := applyRecord_parts t r
  rw [ctl]
  exact List.foldlRecOn (motive := fun t => t.ctl.condition ≠ .start) _ applyState ht fun u hu c _ =>
    applyState_leavesStart hu c

/-- A frame start leaves a working station out of START. -/
theorem startedAt_leavesStart (first : Stamp) {s : State} (hw : s.working = true) :
    (startedAt first s).ctl.condition ≠ .start := by
  obtain ⟨e, y, l, q, w, x, st, px, h⟩ := startedAt_frame first s
  obtain ⟨y', hy⟩ := lateSwapStep_frame (viewStep (s.ctl.condition == .joining) s.line.frameNo (countedAt first s))
  obtain ⟨-, -, ctl⟩ := frameAgreement_behind (joining := s.ctl.condition == .joining) (old := s.line.frameNo)
    (s := countedAt first s)
  have kept : (startedAt first s).ctl = (appliedDue (s.ctl.condition == .joining) s.line.frameNo (countedAt first s)).ctl.dwellNow := by
    rw [h]
    exact ctl
  rw [kept, dwellNow_condition]
  refine applyDue_leavesStart ?_ _
  have counted := (countedAt_core first s).condition
  rw [hy]
  show (viewStep _ _ (countedAt first s)).ctl.condition ≠ .start
  obtain ⟨v, ps, hv⟩ := viewStep_frame (joining := s.ctl.condition == .joining) (old := s.line.frameNo)
    (s := countedAt first s)
  rw [hv, State.withAgr_ctl, counted]
  exact ne_start_of_working hw

/-- The frame line unit after a frame start is what the raster's part makes of it, and the settings stay. -/
theorem startedAt_line (first : Stamp) (s : State) :
    (startedAt first s).line = lineFrameStart first s.halfWidth s.line ∧ (startedAt first s).settings = s.settings := by
  obtain ⟨e, y, l, q, w, x, st, px, h⟩ := startedAt_frame first s
  obtain ⟨a, y', k, x', hg⟩ := frameAgreement_frame (s.ctl.condition == .joining) s.line.frameNo (countedAt first s)
  obtain ⟨st', x'', hc⟩ := countedAt_frame first s
  rw [h]
  dsimp only
  rw [show agreedAt first s = _ from hg, hc]
  exact ⟨rfl, rfl⟩

/-- A frame start puts the staged trim into effect (R82). -/
theorem startedAt_keepsTrim (first : Stamp) {s : State} (hw : s.working = true) : KeepsTrim s (startedAt first s) := by
  intro ⟨_, staged, integral, _⟩
  obtain ⟨line, settings⟩ := startedAt_line first s
  refine ⟨?_, ?_, ?_, fun start => absurd start (startedAt_leavesStart first hw)⟩ <;> rw [line, settings]
  · exact staged
  · exact staged
  · exact integral

theorem workingFrameStart_keepsTrim (first : Stamp) {s : State} (hw : s.working = true) :
    KeepsTrim s (workingFrameStart first s) := by
  have started : startedAt first s = takeReports (workingFrameStart first s) := rfl
  exact (started ▸ startedAt_keepsTrim first hw).before_reports

/-! ### The window completion -/

/-- The lock state's action steers within the limits, or keeps the trims, the integral term becoming 0 in a jump (R94, R97). -/
theorem lockStep_keepsTrim (m : Measurement) {s : State} (hw : s.working = true) : KeepsTrim s (lockStep m s) := by
  intro ⟨trim, staged, integral, _⟩
  have writes := lockStep_writes (u := s) m
  obtain ⟨l, x, ht⟩ := lockStep_frame m s
  rw [ht] at writes ⊢
  have inRange : trimInRange s.settings l.staged ∧ trimInRange s.settings l.integral := by
    obtain ⟨same, kept | zero⟩ | ⟨e, moved, summed⟩ := writes.trims
    · exact ⟨same ▸ staged, kept ▸ integral⟩
    · exact ⟨same ▸ staged, zero ▸ zero_inRange _⟩
    · exact moved ▸ summed ▸ steer_inRange trim s.tf e
  obtain ⟨stagedIn, integralIn⟩ := inRange
  exact ⟨writes.trim ▸ trim, stagedIn, integralIn, fun start => absurd start (ne_start_of_working hw)⟩

/-- A window completion the limits, or keeps the trims, the integral term becoming 0 in a jump (R94, R97). -/
theorem completeWindow_keepsTrim {s : State} (hw : s.working = true) : KeepsTrim s (completeWindow s) := by
  have completed : KeepsTrim s (s.withLine (completedLine s)) :=
    withLine_keepsTrim (completedLine_trim s) (completedLine_staged s) (completedLine_integral s)
  by_cases h : (measure s.line s.halfWidth).1.cls = .lineFault
  · rw [completeWindow_fault h]
    exact completed.trans (report_keepsTrim _ _ _ (s.withLine (moveLock .free (completedLine s))))
  · rw [completeWindow_lock h]
    exact completed.trans (lockStep_keepsTrim _ hw)

/-! ## Every command -/

/-- Every command keeps the trims sound. -/
theorem exec_keepsTrim {c : Instr} {s t : State} (h : exec c s = .next t) : KeepsTrim s t := by
  cases c with
  | powerOnReset straps => exact .of_finish (fun _ => startValues_trimSound _ _ _ _ _ _ _) h
  | warmReset straps => exact .of_finish (fun _ => startValues_trimSound _ _ _ _ _ _ _) h
  | imageHeaderCheck pattern version bodyLength crc imageId =>
    refine .of_finish (.ite (fun _ => ?_) (fun _ => .refl s)) h
    dsimp only
    split
    · exact (withLoader_keepsTrim s _).trans (failLoad_keepsTrim _ _)
    · exact KeepsTrim.refl s
  | sectionHeadCheck code length =>
    refine .of_finish (.ite (fun _ => ?_) (fun _ => .refl s)) h
    dsimp only
    split
    · exact (withLoader_keepsTrim s _).trans (failLoad_keepsTrim _ _)
    · exact KeepsTrim.refl s
  | settingsSectionEnd entries =>
    refine .of_finish (.ite (fun _ => ?_) (fun _ => .refl s)) h
    dsimp only
    split
    · exact (withLoader_keepsTrim s _).trans (failLoad_keepsTrim _ _)
    · obtain ⟨x, hx⟩ := foldl_faults (fun t c => report .loader .imageClamp c t) (fun _ _ => ⟨_, rfl⟩) (clampCodes entries) _
      rw [hx]
      exact KeepsTrim.refl s
  | tableEntryCheck entry =>
    refine .of_finish (.ite (fun _ => ?_) (fun _ => .refl s)) h
    dsimp only
    split
    · exact (withLoader_keepsTrim s _).trans (failLoad_keepsTrim _ _)
    · exact KeepsTrim.refl s
  | gridRecordCheck share white black count contributors =>
    refine .of_finish (.ite (fun _ => ?_) (fun _ => .refl s)) h
    split
    · exact (withLoader_keepsTrim s _).trans (failLoad_keepsTrim _ _)
    · exact ((withLoader_keepsTrim s _).trans (withPix_keepsTrim _ _)).trans (failLoadIf_keepsTrim _ _)
  | loadComplete =>
    refine .of_finish (.ite (fun read => ?_) (fun _ => .refl s)) h
    have start : s.inStart = true := by
      simp only [bodyRead, Bool.and_eq_true] at read
      exact read.1.1.1
    split
    · exact .ite (fun _ => completeLoad_keepsTrim _ start) (fun _ => failLoad_keepsTrim _ s)
    · exact .refl s
  | frameStart first =>
    refine .of_finish (.ite (fun _ => .refl s) fun _ => .ite (workingFrameStart_keepsTrim first) fun _ => ?_) h
    exact .ite (fun _ => withLine_keepsTrim rfl rfl rfl) (fun _ => .refl s)
  | frameLineRelease =>
    refine .of_finish ?_ h
    exact .ite (fun _ => withLine_keepsTrim rfl rfl rfl) (fun _ => .refl s)
  | frameLineEdge falling stamp =>
    refine .of_finish ?_ h
    exact withLine_keepsTrim rfl rfl rfl
  | boundsPassComplete =>
    refine .of_finish ?_ h
    split
    · exact .ite (fun _ => (completeBounds_keepsTrim _ s).trans (startJobs_keepsTrim _)) (fun _ => .refl s)
    · exact .refl s
  | coeffPassComplete =>
    refine .of_finish ?_ h
    split
    · exact .ite (fun _ => (completeCoeff_keepsTrim _ s).trans (startJobs_keepsTrim _)) (fun _ => .refl s)
    · exact .refl s
  | sendEvent =>
    refine .of_finish (.ite (fun _ => ?_) (fun _ => .refl s)) h
    refine KeepsTrim.trans (withLine_keepsTrim rfl rfl rfl) (.ite (fun _ => ?_) (fun _ => .refl _))
    obtain ⟨p, x, hq⟩ := queuePeriodic_frame (s.withLine { s.line with
      stamp := s.line.startStamp + BitVec.ofNat 32 (s.tf / 8), sendPending := false })
    rw [hq]
    exact KeepsTrim.refl (s.withLine _)
  | windowCompletion =>
    refine .of_finish (.ite (fun due => ?_) (fun _ => .refl s)) h
    exact completeWindow_keepsTrim (Bool.and_eq_true_iff.1 due).1
  | busIdleJoin =>
    refine .of_finish ?_ h
    exact .ite (fun _ => KeepsTrim.refl s) (fun _ => .refl s)
  | beginAttempt =>
    refine .of_finish ?_ h
    exact .ite (fun _ => KeepsTrim.refl s) (fun _ => .refl s)
  | lostArbitration =>
    refine .of_finish ?_ h
    split
    · exact .refl s
    · exact .ite (fun _ => KeepsTrim.refl s) (fun _ => KeepsTrim.refl s)
  | attemptFailed =>
    refine .of_finish ?_ h
    split
    · exact .refl s
    · exact .ite (fun _ => .of_port (failAttempt_frame _ s)) (fun _ => .of_port (failHaltedAttempt_frame _ s))
  | messageComplete =>
    refine .of_finish ?_ h
    split
    · exact .refl s
    · refine .ite (fun _ => ?_) (fun _ => KeepsTrim.refl s)
      exact ((withPort_keepsTrim s _).trans (takeBody_keepsTrim _ _ _)).trans (ownNotice_keepsTrim _ _)
  | stationClash frame => exact .of_finish (receiveFrame_keepsTrim _ s) h
  | foreignMessage frame => exact .of_finish (receiveFrame_keepsTrim _ s) h
  | receiveChange sender live reason subject epoch lam => exact .of_finish (receiveFrame_keepsTrim _ s) h
  | receiveLight sender epoch lam => exact .of_finish (receiveFrame_keepsTrim _ s) h
  | receivePulse sender condition driving heldValid frame held => exact .of_finish (receiveFrame_keepsTrim _ s) h
  | receiveBounds sender epochLow floor ceiling => exact .of_finish (receiveFrame_keepsTrim _ s) h
  | receiveLevels sender lam mNow target remaining => exact .of_finish (receiveFrame_keepsTrim _ s) h
  | showFade sender start target duration => exact .of_finish (receiveFrame_keepsTrim _ s) h
  | showIdentify sender start mask period on => exact .of_finish (receiveFrame_keepsTrim _ s) h
  | showIdentifyOff sender endFrame => exact .of_finish (receiveFrame_keepsTrim _ s) h
  | lanesActive =>
    refine .of_finish ?_ h
    exact .ite (fun _ => KeepsTrim.refl s) (fun _ => .refl s)
  | laneActivityLost lane received =>
    refine .of_finish (.ite (fun _ => ?_) (fun _ => .refl s)) h
    have down : LinkAlone s ((receiveBits received s).withLink
        { (receiveBits received s).link with state := .down, settleTimer := none }) :=
      (receiveBits_linkAlone received s).trans ⟨_, _, _, rfl⟩
    dsimp only
    split
    · exact .refl s
    · exact down.keepsTrim
    · exact down.keepsTrim
    · exact (leaveUp_linkAlone s).keepsTrim
  | settleExpiry =>
    refine .of_finish ?_ h
    exact .ite (fun _ => KeepsTrim.refl s) (fun _ => .refl s)
  | trainingDecision =>
    refine .of_finish (.ite (fun _ => ?_) (fun _ => .refl s)) h
    split
    · exact KeepsTrim.refl s
    · exact (linkUp_linkAlone s).keepsTrim
  | inputTimeout =>
    refine .of_finish (.ite (fun _ => ?_) (fun _ => .refl s)) h
    exact (report_keepsTrim _ _ _ s).trans (leaveUp_linkAlone _).keepsTrim
  | packetLost words => exact .of_finish (takeWords_linkAlone _ s).keepsTrim h
  | laneSkew words => exact .of_finish (takeWords_linkAlone _ s).keepsTrim h
  | frameStartPacket heads payload => exact .of_finish (takeWords_linkAlone _ s).keepsTrim h
  | linePacket heads payload => exact .of_finish (takeWords_linkAlone _ s).keepsTrim h
  | frameEndPacket heads payload => exact .of_finish (takeWords_linkAlone _ s).keepsTrim h
  | otherPacket heads kind payload => exact .of_finish (takeWords_linkAlone _ s).keepsTrim h
  | strayLinePacket heads frameEnd payload => exact .of_finish (takeWords_linkAlone _ s).keepsTrim h
  | memoryEcc line column =>
    refine .of_finish ?_ h
    split
    · split
      · refine .ite (fun _ => ?_) (fun _ => .refl s)
        obtain ⟨y, x, he⟩ := eccReport_frame (s.withStore (s.store.withError (pixelAddress ‹Nat› line column)))
        rw [he]
        exact KeepsTrim.refl s
      · exact .refl s
    · exact .refl s
  | lightSample value ahead =>
    have sample : ∀ v n, KeepsTrim s (takeSample v n s) := fun v n => by
      obtain ⟨w, x, hw⟩ := takeSample_frame v n s
      rw [hw]
      exact .refl s
    exact .of_finish (.ite (fun _ => .ite (fun _ => sample _ _) (fun _ => .ite (fun _ => sample _ _) (fun _ => .refl s)))
      (fun _ => .refl s)) h
  | selectCondition write => exact .of_finish (portWrite_keepsTrim _ _ _ s) h
  | selectInput write => exact .of_finish (portWrite_keepsTrim _ _ _ s) h
  | selectStore write => exact .of_finish (portWrite_keepsTrim _ _ _ s) h
  | selectLock write => exact .of_finish (portWrite_keepsTrim _ _ _ s) h
  | selectPeers write => exact .of_finish (portWrite_keepsTrim _ _ _ s) h
  | selectEpochs write => exact .of_finish (portWrite_keepsTrim _ _ _ s) h
  | selectLevels write => exact .of_finish (portWrite_keepsTrim _ _ _ s) h
  | selectFaults write => exact .of_finish (portWrite_keepsTrim _ _ _ s) h
  | selectCounters write => exact .of_finish (portWrite_keepsTrim _ _ _ s) h
  | selectImage write => exact .of_finish (portWrite_keepsTrim _ _ _ s) h
  | clearFaults write => exact .of_finish (portWrite_keepsTrim _ _ _ s) h
  | restart write straps => exact .of_finish (portWrite_keepsTrim _ _ _ s) h
  | attnMask write => exact .of_finish (portWrite_keepsTrim _ _ _ s) h
  | selectorRefused selector write => exact .of_finish (portWrite_keepsTrim _ _ _ s) h
  | syncRecognised lane bits0 bits1 bits2 bits3 =>
    exact .of_finish (.ite (fun _ => (receiveBits_linkAlone _ s).keepsTrim) (fun _ => .refl s)) h
  | warpMeshEntryRead sx sy =>
    refine .of_finish ?_ h
    exact .ite (fun _ => KeepsTrim.refl s) (fun _ => .refl s)

/-- Settles O8: a tick leaves the trims, and every command keeps them in range. -/
theorem trimStaysInRange : Obligations.TrimStaysInRange := by
  intro s t hs h
  obtain rfl | ⟨c, rest, run⟩ := step_cases h
  · exact withLine_keepsTrim rfl rfl rfl hs
  · exact exec_keepsTrim run hs

end Sys2Proof.Machine
end

section
/-!
PROOFS. The number, the trim and the exact moment of a frame start (O23).
-/
namespace Sys2Proof.Machine

/-! ## Numbers of stamps, as rationals (R82) -/

/-- The rational number of stamps that a fraction stands for. -/
def Fraction.value (x : Fraction) : ℚ := (x.num : ℚ) / x.den

theorem Fraction.add_value {x y : Fraction} (hx : 0 < x.den) (hy : 0 < y.den) : (x.add y).value = x.value + y.value := by
  have hx' : (x.den : ℚ) ≠ 0 := by positivity
  have hy' : (y.den : ℚ) ≠ 0 := by positivity
  unfold Fraction.value Fraction.add
  push_cast
  rw [div_add_div _ _ hx' hy']
  ring

/-- The rest that a split leaves is less than a whole stamp. -/
theorem Fraction.split_lt {x : Fraction} (hx : 0 < x.den) : x.split.2.num < x.split.2.den := by
  have divides : Nat.gcd (x.num % x.den) x.den ∣ x.num % x.den := Nat.gcd_dvd_left _ _
  have divides' : Nat.gcd (x.num % x.den) x.den ∣ x.den := Nat.gcd_dvd_right _ _
  exact Nat.div_lt_div_of_lt_of_dvd divides' (Nat.mod_lt _ hx)

/-- A split loses nothing: the whole stamps and the rest make up the number. -/
theorem Fraction.split_value {x : Fraction} (hx : 0 < x.den) : (x.split.1 : ℚ) + x.split.2.value = x.value := by
  have hx' : (x.den : ℚ) ≠ 0 := by positivity
  have reduced : x.split.2.value = ((x.num % x.den : Nat) : ℚ) / x.den := by
    have positive : ((Nat.gcd (x.num % x.den) x.den : Nat) : ℚ) ≠ 0 := by
      have := Nat.gcd_pos_of_pos_right (x.num % x.den) hx
      positivity
    unfold Fraction.value Fraction.split
    dsimp only
    rw [Nat.cast_div (Nat.gcd_dvd_left _ _) positive, Nat.cast_div (Nat.gcd_dvd_right _ _) positive,
      div_div_div_cancel_right₀ positive]
  have whole : (x.split.1 : ℚ) = ((x.num / x.den : Nat) : ℚ) := rfl
  have value : x.value = (x.num : ℚ) / x.den := rfl
  rw [reduced, whole, value, eq_div_iff hx', add_mul, div_mul_cancel₀ _ hx']
  exact_mod_cast Nat.div_add_mod' x.num x.den

/-- The length of a frame in stamps, moment (R82). -/
theorem frameLength_value (r : Raster) {trim : Int} (h : 0 < 2 ^ 24 + trim) : (frameLength r trim).value =
    100000000 * r.hTotal * r.vTotal * 2 ^ 24 / (r.f0 * (2 ^ 24 + (trim : ℚ))) := by
  have rate : (((2 ^ 24 + trim).toNat : Nat) : ℚ) = 2 ^ 24 + (trim : ℚ) := by
    have : (((2 ^ 24 + trim).toNat : Int) : ℚ) = ((2 ^ 24 + trim : Int) : ℚ) := by rw [Int.toNat_of_nonneg h.le]
    exact_mod_cast this
  unfold Fraction.value frameLength
  dsimp only
  rw [Nat.cast_mul r.f0, rate]
  push_cast
  rfl

/-! ## The moment of a frame start -/

section
variable {first : Stamp} {l : FrameLine}

/-- The first frame start after START comes at the command's stamp (R80, log 1). -/
theorem nextFrameMoment_first (h : l.firstDue = true) : nextFrameMoment first l = (first, ⟨0, 1⟩) := by
  simp [nextFrameMoment, h]

/-- A frame start after a jump comes at the jump's time (R94, log 11). -/
theorem nextFrameMoment_jumped {x : Stamp} (h : l.firstDue = false) (hx : l.nextStart = some x) :
    nextFrameMoment first l = (x, ⟨0, 1⟩) := by
  simp [nextFrameMoment, h, hx]

/-- Any other comes one frame length after the one before (R82). -/
theorem nextFrameMoment_length (h : l.firstDue = false) (hx : l.nextStart = none) (hd : 0 < l.startFrac.den)
    (hf : 0 < l.raster.f0) (ht : 0 < 2 ^ 24 + l.trim) : ∃ q : Nat,
      (nextFrameMoment first l).1 = l.startStamp + BitVec.ofNat 32 q ∧
      (nextFrameMoment first l).2.num < (nextFrameMoment first l).2.den ∧
      (q : ℚ) + (nextFrameMoment first l).2.value = l.startFrac.value + (frameLength l.raster l.trim).value := by
  let sum := l.startFrac.add (frameLength l.raster l.trim)
  have moment : nextFrameMoment first l = (l.startStamp + BitVec.ofNat 32 sum.split.1, sum.split.2) := by
    simp [nextFrameMoment, h, hx, sum]
  have length : 0 < (frameLength l.raster l.trim).den := Nat.mul_pos hf (by omega)
  have positive : 0 < sum.den := Nat.mul_pos hd length
  rw [moment]
  exact ⟨sum.split.1, rfl, Fraction.split_lt positive, by rw [Fraction.split_value positive, Fraction.add_value hd length]⟩

end

/-- Settles O23: the frame line unit after a frame start is that of `lineFrameStart`, at the moment of `nextFrameMoment`. -/
theorem frameStartNumbers : Obligations.FrameStartNumbers := by
  intro first s hw hr
  obtain ⟨line, -⟩ := startedAt_line first s
  refine ⟨_, exec_startedAt hw hr, ?_⟩
  rw [line]
  refine ⟨rfl, rfl, fun due => ?_, fun x due jumped => ?_, fun due free hd hf ht => ?_, rfl, rfl, rfl, rfl, rfl, rfl, rfl, rfl,
    rfl, rfl, rfl⟩
  · exact Prod.ext_iff.1 (nextFrameMoment_first due)
  · exact Prod.ext_iff.1 (nextFrameMoment_jumped due jumped)
  · have moment := nextFrameMoment_length (first := first) due free hd hf ht
    rw [frameLength_value _ ht] at moment
    exact moment

end Sys2Proof.Machine
end

section
/-!
PROOFS. The measurement of a window by its edges (R85 to R87), and what its completion records (O33).
-/
namespace Sys2Proof.Machine

/-! ## The edges of a window -/

/-- The edge lies in the window: from its opening to the close of its rising-edge part (R85). -/
def inWindow (l : FrameLine) (hw : Nat) (x : Edge) : Prop :=
  stampDiff l.windowOpen l.startStamp ≤ edgeRel l x ∧ edgeRel l x ≤ hw + pulseWidth

/-- The edge is a fall in the falling-edge part of the window (R85). -/
def fallsIn (l : FrameLine) (hw : Nat) (x : Edge) : Prop :=
  x.falling = true ∧ stampDiff l.windowOpen l.startStamp ≤ edgeRel l x ∧ edgeRel l x < hw

/-- The test by which the model takes the window's edges (`windowEdges`). -/
def windowTest (l : FrameLine) (hw : Nat) (x : Edge) : Bool :=
  decide (stampDiff l.windowOpen l.startStamp ≤ edgeRel l x ∧ edgeRel l x ≤ hw + pulseWidth)

theorem windowEdges_eq (l : FrameLine) (hw : Nat) : windowEdges l hw = l.edges.filter (windowTest l hw) := rfl

/-- The test by which the model passes over an edge before the first fall (`fromFirstFall`). -/
def passesOver (l : FrameLine) (hw : Nat) (x : Edge) : Bool := !(x.falling && decide (edgeRel l x < hw))

theorem fromFirstFall_eq (l : FrameLine) (hw : Nat) : fromFirstFall l hw = (windowEdges l hw).dropWhile (passesOver l hw) := rfl

section
variable {l : FrameLine} {hw : Nat}

theorem windowTest_iff {x : Edge} : windowTest l hw x = true ↔ inWindow l hw x := decide_eq_true_iff

/-- An edge of the window is passed over exactly when it is no fall of the falling-edge part. -/
theorem passesOver_iff {x : Edge} (h : inWindow l hw x) : passesOver l hw x = true ↔ ¬fallsIn l hw x := by
  simp [passesOver, fallsIn, h.1, imp_iff_not_or]

theorem fallsIn.inWindow {x : Edge} (h : fallsIn l hw x) : inWindow l hw x := by
  obtain ⟨-, opened, closed⟩ := h
  refine ⟨opened, ?_⟩
  unfold pulseWidth
  omega

theorem passesOver_of_not_fallsIn {es : List Edge} (h : ∀ x ∈ es, ¬fallsIn l hw x) :
    ∀ x ∈ es.filter (windowTest l hw), passesOver l hw x = true := by
  intro x hx
  obtain ⟨mem, test⟩ := List.mem_filter.1 hx
  exact (passesOver_iff (windowTest_iff.1 test)).2 (h x mem)

/-- With no fall in the falling-edge part, the window has no first fall. -/
theorem fromFirstFall_of_none (h : ∀ x ∈ l.edges, ¬fallsIn l hw x) : fromFirstFall l hw = [] := by
  rw [fromFirstFall_eq, windowEdges_eq, List.dropWhile_eq_nil_iff]
  exact passesOver_of_not_fallsIn h

/-- The first fall of the falling-edge part, and the window's edges behind it. -/
theorem fromFirstFall_of_fall {before behind : List Edge} {x : Edge} (he : l.edges = before ++ x :: behind)
    (hb : ∀ y ∈ before, ¬fallsIn l hw y) (hx : fallsIn l hw x) :
    fromFirstFall l hw = x :: behind.filter (windowTest l hw) := by
  have stops : ¬passesOver l hw x = true := fun c => (passesOver_iff hx.inWindow).1 c hx
  rw [fromFirstFall_eq, windowEdges_eq, he, List.filter_append, List.filter_cons_of_pos (windowTest_iff.2 hx.inWindow),
    List.dropWhile_append_of_pos (passesOver_of_not_fallsIn hb), List.dropWhile_cons_of_neg stops]

/-- The rises among the window's edges of a list. -/
def risesOf (l : FrameLine) (hw : Nat) (es : List Edge) : List Edge :=
  (es.filter (windowTest l hw)).filter (fun x => !x.falling)

theorem risesOf_eq_nil {es : List Edge} (h : ∀ x ∈ es, x.falling = false → ¬inWindow l hw x) : risesOf l hw es = [] := by
  unfold risesOf
  rw [List.filter_filter, List.filter_eq_nil_iff]
  intro x hx c
  obtain ⟨rises, test⟩ := Bool.and_eq_true_iff.1 c
  exact h x hx (by simpa using rises) (windowTest_iff.1 test)

/-- The last rise of a list in the window. -/
theorem risesOf_getLast {more rest : List Edge} {x : Edge} (hx : x.falling = false) (hin : inWindow l hw x)
    (hr : ∀ y ∈ rest, y.falling = false → ¬inWindow l hw y) :
    (risesOf l hw (more ++ x :: rest)).getLast? = some x := by
  have split : risesOf l hw (more ++ x :: rest) = risesOf l hw more ++ x :: risesOf l hw rest := by
    unfold risesOf
    rw [List.filter_append, List.filter_append, List.filter_cons_of_pos (windowTest_iff.2 hin),
      List.filter_cons_of_pos (by simp [hx])]
  rw [split, risesOf_eq_nil hr, List.getLast?_concat]

/-! ## The measurement (R86, R87) -/

/-- The measurement of a window whose first fall is `fall`, with the window's edges `rest` behind it. -/
theorem measure_of_fall {before behind : List Edge} {f : Stamp} (he : l.edges = before ++ ⟨true, f⟩ :: behind)
    (hb : ∀ y ∈ before, ¬fallsIn l hw y) (hf : fallsIn l hw ⟨true, f⟩) : measure l hw =
      match (risesOf l hw behind).getLast? with
      | none => (⟨.lineFault, some f, none, none⟩, 2)
      | some rise =>
        let span := edgeRel l rise - pulseWidth - edgeRel l ⟨true, f⟩
        if span < 0 then (⟨.noEdges, some f, some span, none⟩, 0)
        else (⟨.measured, some f, some span, some (-(edgeRel l ⟨true, f⟩ + span / 2))⟩, 0) := by
  unfold measure
  rw [fromFirstFall_of_fall he hb hf]
  rfl

/-- A fall with no rise behind it is a line fault of case 2 (R87). -/
theorem measure_of_fall_only {before behind : List Edge} {f : Stamp} (he : l.edges = before ++ ⟨true, f⟩ :: behind)
    (hb : ∀ y ∈ before, ¬fallsIn l hw y) (hf : fallsIn l hw ⟨true, f⟩)
    (hr : ∀ x ∈ behind, x.falling = false → ¬inWindow l hw x) :
    measure l hw = (⟨.lineFault, some f, none, none⟩, 2) := by
  rw [measure_of_fall he hb hf, risesOf_eq_nil hr]
  rfl

/-- A pulse from the first fall to the last rise behind it: its span, and its offset where the span is not negative (R86). -/
theorem measure_of_pulse {before more rest : List Edge} {f r : Stamp}
    (he : l.edges = before ++ ⟨true, f⟩ :: (more ++ ⟨false, r⟩ :: rest)) (hb : ∀ y ∈ before, ¬fallsIn l hw y)
    (hf : fallsIn l hw ⟨true, f⟩) (hin : inWindow l hw ⟨false, r⟩)
    (hr : ∀ x ∈ rest, x.falling = false → ¬inWindow l hw x) :
    let span := edgeRel l ⟨false, r⟩ - pulseWidth - edgeRel l ⟨true, f⟩
    (span < 0 → measure l hw = (⟨.noEdges, some f, some span, none⟩, 0)) ∧
      (0 ≤ span → measure l hw =
        (⟨.measured, some f, some span, some (-(edgeRel l ⟨true, f⟩ + span / 2))⟩, 0)) := by
  rw [measure_of_fall he hb hf, risesOf_getLast rfl hin hr]
  exact ⟨fun h => if_pos h, fun h => if_neg (not_lt.2 h)⟩

/-- The level at the opening is that after the last edge before it (R87). -/
theorem lowAtOpening_append {before behind : List Edge} (he : l.edges = before ++ behind)
    (hb : ∀ x ∈ before, edgeRel l x < stampDiff l.windowOpen l.startStamp)
    (ho : ∀ x ∈ behind, stampDiff l.windowOpen l.startStamp ≤ edgeRel l x) :
    lowAtOpening l = (before.getLast?.map (fun x => x.falling)).getD l.baseLow := by
  have early : l.edges.filter (fun x => decide (edgeRel l x < stampDiff l.windowOpen l.startStamp)) = before := by
    rw [he, List.filter_append, List.filter_eq_self.2 (fun x hx => decide_eq_true (hb x hx)),
      List.filter_eq_nil_iff.2 (fun x hx c => absurd (of_decide_eq_true c) (not_lt.2 (ho x hx))), List.append_nil]
  unfold lowAtOpening
  rw [early]
  cases before.getLast? <;> rfl

/-- The line is low throughout the window when it is low at the opening and no rise follows in the window (R87). -/
theorem lowThroughout_iff {before behind : List Edge} (he : l.edges = before ++ behind)
    (hb : ∀ x ∈ before, edgeRel l x < stampDiff l.windowOpen l.startStamp)
    (ho : ∀ x ∈ behind, stampDiff l.windowOpen l.startStamp ≤ edgeRel l x) :
    lowThroughout l hw = true ↔ (before.getLast?.map (fun x => x.falling)).getD l.baseLow = true ∧
      ∀ x ∈ behind, x.falling = false → ¬inWindow l hw x := by
  have outside : before.filter (windowTest l hw) = [] := List.filter_eq_nil_iff.2 fun x hx c =>
    absurd (windowTest_iff.1 c).1 (not_le.2 (hb x hx))
  unfold lowThroughout
  rw [lowAtOpening_append he hb ho, windowEdges_eq, he, List.filter_append, outside, List.nil_append, Bool.and_eq_true,
    List.all_eq_true]
  refine and_congr_right fun _ => ⟨fun all x hx rises hin => ?_, fun none x hx => ?_⟩
  · exact absurd (all x (List.mem_filter.2 ⟨hx, windowTest_iff.2 hin⟩)) (by rw [rises]; decide)
  · obtain ⟨mem, test⟩ := List.mem_filter.1 hx
    by_contra rises
    exact none x mem (Bool.eq_false_iff.2 rises) (windowTest_iff.1 test)

/-- A window with no fall in its falling-edge part, by the level and the driving flag (R87). -/
theorem measure_of_no_fall (h : ∀ x ∈ l.edges, ¬fallsIn l hw x) :
    (lowThroughout l hw = true → measure l hw = (⟨.lineFault, none, none, none⟩, 1)) ∧
      (lowThroughout l hw = false → l.driving = true → measure l hw = (⟨.lineFault, none, none, none⟩, 3)) ∧
      (lowThroughout l hw = false → l.driving = false → measure l hw = (⟨.noEdges, none, none, none⟩, 0)) := by
  have empty : measure l hw = emptyWindow l hw := by
    unfold measure
    rw [fromFirstFall_of_none h]
  rw [empty]
  unfold emptyWindow
  exact ⟨fun low => by simp [low], fun low drives => by simp [low, drives], fun low drives => by simp [low, drives]⟩

end

/-! ## What the completion records -/

section
variable {s : State}

/-- A completion leaves trim, number and driving flag, and records the measurement. -/
theorem completeWindow_line : (completeWindow s).line.windowPending = false ∧ (completeWindow s).line.trim = s.line.trim ∧
    (completeWindow s).line.frameNo = s.line.frameNo ∧ (completeWindow s).line.driving = s.line.driving ∧
    (completeWindow s).line.stamp = s.line.startStamp + BitVec.ofNat 32 (s.halfWidth + pulseWidth) ∧
    (completeWindow s).line.last = (measure s.line s.halfWidth).1 := by
  by_cases h : (measure s.line s.halfWidth).1.cls = .lineFault
  · rw [completeWindow_fault h]
    simp [moveLock]
  · rw [completeWindow_lock h, (lockStep_writes (u := s.withLine (completedLine s)) _).frame]
    simp

/-- A completion changes the frame line unit and the fault unit alone. -/
theorem takeReports_completeWindow_frame : takeReports (completeWindow s) = { s with
    line := (takeReports (completeWindow s)).line, faults := (takeReports (completeWindow s)).faults } := by
  obtain ⟨l, x, frame⟩ := completeWindow_frame s
  rw [takeReports_eq, frame]
  rfl

/-- The completion records the measurement (R86). -/
theorem completeWindow_records {m : Measurement} {n : Nat} (h : measure s.line s.halfWidth = (m, n)) :
    (takeReports (completeWindow s)).line.last = m := by
  obtain ⟨-, -, -, -, -, last⟩ := completeWindow_line (s := s)
  rw [takeReports_line, last, h]

end

/-- A completion of `s` in `t` is a line fault of case `n` with first fall `f`: the lock state is FREE with its counts 0, the trims
stay, and LINE_STUCK tells the case (R87, R88). -/
def Stuck (s t : State) (f : Option Stamp) (n : BitVec 16) : Prop :=
  t.line.last = ⟨.lineFault, f, none, none⟩ ∧ t.line.lock = .free ∧ t.line.near = 0 ∧ t.line.quiet = 0 ∧ t.line.inside = 0 ∧
    t.line.outside = 0 ∧ t.line.good = 0 ∧ t.line.staged = s.line.staged ∧ t.line.integral = s.line.integral ∧
    t.faults.last = some ⟨.lineStuck, s.line.frameNo, n⟩

section
variable {s : State} (hs : s.settled)
include hs

theorem completeWindow_stuck {f : Option Stamp} {n : Nat}
    (h : measure s.line s.halfWidth = (⟨.lineFault, f, none, none⟩, n)) :
    Stuck s (takeReports (completeWindow s)) f (BitVec.ofNat 16 n) := by
  have told : takeReports (completeWindow s) = reported .lineStuck n (s.withLine (moveLock .free (completedLine s))) := by
    rw [completeWindow_fault (by rw [h]), takeReports_report (by exact hs), h]
  refine ⟨completeWindow_records h, ?_⟩
  rw [told]
  simp [reported, moveLock]

/-- A window with no fall in its falling-edge part: `before` are the edges before its opening (R87). -/
theorem completeWindow_of_no_fall {before behind : List Edge} (he : s.line.edges = before ++ behind)
    (hb : ∀ x ∈ before, edgeRel s.line x < stampDiff s.line.windowOpen s.line.startStamp)
    (ho : ∀ x ∈ behind, stampDiff s.line.windowOpen s.line.startStamp ≤ edgeRel s.line x ∧
      ¬fallsIn s.line s.halfWidth x) :
    let low := (before.getLast?.map (fun x => x.falling)).getD s.line.baseLow = true ∧
      ∀ x ∈ behind, x.falling = false → ¬inWindow s.line s.halfWidth x
    let t := takeReports (completeWindow s)
    (low → Stuck s t none 1) ∧ (¬low → s.line.driving = true → Stuck s t none 3) ∧
      (¬low → s.line.driving = false → t.line.last = ⟨.noEdges, none, none, none⟩) := by
  intro low t
  have noFall : ∀ x ∈ s.line.edges, ¬fallsIn s.line s.halfWidth x := by
    intro x hx fell
    rw [he] at hx
    obtain early | late := List.mem_append.1 hx
    · exact absurd fell.inWindow.1 (not_le.2 (hb x early))
    · exact (ho x late).2 fell
  obtain ⟨one, three, silent⟩ := measure_of_no_fall noFall
  have lowIff : lowThroughout s.line s.halfWidth = true ↔ low := lowThroughout_iff he hb fun x hx => (ho x hx).1
  have notLow : ¬low → lowThroughout s.line s.halfWidth = false := fun h => Bool.eq_false_iff.2 (mt lowIff.1 h)
  exact ⟨fun h => completeWindow_stuck hs (one (lowIff.2 h)),
    fun h drives => completeWindow_stuck hs (three (notLow h) drives),
    fun h drives => completeWindow_records (silent (notLow h) drives)⟩

end

/-! ## The obligation -/

/-- Settles O33: the measurement is that of the edges, and the completion records it or makes the lock state FREE. The windows with
no edge, one fall or one pulse are cases of those with several. -/
theorem windowCompletes : Obligations.WindowCompletes := by
  intro s hs hw hp opening close rel
  obtain ⟨pending, trim, number, driving, stamp, -⟩ := completeWindow_line (s := s)
  rw [← takeReports_line (completeWindow s)] at pending trim number driving stamp
  let within : Edge → Prop := fun x => opening ≤ rel x.stamp ∧ rel x.stamp ≤ close + 2000
  let falls : Edge → Prop := fun x => x.falling = true ∧ opening ≤ rel x.stamp ∧ rel x.stamp < close
  have half : ((s.halfWidth : Nat) : Int) = close := Int.natCast_ediv _ _
  have inside : inWindow s.line s.halfWidth = within := by
    unfold inWindow
    rw [half]
    rfl
  have falling : fallsIn s.line s.halfWidth = falls := by
    unfold fallsIn
    rw [half]
    rfl
  have fall := fun (before behind : List Edge) (f : Stamp) => measure_of_fall_only (l := s.line) (hw := s.halfWidth)
    (before := before) (behind := behind) (f := f)
  have pulse := fun (before more rest : List Edge) (f r : Stamp) => measure_of_pulse (l := s.line) (hw := s.halfWidth)
    (before := before) (more := more) (rest := rest) (f := f) (r := r)
  have empty := fun (before behind : List Edge) => completeWindow_of_no_fall hs (before := before) (behind := behind)
  rw [inside, falling] at fall pulse empty
  refine ⟨_, exec_windowCompletion hw hp, pending, trim, number, driving, stamp, takeReports_completeWindow_frame,
    fun he low => ?_, fun he high drives => ?_, fun he high drives => ?_, fun f he hf hf' => ?_,
    fun f r he hf hf' hr hr' => ?_, fun before behind f he hb hf => ⟨fun hr => ?_, ?_⟩, empty⟩
  · exact (empty [] [] he nofun nofun).1 ⟨low, nofun⟩
  · exact (empty [] [] he nofun nofun).2.1 (fun h => by simp [high] at h) drives
  · exact (empty [] [] he nofun nofun).2.2 (fun h => by simp [high] at h) drives
  · exact completeWindow_stuck hs (fall [] [] f he nofun ⟨rfl, hf, hf'⟩ nofun)
  · obtain ⟨short, long⟩ := pulse [] [] [] f r he nofun ⟨rfl, hf, hf'⟩ ⟨hr, hr'⟩ nofun
    exact ⟨fun h => completeWindow_records (short h), fun h => completeWindow_records (long h)⟩
  · exact completeWindow_stuck hs (fall before behind f he hb hf hr)
  · rintro more rest r rfl hin hrest
    obtain ⟨short, long⟩ := pulse before more rest f r he hb hf hin hrest
    exact ⟨fun h => completeWindow_records (short h), fun h => completeWindow_records (long h)⟩

end Sys2Proof.Machine
end

section
/-!
PROOFS. The moves of the lock state at a completion that is no line fault (O34).
-/
namespace Sys2Proof.Machine

/-! ## What a completion can do, in the terms of R86 to R97 -/

/-- The trims, the time of the next frame start and the jump wait stay. -/
def HoldsTrims (u t : State) : Prop :=
  t.line.integral = u.line.integral ∧ t.line.staged = u.line.staged ∧ t.line.nextStart = u.line.nextStart ∧
    t.line.jumpWait = u.line.jumpWait

/-- All five counts are 0 (R88). -/
def Cleared (t : State) : Prop :=
  t.line.near = 0 ∧ t.line.quiet = 0 ∧ t.line.inside = 0 ∧ t.line.outside = 0 ∧ t.line.good = 0

/-- The lock state moves to `x` (R88). -/
def GoesTo (x : LockState) (t : State) : Prop := t.line.lock = x ∧ Cleared t

/-- The station steers from offset `e` (R96, R97). -/
def Steers (e : Int) (u t : State) : Prop :=
  let most : Int := roundDiv (u.settings.pullRange * 2 ^ 24) 1000000
  let i := clampInt most (u.line.integral + truncDiv (roundDivInt (e * 2 ^ 24) u.tf) 64)
  t.line.integral = i ∧ t.line.nextStart = u.line.nextStart ∧ t.line.jumpWait = u.line.jumpWait ∧
    t.line.staged = u.line.trim +
      clampInt u.settings.slew (clampInt most (i + truncDiv (roundDivInt (e * 2 ^ 24) u.tf) 8) - u.line.trim)

/-- LAST holds a report of kind `k` with the detail of offset `e` (R91, R92, R94). -/
def Told (k : FaultKind) (e : Int) (u t : State) : Prop :=
  t.faults.last = some ⟨k, u.line.frameNo, BitVec.ofNat 16 (min (e.natAbs / 64) 65535)⟩

/-- The station jumps from offset `e` (R94). -/
def Jumps (e : Int) (u t : State) : Prop :=
  t.line.lock = .listen ∧ t.line.near = 0 ∧ t.line.quiet = 0 ∧ t.line.integral = 0 ∧ t.line.staged = u.line.staged ∧
    t.line.jumpWait = 2 + u.own ∧ Told .frameJump e u t ∧
    t.line.nextStart = some (u.line.startStamp + BitVec.ofInt 32
      (if (u.tf : Int) - e ≤ u.tf / 2 + 2000 then 2 * u.tf - e else u.tf - e))

section
variable {u : State} (hs : u.settled)
include hs

/-- A write of the frame line unit makes no report. -/
theorem takeReports_withLine (l : FrameLine) : takeReports (u.withLine l) = u.withLine l := takeReports_of_settled hs

/-- A write of the frame line unit with one report. -/
theorem takeReports_told (k : FaultKind) (d : Nat) (l : FrameLine) :
    takeReports (report .frameLine k d (u.withLine l)) = reported k d (u.withLine l) := takeReports_report (by exact hs) _ _ _

theorem jump_jumps (e : Int) : Jumps e u (takeReports (jump e u)) ∧
    (u.line.lock ≠ .listen → Cleared (takeReports (jump e u))) := by
  have half : ((u.halfWidth : Nat) : Int) = (u.tf : Int) / 2 := Int.natCast_ediv _ _
  have next : (jumpLine u.tf u.halfWidth u.own e u.line).nextStart = some (u.line.startStamp + BitVec.ofInt 32
      (if (u.tf : Int) - e ≤ u.tf / 2 + 2000 then 2 * u.tf - e else u.tf - e)) := by
    unfold jumpLine pulseWidth
    dsimp only
    rw [half]
    rfl
  have out := takeReports_told hs .frameJump (offsetDetail e)
    (if u.line.lock = .listen then jumpLine u.tf u.halfWidth u.own e u.line
      else moveLock .listen (jumpLine u.tf u.halfWidth u.own e u.line))
  have jumped : takeReports (jump e u) = _ := out
  rw [jumped]
  by_cases h : u.line.lock = .listen
  · rw [if_pos h]
    exact ⟨⟨h, rfl, rfl, rfl, rfl, rfl, rfl, next⟩, fun other => absurd h other⟩
  · rw [if_neg h]
    exact ⟨⟨rfl, rfl, rfl, rfl, rfl, rfl, rfl, next⟩, fun _ => ⟨rfl, rfl, rfl, rfl, rfl⟩⟩

end

theorem far_iff {u : State} {e : Int} : u.far e = true ↔ u.tf / 16 < e.natAbs := by
  unfold State.far State.jumpLimit
  rw [decide_eq_true_iff, Nat.cast_lt]

/-! ## Each lock state's action -/

section
variable {l : FrameLine}

theorem listenMoves_pulling (hj : l.jumpWait = 0) (hn : 4 ≤ l.near) : listenMoves l = moveLock .pulling l := by
  simp [listenMoves, hj, hn]

theorem listenMoves_alone (hj : l.jumpWait = 0) (hn : l.near < 4) (hq : 8 ≤ l.quiet) :
    listenMoves l = moveLock .alone l := by
  simp [listenMoves, hj, not_le.2 hn, hq]

theorem listenMoves_stays (h : ¬(l.jumpWait = 0 ∧ (4 ≤ l.near ∨ 8 ≤ l.quiet))) : listenMoves l = l := by
  unfold listenMoves
  split_ifs with free near quiet
  · exact absurd ⟨free, .inl near⟩ h
  · exact absurd ⟨free, .inr quiet⟩ h
  · rfl
  · rfl

end

section
variable {u : State} (hs : u.settled) {m : Measurement} {width e : Int}
include hs

theorem takeReports_of_withLine {v : State} {l : FrameLine} (h : v = u.withLine l) : takeReports v = u.withLine l := by
  rw [h, takeReports_withLine hs]

theorem takeReports_of_told {v : State} {k : FaultKind} {d : Nat} {l : FrameLine}
    (h : v = report .frameLine k d (u.withLine l)) : takeReports v = reported k d (u.withLine l) := by
  rw [h, takeReports_told hs]

/-- LISTEN without edges counts quiet, and goes to ALONE at the eighth once the jump wait is over (R89, R95). -/
theorem listen_noEdges (hl : u.line.lock = .listen) (hc : m.cls = .noEdges) :
    let t := takeReports (lockStep m u)
    HoldsTrims u t ∧ t.faults = u.faults ∧ (u.line.jumpWait = 0 ∧ 8 ≤ u.line.quiet + 1 → GoesTo .alone t) ∧
      (¬(u.line.jumpWait = 0 ∧ 8 ≤ u.line.quiet + 1) →
        t.line.lock = u.line.lock ∧ t.line.quiet = u.line.quiet + 1 ∧ t.line.near = 0) := by
  have step : lockStep m u = u.withLine (listenMoves { u.line with quiet := u.line.quiet + 1, near := 0 }) := by
    simp [lockStep, hl, listenStep, hc]
  rw [takeReports_of_withLine hs step]
  by_cases h : u.line.jumpWait = 0 ∧ 8 ≤ u.line.quiet + 1
  · rw [listenMoves_alone (l := { u.line with quiet := u.line.quiet + 1, near := 0 }) h.1 (Nat.zero_lt_succ 3) h.2]
    exact ⟨⟨rfl, rfl, rfl, rfl⟩, rfl, fun _ => ⟨rfl, rfl, rfl, rfl, rfl, rfl⟩, fun c => absurd h c⟩
  · rw [listenMoves_stays (l := { u.line with quiet := u.line.quiet + 1, near := 0 }) fun c =>
      h ⟨c.1, c.2.resolve_left (Nat.not_succ_le_zero 3)⟩]
    exact ⟨⟨rfl, rfl, rfl, rfl⟩, rfl, fun c => absurd c h, fun _ => ⟨rfl, rfl, rfl⟩⟩

/-- LISTEN at a measured window jumps from far off, and otherwise counts near, and goes to PULLING at the fourth once the jump wait
is over (R89, R95). -/
theorem listen_measured (hl : u.line.lock = .listen) (hc : m.cls = .measured) (he : m.e = some e) :
    let t := takeReports (lockStep m u)
    (u.tf / 16 < e.natAbs → Jumps e u t) ∧
      (¬u.tf / 16 < e.natAbs → HoldsTrims u t ∧ t.faults = u.faults ∧
        (u.line.jumpWait = 0 ∧ 4 ≤ u.line.near + 1 → GoesTo .pulling t) ∧
        (¬(u.line.jumpWait = 0 ∧ 4 ≤ u.line.near + 1) →
          t.line.lock = u.line.lock ∧ t.line.near = u.line.near + 1 ∧ t.line.quiet = 0)) := by
  have step : lockStep m u = if u.far e then jump e u
      else u.withLine (listenMoves { u.line with near := u.line.near + 1, quiet := 0 }) := by
    simp [lockStep, hl, listenStep, hc, he]
  refine ⟨fun far => ?_, fun close => ?_⟩
  · rw [step, if_pos (far_iff.2 far)]
    exact (jump_jumps hs e).1
  rw [takeReports_of_withLine hs (step.trans (if_neg (mt far_iff.1 close)))]
  by_cases h : u.line.jumpWait = 0 ∧ 4 ≤ u.line.near + 1
  · rw [listenMoves_pulling (l := { u.line with near := u.line.near + 1, quiet := 0 }) h.1 h.2]
    exact ⟨⟨rfl, rfl, rfl, rfl⟩, rfl, fun _ => ⟨rfl, rfl, rfl, rfl, rfl, rfl⟩, fun c => absurd h c⟩
  · rw [listenMoves_stays (l := { u.line with near := u.line.near + 1, quiet := 0 }) fun c =>
      h ⟨c.1, c.2.resolve_right (Nat.not_succ_le_zero 7)⟩]
    exact ⟨⟨rfl, rfl, rfl, rfl⟩, rfl, fun c => absurd c h, fun _ => ⟨rfl, rfl, rfl⟩⟩

/-- A window without edges leaves a driving station's lock state and sets its inside and outside counts to 0 (R86). -/
theorem driving_noEdges (hl : u.line.lock = .alone ∨ u.line.lock = .pulling ∨ u.line.lock = .locked)
    (hc : m.cls = .noEdges) :
    let t := takeReports (lockStep m u)
    HoldsTrims u t ∧ t.faults = u.faults ∧ t.line.lock = u.line.lock ∧ t.line.inside = 0 ∧ t.line.outside = 0 := by
  have step : lockStep m u = u.withLine { u.line with inside := 0, outside := 0 } := by
    rcases hl with hl | hl | hl <;> simp [lockStep, hl, hc, quietDriving]
  rw [takeReports_of_withLine hs step]
  exact ⟨⟨rfl, rfl, rfl, rfl⟩, rfl, rfl, rfl, rfl⟩

/-- FREE counts good windows, and leaves at the eighth, to PULLING from LIVE and else to LISTEN (R93). -/
theorem free_moves (hl : u.line.lock = .free) :
    let t := takeReports (lockStep m u)
    HoldsTrims u t ∧ t.faults = u.faults ∧ (8 ≤ u.line.good + 1 → u.ctl.condition = .live → GoesTo .pulling t) ∧
      (8 ≤ u.line.good + 1 → ¬u.ctl.condition = .live → GoesTo .listen t) ∧
      (u.line.good + 1 < 8 → t.line.lock = u.line.lock ∧ t.line.good = u.line.good + 1) := by
  have step : lockStep m u = if 8 ≤ u.line.good + 1 then
      u.withLine (moveLock (if u.ctl.condition = .live then .pulling else .listen) u.line)
      else u.withLine { u.line with good := u.line.good + 1 } := by
    simp only [lockStep, hl, freeStep]
  by_cases h : 8 ≤ u.line.good + 1
  · rw [takeReports_of_withLine hs (step.trans (if_pos h))]
    exact ⟨⟨rfl, rfl, rfl, rfl⟩, rfl, fun _ live => ⟨if_pos live, rfl, rfl, rfl, rfl, rfl⟩,
      fun _ other => ⟨if_neg other, rfl, rfl, rfl, rfl, rfl⟩, fun c => absurd h (not_le.2 c)⟩
  · rw [takeReports_of_withLine hs (step.trans (if_neg h))]
    exact ⟨⟨rfl, rfl, rfl, rfl⟩, rfl, fun c => absurd c h, fun c => absurd c h, fun _ => ⟨rfl, rfl⟩⟩

/-- ALONE steers, and goes to PULLING where the pulse is not its own; from far off a station that is not LIVE jumps (R90). -/
theorem alone_moves (hl : u.line.lock = .alone) (hc : m.cls = .measured) (hw : m.span = some width) (he : m.e = some e) :
    let t := takeReports (lockStep m u)
    (width = 0 → Steers e u t ∧ t.faults = u.faults ∧ t.line.lock = u.line.lock) ∧
      (width ≠ 0 → ¬u.tf / 16 < e.natAbs → Steers e u t ∧ t.faults = u.faults ∧ GoesTo .pulling t) ∧
      (width ≠ 0 → u.tf / 16 < e.natAbs → u.ctl.condition = .live →
        Steers e u t ∧ Told .farPhase e u t ∧ GoesTo .pulling t) ∧
      (width ≠ 0 → u.tf / 16 < e.natAbs → ¬u.ctl.condition = .live → Jumps e u t ∧ Cleared t) := by
  have step : lockStep m u = aloneStep width e u := by simp only [lockStep, hl, hc, hw, he]
  refine ⟨fun own => ?_, fun other close => ?_, fun other far live => ?_, fun other far still => ?_⟩
  · have steered : aloneStep width e u = u.withLine (steer u.tf u.settings e u.line) := by
      simp [aloneStep, own, steerStep]
    rw [takeReports_of_withLine hs (step.trans steered)]
    exact ⟨⟨rfl, rfl, rfl, rfl⟩, rfl, rfl⟩
  · have pulls : aloneStep width e u = u.withLine (moveLock .pulling (steer u.tf u.settings e u.line)) := by
      simp [aloneStep, other, mt far_iff.1 close, steerStep, withLine_withLine]
    rw [takeReports_of_withLine hs (step.trans pulls)]
    exact ⟨⟨rfl, rfl, rfl, rfl⟩, rfl, rfl, rfl, rfl, rfl, rfl, rfl⟩
  · have pulls : aloneStep width e u = report .frameLine .farPhase (offsetDetail e)
        (u.withLine (moveLock .pulling (steer u.tf u.settings e u.line))) := by
      simp [aloneStep, other, far_iff.2 far, live, steerStep, withLine_withLine]
    rw [takeReports_of_told hs (step.trans pulls)]
    exact ⟨⟨rfl, rfl, rfl, rfl⟩, rfl, rfl, rfl, rfl, rfl, rfl, rfl⟩
  · have jumps : aloneStep width e u = jump e u := by simp [aloneStep, other, far_iff.2 far, still]
    rw [step, jumps]
    obtain ⟨jumped, cleared⟩ := jump_jumps hs e
    exact ⟨jumped, cleared (by rw [hl]; decide)⟩

/-- PULLING steers and counts the windows inside the lock window, and goes to LOCKED at the eighth; from far off a station that is not
LIVE jumps (R91). -/
theorem pulling_moves (hl : u.line.lock = .pulling) (hc : m.cls = .measured) (he : m.e = some e) :
    let t := takeReports (lockStep m u)
    (u.tf / 16 < e.natAbs → u.ctl.condition = .live → Steers e u t ∧ Told .farPhase e u t ∧
        t.line.lock = u.line.lock ∧ t.line.inside = 0) ∧
      (u.tf / 16 < e.natAbs → ¬u.ctl.condition = .live → Jumps e u t ∧ Cleared t) ∧
      (¬u.tf / 16 < e.natAbs → Steers e u t ∧ t.faults = u.faults ∧
        (e.natAbs ≤ u.settings.lockWindow → 8 ≤ u.line.inside + 1 → GoesTo .locked t) ∧
        (e.natAbs ≤ u.settings.lockWindow → u.line.inside + 1 < 8 →
          t.line.lock = u.line.lock ∧ t.line.inside = u.line.inside + 1) ∧
        (u.settings.lockWindow < e.natAbs → t.line.lock = u.line.lock ∧ t.line.inside = 0)) := by
  have step : lockStep m u = pullingStep e u := by simp only [lockStep, hl, hc, he]
  refine ⟨fun far live => ?_, fun far still => ?_, fun close => ?_⟩
  · have steered : pullingStep e u = report .frameLine .farPhase (offsetDetail e)
        (u.withLine { steer u.tf u.settings e u.line with inside := 0 }) := by
      simp [pullingStep, far_iff.2 far, live, steerStep, withLine_withLine]
    rw [takeReports_of_told hs (step.trans steered)]
    exact ⟨⟨rfl, rfl, rfl, rfl⟩, rfl, rfl, rfl⟩
  · have jumps : pullingStep e u = jump e u := by simp [pullingStep, far_iff.2 far, still]
    rw [step, jumps]
    obtain ⟨jumped, cleared⟩ := jump_jumps hs e
    exact ⟨jumped, cleared (by rw [hl]; decide)⟩
  have near : ¬u.far e = true := mt far_iff.1 close
  by_cases inside : e.natAbs ≤ u.settings.lockWindow
  · by_cases eight : 8 ≤ u.line.inside + 1
    · have locks : pullingStep e u = u.withLine (moveLock .locked (steer u.tf u.settings e u.line)) := by
        unfold pullingStep
        rw [if_neg near]
        dsimp only
        rw [if_pos inside, if_pos (by exact eight)]
        rfl
      rw [takeReports_of_withLine hs (step.trans locks)]
      exact ⟨⟨rfl, rfl, rfl, rfl⟩, rfl, fun _ _ => ⟨rfl, rfl, rfl, rfl, rfl, rfl⟩, fun _ c => absurd eight (not_le.2 c),
        fun c => absurd inside (not_le.2 c)⟩
    · have counts : pullingStep e u = u.withLine { steer u.tf u.settings e u.line with inside := u.line.inside + 1 } := by
        unfold pullingStep
        rw [if_neg near]
        dsimp only
        rw [if_pos inside, if_neg (by exact eight)]
        rfl
      rw [takeReports_of_withLine hs (step.trans counts)]
      exact ⟨⟨rfl, rfl, rfl, rfl⟩, rfl, fun _ c => absurd c eight, fun _ _ => ⟨rfl, rfl⟩, fun c => absurd inside (not_le.2 c)⟩
  · have clears : pullingStep e u = u.withLine { steer u.tf u.settings e u.line with inside := 0 } := by
      unfold pullingStep
      rw [if_neg near]
      dsimp only
      rw [if_neg inside]
      rfl
    rw [takeReports_of_withLine hs (step.trans clears)]
    exact ⟨⟨rfl, rfl, rfl, rfl⟩, rfl, fun c => absurd c inside, fun c => absurd c inside, fun _ => ⟨rfl, rfl⟩⟩

/-- LOCKED steers and counts the windows outside the lock window, and goes back to PULLING at the third, or at one far outside
(R92). -/
theorem locked_moves (hl : u.line.lock = .locked) (hc : m.cls = .measured) (he : m.e = some e) :
    let t := takeReports (lockStep m u)
    let lost := 3 ≤ u.line.outside + 1 ∨ 4 * u.settings.lockWindow < e.natAbs
    Steers e u t ∧
      (e.natAbs ≤ u.settings.lockWindow → t.faults = u.faults ∧ t.line.lock = u.line.lock ∧ t.line.outside = 0) ∧
      (u.settings.lockWindow < e.natAbs → lost → Told .lockLost e u t ∧ GoesTo .pulling t) ∧
      (u.settings.lockWindow < e.natAbs → ¬lost →
        t.faults = u.faults ∧ t.line.lock = u.line.lock ∧ t.line.outside = u.line.outside + 1) := by
  have step : lockStep m u = lockedStep e u := by simp only [lockStep, hl, hc, he]
  intro t lost
  by_cases inside : e.natAbs ≤ u.settings.lockWindow
  · have clears : lockedStep e u = u.withLine { steer u.tf u.settings e u.line with outside := 0 } := by
      unfold lockedStep
      dsimp only
      rw [if_pos inside]
      rfl
    have out : t = _ := takeReports_of_withLine hs (step.trans clears)
    rw [out]
    exact ⟨⟨rfl, rfl, rfl, rfl⟩, fun _ => ⟨rfl, rfl, rfl⟩, fun c => absurd inside (not_le.2 c),
      fun c => absurd inside (not_le.2 c)⟩
  · by_cases loses : lost
    · have pulls : lockedStep e u = report .frameLine .lockLost (offsetDetail e)
          (u.withLine (moveLock .pulling (steer u.tf u.settings e u.line))) := by
        unfold lockedStep
        dsimp only
        rw [if_neg inside, if_pos (by exact loses)]
        rfl
      have out : t = _ := takeReports_of_told hs (step.trans pulls)
      rw [out]
      exact ⟨⟨rfl, rfl, rfl, rfl⟩, fun c => absurd c inside, fun _ _ => ⟨rfl, rfl, rfl, rfl, rfl, rfl, rfl⟩,
        fun _ c => absurd loses c⟩
    · have counts : lockedStep e u = u.withLine { steer u.tf u.settings e u.line with outside := u.line.outside + 1 } := by
        unfold lockedStep
        dsimp only
        rw [if_neg inside, if_neg (by exact loses)]
        rfl
      have out : t = _ := takeReports_of_withLine hs (step.trans counts)
      rw [out]
      exact ⟨⟨rfl, rfl, rfl, rfl⟩, fun c => absurd c inside, fun _ c => absurd c loses, fun _ _ => ⟨rfl, rfl, rfl⟩⟩

end

/-! ## The obligation -/

/-- The completion itself writes of the frame line unit the stamp, the measurement, the window's mark and the edges alone. -/
theorem completedLine_frame (s : State) : ∃ stamp edges low, completedLine s = { s.line with
    stamp := stamp, last := (measure s.line s.halfWidth).1, windowPending := false, edges := edges, baseLow := low } := by
  unfold completedLine
  exact ⟨_, _, _, rfl⟩

/-- Settles O34: each lock state moves as its own lemma says, from the frame line unit of the completion. -/
theorem lockMoves : Obligations.LockMoves := by
  intro s hs hw hp m l window live hm
  obtain ⟨-, -, -, -, -, last⟩ := completeWindow_line (s := s)
  rw [← takeReports_line (completeWindow s)] at last
  refine ⟨_, exec_windowCompletion hw hp, last, ?_⟩
  rw [completeWindow_lock hm]
  obtain ⟨stamp, edges, low, completed⟩ := completedLine_frame s
  rw [completed]
  have settled : (s.withLine { s.line with
    stamp := stamp, last := m, windowPending := false, edges := edges, baseLow := low }).settled := hs
  refine ⟨fun hc => ?_, fun hl => ?_, fun width e hc hsp he => ⟨fun hl => ?_, fun hl => ?_, fun hl => ?_, fun hl => ?_⟩⟩
  · refine ⟨?_, fun hl => ?_, fun hl => ?_⟩
    · cases hl : s.line.lock with
      | listen => exact (listen_noEdges settled hl hc).1
      | alone => exact (driving_noEdges settled (.inl hl) hc).1
      | pulling => exact (driving_noEdges settled (.inr (.inl hl)) hc).1
      | locked => exact (driving_noEdges settled (.inr (.inr hl)) hc).1
      | free => exact (free_moves settled hl).1
    · exact (listen_noEdges settled hl hc).2
    · exact (driving_noEdges settled hl hc).2
  · exact free_moves settled hl
  · exact listen_measured settled hl hc he
  · exact alone_moves settled hl hc hsp he
  · exact pulling_moves settled hl hc he
  · exact locked_moves settled hl hc he

end Sys2Proof.Machine
end

section
/-!
PROOFS. A message read back from its frame (O41).
-/
namespace Sys2Proof.Machine

/-- A payload holds at most 8 bytes (R105). -/
theorem payload_length_le (b : Body) : (payload b).length ≤ 8 := by
  cases b <;> simp [payload, bytes16, bytes24, bytes32]

/-- The length code of a message's frame is the length of its data, of at most 8 bytes (R100, R105). -/
theorem messageFrame_wellFormed (m : Message) : (messageFrame m).wellFormed = true := by
  have short := payload_length_le m.body
  have code : (BitVec.ofNat 4 (payload m.body).length).toNat = (payload m.body).length := by
    rw [BitVec.toNat_ofNat]
    exact Nat.mod_eq_of_lt (by omega)
  simp [BusFrame.wellFormed, messageFrame, code, short]

/-- Settles O41: the frame is read back by `frameMessage_messageFrame`, and its data fits its length code. -/
theorem messageRoundTrip : Obligations.MessageRoundTrip :=
  fun m h => ⟨frameMessage_messageFrame h, messageFrame_wellFormed m⟩

end Sys2Proof.Machine
end

section
/-!
PROOFS. How an attempt begins, is lost and fails (O49).
-/
namespace Sys2Proof.Machine

/-! ## The message that the port offers (R115) -/

theorem lowerIdentifier_spec (a b : Message) : (lowerIdentifier a b = a ∨ lowerIdentifier a b = b) ∧
    (identifier (lowerIdentifier a b)).toNat ≤ (identifier a).toNat ∧
    (identifier (lowerIdentifier a b)).toNat ≤ (identifier b).toNat := by
  unfold lowerIdentifier
  split_ifs with lower
  · exact ⟨.inr rfl, lower.le, le_rfl⟩
  · exact ⟨.inl rfl, le_rfl, not_lt.1 lower⟩

/-- The message chosen is one of those compared, and none of them has a lower identifier. -/
theorem foldl_lowerIdentifier_spec (l : List Message) (m : Message) : l.foldl lowerIdentifier m ∈ m :: l ∧
    ∀ x ∈ m :: l, (identifier (l.foldl lowerIdentifier m)).toNat ≤ (identifier x).toNat := by
  induction l generalizing m with
  | nil => simp
  | cons a rest ih =>
    obtain ⟨chosen, lowest⟩ := ih (lowerIdentifier m a)
    obtain ⟨either, le_m, le_a⟩ := lowerIdentifier_spec m a
    have below := lowest _ List.mem_cons_self
    rw [List.foldl_cons]
    refine ⟨?_, fun x hx => ?_⟩
    · obtain first | later := List.mem_cons.1 chosen
      · rw [first]
        obtain h | h := either <;> simp [h]
      · simp [later]
    · obtain rfl | hx := List.mem_cons.1 hx
      · exact below.trans le_m
      obtain rfl | hx := List.mem_cons.1 hx
      · exact below.trans le_a
      · exact lowest x (List.mem_cons_of_mem _ hx)

/-- A port with a head offers one of lowest identifier (R115). -/
theorem offer_spec {p : Port} (h : p.heads ≠ []) :
    ∃ m ∈ p.heads, (∀ x ∈ p.heads, (identifier m).toNat ≤ (identifier x).toNat) ∧ p.offer = some m := by
  unfold Port.offer
  cases hs : p.heads with
  | nil => exact absurd hs h
  | cons m rest =>
    obtain ⟨chosen, lowest⟩ := foldl_lowerIdentifier_spec rest m
    exact ⟨_, chosen, lowest, rfl⟩

/-! ## A failed attempt in service (R107, R108, R114) -/

/-- A failed attempt that displaces nothing and is not the sixteenth (R107). -/
theorem failAttempt_kept {m : Message} {s : State} (kept : s.port.displacedAtFailure m.body = false)
    (few : s.port.failures + 1 < 16) :
    failAttempt m s = s.withPort { s.port with attempt := none, failures := s.port.failures + 1 } := by
  simp [failAttempt, kept, reportIf, not_le.2 few]

/-- The sixteenth failed attempt, which displaces nothing: the port is OFF (R107, R108). -/
theorem failAttempt_off {m : Message} {s : State} (kept : s.port.displacedAtFailure m.body = false)
    (last : s.port.failures + 1 = 16) :
    failAttempt m s = report .port .portOff (identifier m).toNat (s.withPort { s.port with
      attempt := none, failures := 16, state := .off, joined := false, offCount := 0 }) := by
  simp [failAttempt, kept, reportIf, last, State.withPort]

/-- A failed PULSE with a newer one behind it is displaced and reported (R114). -/
theorem failAttempt_skipped {m : Message} {c : PulseCondition} {d v : Bool} {n : FrameNo} {h : ContentNo} {s : State}
    (pulse : m.body = .pulse c d v n h) (newer : 1 < s.port.pulse.length) (few : s.port.failures + 1 < 16) :
    failAttempt m s = report .port .pulseSkipped (n.setWidth 16).toNat (s.withPort { s.port with
      attempt := none, failures := s.port.failures + 1, pulse := s.port.pulse.drop 1 }) := by
  simp [failAttempt, pulse, Port.displacedAtFailure, newer, Port.dropHead, kindCode, pulseDetail, reportIf, not_le.2 few]

/-! ## The commands, from an attempt on the bus -/

theorem exec_lostArbitration {m : Message} {s : State} (sending : s.port.attempt = some m) : exec .lostArbitration s =
    finish (if s.working then s.withPort { s.port with attempt := none } else endHaltedAttempt s.port.failures s) := by
  simp [exec, execLostArbitration, sending]

theorem exec_attemptFailed {m : Message} {s : State} (sending : s.port.attempt = some m) :
    exec .attemptFailed s = finish (if s.working then failAttempt m s else failHaltedAttempt m s) := by
  simp [exec, execAttemptFailed, sending]

/-- An effect without a report is the outcome. -/
theorem finish_settled {s : State} (h : s.settled) : finish s = .next s :=
  finish_eq_next.2 (takeReports_of_settled h)

/-- A change of the port with one report has the taking of the report as its outcome. -/
theorem finish_report_withPort {s : State} (h : s.settled) (k : FaultKind) (d : Nat) (p : Port) :
    finish (report .port k d (s.withPort p)) = .next (reported k d { s with port := p }) :=
  finish_eq_next.2 (takeReports_report (s := s.withPort p) h .port k d)

section
variable {s : State} (hs : s.settled) (hw : s.working = true)
include hs

theorem exec_busIdleJoin_active (active : s.port.state = .active) :
    exec .busIdleJoin s = .next { s with port := { s.port with joined := true } } := by
  refine (congrArg finish (if_pos active)).trans ?_
  exact finish_settled hs

include hw

/-- A port that takes part and has a head begins an attempt of its offer (R115). -/
theorem exec_beginAttempt_offers (active : s.port.state = .active) (joined : s.port.joined = true)
    (free : s.port.attempt = none) :
    exec .beginAttempt s = .next { s with port := { s.port with attempt := s.port.offer } } := by
  have begins : (s.working && s.port.state == .active && s.port.joined && s.port.attempt.isNone) = true := by
    simp [hw, active, joined, free]
  refine (congrArg finish (if_pos begins)).trans ?_
  exact finish_settled hs

theorem exec_lostArbitration_working (sending : s.port.attempt ≠ none) :
    exec .lostArbitration s = .next { s with port := { s.port with attempt := none } } := by
  obtain ⟨m, sending⟩ := Option.ne_none_iff_exists'.1 sending
  rw [exec_lostArbitration sending, if_pos hw]
  exact finish_settled hs

end

/-- An attempt that fails at a halted station counts, and the port is DISABLED (R107, R117, log 27). -/
theorem failHaltedAttempt_eq (m : Message) (s : State) : failHaltedAttempt m s =
    if 16 ≤ s.port.failures + 1 then report .port .portOff (identifier m).toNat (endHaltedAttempt 16 s)
    else endHaltedAttempt (s.port.failures + 1) s := by
  unfold failHaltedAttempt reportIf
  by_cases last : 16 ≤ s.port.failures + 1
  · simp [last]
  · simp [last, min_eq_right (not_le.1 last).le]

/-- Settles O49: in service by the offer and the three courses of a failed attempt, in HALTED by `failHaltedAttempt_eq`. -/
theorem attemptsBeginAndFail : Obligations.AttemptsBeginAndFail := by
  refine ⟨fun s hs hw active => ⟨exec_busIdleJoin_active hs active, fun joined free heads => ?_,
    exec_lostArbitration_working hs hw⟩, fun m s hs hw sending => ?_, fun m s hs hw sending => ?_⟩
  · obtain ⟨m, head, lowest, offered⟩ := offer_spec heads
    exact ⟨m, head, lowest, offered ▸ exec_beginAttempt_offers hs hw active joined free⟩
  · rw [exec_attemptFailed sending, if_pos hw]
    refine ⟨fun kept few => ?_, fun kept last => ?_, fun c d v n h pulse newer few => ?_⟩
    · rw [failAttempt_kept kept few]
      exact finish_settled hs
    · rw [failAttempt_off kept last]
      exact finish_report_withPort hs _ _ _
    · rw [failAttempt_skipped pulse newer few]
      exact finish_report_withPort hs _ _ _
  · intro off
    have halted : ¬s.working = true := by simp [hw]
    rw [exec_lostArbitration sending, exec_attemptFailed sending, if_neg halted, if_neg halted, failHaltedAttempt_eq]
    refine ⟨finish_settled hs, fun few => ?_, fun last => ?_⟩
    · rw [if_neg (by omega)]
      exact finish_settled hs
    · rw [if_pos (by omega)]
      exact finish_report_withPort hs _ _ _

end Sys2Proof.Machine
end

section
/-!
PROOFS. Every step keeps the port's queues within their places and its counts in range (O9).
-/
namespace Sys2Proof.Machine

/-! ## The queues (R113, R114) -/

/-- A single-place queue holds at most one message behind the one on the bus. -/
theorem singlePlace_length_le (onBus : Bool) (q : List Message) (m : Message) : (singlePlace onBus q m).length ≤ 2 := by
  unfold singlePlace
  split
  · rw [List.length_append, List.length_take, List.length_singleton]
    omega
  · simp

/-- The BOUNDS queue stays within its eight places: at 8 an arrival drops one message. -/
theorem boundsPlace_length_le (onBus : Bool) {q : List Message} (m : Message) (h : q.length ≤ 8) :
    (boundsPlace onBus q m).length ≤ 8 := by
  unfold boundsPlace
  split_ifs <;> simp only [List.length_append, List.length_take, List.length_drop, List.length_singleton] <;> omega

theorem dropHead_sound {p : Port} (h : p.sound) (b : Body) : (p.dropHead b).sound := by
  obtain ⟨change, pulse, light, bounds, levels, counts⟩ := h
  have shorter : ∀ {q : List Message} {n : Nat}, q.length ≤ n → (q.drop 1).length ≤ n := fun hq => by
    rw [List.length_drop]
    omega
  cases b with
  | change => exact ⟨shorter change, pulse, light, bounds, levels, counts⟩
  | pulse => exact ⟨change, shorter pulse, light, bounds, levels, counts⟩
  | light => exact ⟨change, pulse, shorter light, bounds, levels, counts⟩
  | bounds => exact ⟨change, pulse, light, shorter bounds, levels, counts⟩
  | levels => exact ⟨change, pulse, light, bounds, shorter levels, counts⟩
  | fade | identify | identifyOff => exact ⟨change, pulse, light, bounds, levels, counts⟩

/-- The off count is below 64, where the port is ACTIVE again (R109). -/
theorem offNow_sound {p : Port} (h : p.sound) : p.offNow.sound := by
  obtain ⟨change, pulse, light, bounds, levels, failures, off⟩ := h
  unfold Port.offNow
  split_ifs with isOff full
  · exact ⟨change, pulse, light, bounds, levels, Nat.zero_le _, Nat.succ_pos _⟩
  · exact ⟨change, pulse, light, bounds, levels, failures, not_le.1 full⟩
  · exact ⟨change, pulse, light, bounds, levels, failures, off⟩

theorem resetPort_sound : resetPort.sound := by
  unfold Port.sound
  decide

/-- Entry to HALTED empties the queues (R117). -/
theorem haltPort_sound {p : Port} (h : p.sound) : (haltPort p).sound := by
  obtain ⟨-, -, -, -, -, failures, off⟩ := h
  exact ⟨Nat.zero_le _, Nat.zero_le _, Nat.zero_le _, Nat.zero_le _, Nat.zero_le _, failures, off⟩

/-! ## Operations that keep the port sound -/

/-- A sound port of `s` is sound in `t`. -/
def KeepsQueues (s t : State) : Prop := s.port.sound → t.port.sound

theorem KeepsQueues.refl (s : State) : KeepsQueues s s := id

theorem KeepsQueues.trans {s t u : State} (h : KeepsQueues s t) (g : KeepsQueues t u) : KeepsQueues s u := g ∘ h

/-- A change that leaves the port. -/
theorem KeepsQueues.of_port {s t : State} (h : t.port = s.port) : KeepsQueues s t := by
  intro hs
  rw [h]
  exact hs

/-- A conditional effect is that of the branch taken. -/
theorem KeepsQueues.ite {s u v : State} {c : Prop} [Decidable c] (hu : c → KeepsQueues s u) (hv : ¬c → KeepsQueues s v) :
    KeepsQueues s (if c then u else v) := by
  split
  · exact hu ‹_›
  · exact hv ‹_›

/-- A list of operations, one after another. -/
theorem KeepsQueues.foldl {α : Type} {f : State → α → State} (hf : ∀ s a, KeepsQueues s (f s a)) (l : List α) (s : State) :
    KeepsQueues s (l.foldl f s) :=
  List.foldlRecOn (motive := fun t => KeepsQueues s t) l f (.refl s) (fun _ ht a _ => ht.trans (hf _ a))

/-- A command keeps the port sound when the effect that its outcome takes the reports of does. -/
theorem KeepsQueues.of_finish {s t u : State} (hu : KeepsQueues s u) (h : finish u = .next t) : KeepsQueues s t := by
  rw [← finish_eq_next.1 h]
  exact hu.trans (.of_port (takeReports_port u))

theorem withLoader_keepsQueues (s : State) (l : Loader) : KeepsQueues s (s.withLoader l) := .refl s

theorem withPix_keepsQueues (s : State) (p : PixelPath) : KeepsQueues s (s.withPix p) := .refl s

theorem LinkAlone.keepsQueues {s t : State} (h : LinkAlone s t) : KeepsQueues s t := by
  obtain ⟨l, y, x, rfl⟩ := h
  exact .refl s

/-- A change of the frame line unit and the fault unit alone. -/
theorem KeepsQueues.of_line {s t : State} (h : ∃ l x, t = { s with line := l, faults := x }) : KeepsQueues s t := by
  obtain ⟨l, x, rfl⟩ := h
  exact .refl s

/-! ### Arrivals -/

/-- An arrival finds a place, displaces a message, or is refused (R113, R114). -/
theorem enqueue_keepsQueues (b : Body) (s : State) : KeepsQueues s (enqueue b s) := by
  unfold enqueue
  dsimp only
  refine .ite (fun _ => .refl s) fun _ => ?_
  intro ⟨change, pulse, light, bounds, levels, counts⟩
  cases b with
  | change live reason subject epoch lam =>
    dsimp only
    split
    · rename_i room
      refine ⟨?_, pulse, light, bounds, levels, counts⟩
      rw [State.withPort_port, List.length_append, List.length_singleton]
      exact room
    · exact ⟨change, pulse, light, bounds, levels, counts⟩
  | pulse condition driving heldValid frame held =>
    dsimp only
    obtain ⟨x, skipped, -⟩ := reportSkipped_frame (singleDisplaced (s.port.onBus 3) s.port.pulse)
      (s.withPort { s.port with
        pulse := singlePlace (s.port.onBus 3) s.port.pulse ⟨BitVec.ofNat 4 s.own,
          .pulse condition driving heldValid frame held⟩ })
    rw [skipped]
    exact ⟨change, singlePlace_length_le _ _ _, light, bounds, levels, counts⟩
  | light => exact ⟨change, pulse, singlePlace_length_le _ _ _, bounds, levels, counts⟩
  | bounds => exact ⟨change, pulse, light, boundsPlace_length_le _ _ bounds, levels, counts⟩
  | levels => exact ⟨change, pulse, light, bounds, singlePlace_length_le _ _ _, counts⟩
  | fade | identify | identifyOff => exact ⟨change, pulse, light, bounds, levels, counts⟩

theorem queuePeriodic_keepsQueues (s : State) : KeepsQueues s (queuePeriodic s) :=
  .ite (fun _ => (enqueue_keepsQueues _ s).trans (enqueue_keepsQueues _ _)) (fun _ => enqueue_keepsQueues _ s)

/-- The completion of a bounds pass queues at most its BOUNDS (R52). -/
theorem completeBounds_keepsQueues (p : Pass) (s : State) : KeepsQueues s (completeBounds p s) := by
  have result : ∀ n pair t, KeepsQueues t (takeBoundsResult n pair t) := fun n pair t => by
    unfold KeepsQueues
    rw [takeBoundsResult_port]
    split
    · exact enqueue_keepsQueues _ t
    · exact id
  unfold completeBounds
  refine KeepsQueues.trans (.of_port ?_) (result _ _ _)
  rw [reportIf_port]
  rfl

/-! ### The ends of an attempt -/

/-- The port after a failed attempt (R107, R108, R114): the message is dropped where a newer one displaces it, and the failure
counts, the sixteenth taking the port to OFF. -/
theorem failAttempt_port (m : Message) (s : State) : (failAttempt m s).port =
    let q := if s.port.displacedAtFailure m.body then s.port.dropHead m.body else s.port
    if 16 ≤ s.port.failures + 1 then
      { q with attempt := none, state := .off, joined := false, failures := 16, offCount := 0 }
    else { q with attempt := none, failures := s.port.failures + 1 } := by
  have dropped : ({ s.port with attempt := none, failures := s.port.failures + 1 } : Port).dropHead m.body =
      { s.port.dropHead m.body with attempt := none, failures := s.port.failures + 1 } := by
    cases m.body <;> rfl
  unfold failAttempt
  cases s.port.displacedAtFailure m.body <;> by_cases last : 16 ≤ s.port.failures + 1 <;> simp [last, dropped]

/-- A failed attempt counts, and at 16 the count stays there while the port is OFF (R107, R108). -/
theorem failAttempt_keepsQueues (m : Message) (s : State) : KeepsQueues s (failAttempt m s) := by
  intro h
  have dropped : (if s.port.displacedAtFailure m.body then s.port.dropHead m.body else s.port).sound := by
    split
    · exact dropHead_sound h m.body
    · exact h
  rw [failAttempt_port]
  generalize (if s.port.displacedAtFailure m.body then s.port.dropHead m.body else s.port) = q at dropped ⊢
  obtain ⟨change, pulse, light, bounds, levels, _, off⟩ := dropped
  dsimp only
  split_ifs with last
  · exact ⟨change, pulse, light, bounds, levels, le_rfl, Nat.succ_pos _⟩
  · exact ⟨change, pulse, light, bounds, levels, (not_le.1 last).le, off⟩

/-- The failed attempt of a halted station counts to 16 at most (R107, R117). -/
theorem failHaltedAttempt_keepsQueues (m : Message) (s : State) : KeepsQueues s (failHaltedAttempt m s) := by
  intro ⟨change, pulse, light, bounds, levels, _, off⟩
  unfold failHaltedAttempt
  rw [reportIf_port]
  exact ⟨change, pulse, light, bounds, levels, Nat.min_le_left _ _, off⟩

/-- A completed message leaves its queue, and the failure count is 0 (R116). -/
theorem completedPort_sound {p : Port} (h : p.sound) (b : Body) : (completedPort p b).sound := by
  obtain ⟨change, pulse, light, bounds, levels, -, off⟩ := dropHead_sound h b
  exact ⟨change, pulse, light, bounds, levels, Nat.zero_le _, off⟩

/-! ### The resets, the load and the halt -/

theorem enterHalted_keepsQueues (s : State) : KeepsQueues s (enterHalted s) := haltPort_sound

theorem failLoad_keepsQueues (code : Nat) (s : State) : KeepsQueues s (failLoad code s) := enterHalted_keepsQueues s

theorem failLoadIf_keepsQueues (code : Option Nat) (s : State) : KeepsQueues s (failLoadIf code s) := by
  cases code with
  | none => exact .refl s
  | some c => exact failLoad_keepsQueues c s

/-- A start with the reset values has the reset port, also where the straps halt the station (R173, R183). -/
theorem startValues_portSound (straps : BitVec 4) (stamp : Stamp) (low : Bool) (memory : List (Nat × Rgb))
    (errors : List Nat) (faults : FaultUnit) (queue : List Instr) :
    (strapCheck (startValues straps stamp low memory errors faults queue)).port.sound := by
  have halts : ∀ u, KeepsQueues u (strapCheck u) := fun u =>
    .ite (fun _ => enterHalted_keepsQueues u) (fun _ => .refl u)
  exact halts _ resetPort_sound

/-- A write of the maintenance port leaves the peer bus port, or resets it (R189, R192). -/
theorem portWrite_keepsQueues (b : Byte) (w : I2cWrite) (straps : BitVec 4) (s : State) :
    KeepsQueues s (portWrite b w straps s) := by
  have note : ∀ acks u, KeepsQueues s u → KeepsQueues s (noteWrite acks w u) := fun acks u h =>
    .ite (fun _ => h) (fun _ => h)
  unfold portWrite
  apply note
  split
  · rename_i x _
    cases x with
    | restart => exact .ite (fun _ _ => startValues_portSound _ _ _ _ _ _ _) (fun _ => .refl s)
    | _ => exact .ite (fun _ => KeepsQueues.refl s) (fun _ => .refl s)
  · exact .refl s

/-! ### The bus -/

/-- A frame received leaves the port, or halts the station by a clash (R31, R110 to R112). -/
theorem receiveFrame_keepsQueues (f : BusFrame) (s : State) : KeepsQueues s (receiveFrame f s) := by
  refine .ite (fun _ => .refl s) fun _ => .ite (fun _ => enterHalted_keepsQueues s) fun _ => ?_
  split
  · exact KeepsQueues.refl s
  · rename_i m _
    refine .ite (fun _ => KeepsQueues.refl s) fun _ => ?_
    obtain ⟨l, hl⟩ := offerCount_frame m.body (takeBody m.sender.toNat m.body (setHeard m.sender.toNat s))
    obtain ⟨a, y, x, h⟩ := takeBody_frame m.sender.toNat m.body (setHeard m.sender.toNat s)
    unfold acceptMessage
    rw [hl, h]
    exact KeepsQueues.refl s

/-- An own message that completes leaves its queue, and its taking leaves the port (R116). -/
theorem completeMessage_keepsQueues (m : Message) (s : State) :
    KeepsQueues s (ownNotice m.body (takeBody s.own m.body (s.withPort (completedPort s.port m.body)))) := by
  intro h
  obtain ⟨a, y, x, ht⟩ := takeBody_frame s.own m.body (s.withPort (completedPort s.port m.body))
  obtain ⟨ps, k, w, hn⟩ := ownNotice_frame m.body (takeBody s.own m.body (s.withPort (completedPort s.port m.body)))
  rw [hn, ht]
  exact completedPort_sound h m.body

/-! ### The frame start -/

/-- Up to its changes, a frame start does to the port what the off count does (R109). -/
theorem agreedAt_port (first : Stamp) (s : State) : (agreedAt first s).port = s.port.offNow := by
  obtain ⟨st, x, hc⟩ := countedAt_frame first s
  obtain ⟨a, y, k, x', hg⟩ := frameAgreement_frame (s.ctl.condition == .joining) s.line.frameNo (countedAt first s)
  rw [show agreedAt first s = _ from hg, hc]

/-- Behind its changes, a frame start leaves the port. -/
theorem startedAt_port (first : Stamp) (s : State) : (startedAt first s).port = (changedAt first s).port := by
  obtain ⟨e, y, x, hj⟩ := frameJobs_quiet (changedAt first s)
  obtain ⟨st, x', hc⟩ := selectContent_frame (frameJobs (changedAt first s))
  unfold startedAt
  rw [takeReports_port, setupStep_frame, hc, hj]

theorem announceStep_keepsQueues (s : State) : KeepsQueues s (announceStep s) := by
  refine .ite (fun _ => ?_) fun _ => .ite (fun _ => enqueue_keepsQueues _ s) (fun _ => .refl s)
  unfold announceLive
  exact .ite (fun _ => enqueue_keepsQueues _ s) (fun _ => enqueue_keepsQueues _ s)

theorem peerSilenceStep_keepsQueues (s : State) : KeepsQueues s (peerSilenceStep s) :=
  .foldl (fun t _ => (enqueue_keepsQueues _ t).trans (.of_port (reportIf_port ..))) _ s

theorem selfSilenceStep_keepsQueues (s : State) : KeepsQueues s (selfSilenceStep s) := by
  obtain ⟨e, y, x, h⟩ := selfSilenceStep_frame s
  rw [h]
  exact .refl s

theorem lightRequestStep_keepsQueues (s : State) : KeepsQueues s (lightRequestStep s) :=
  .ite (fun _ => enqueue_keepsQueues (.light s.leadEpoch (field16 s.light.filtered)) s) (fun _ => .refl s)

/-- The changes that a frame start queues find their places, or are refused (R26 to R28, R36, R171). -/
theorem frameChanges_keepsQueues (s : State) : KeepsQueues s (frameChanges s) := by
  have silent : ∀ t, KeepsQueues t (if t.ctl.condition = .joining then t else peerSilenceStep t) := fun t =>
    .ite (fun _ => .refl t) (fun _ => peerSilenceStep_keepsQueues t)
  unfold frameChanges
  exact (((announceStep_keepsQueues s).trans (silent _)).trans (selfSilenceStep_keepsQueues _)).trans
    (lightRequestStep_keepsQueues _)

theorem workingFrameStart_keepsQueues (first : Stamp) (s : State) : KeepsQueues s (workingFrameStart first s) := by
  intro h
  have started : (startedAt first s).port = (workingFrameStart first s).port := takeReports_port _
  rw [← started, startedAt_port]
  refine frameChanges_keepsQueues (agreedAt first s) ?_
  rw [agreedAt_port]
  exact offNow_sound h

/-! ## Every command -/

/-- Every command keeps the port sound. -/
theorem exec_keepsQueues {c : Instr} {s t : State} (h : exec c s = .next t) : KeepsQueues s t := by
  cases c with
  | powerOnReset | warmReset => exact .of_finish (fun _ => startValues_portSound _ _ _ _ _ _ _) h
  | imageHeaderCheck | sectionHeadCheck | tableEntryCheck =>
    refine .of_finish (.ite (fun _ => ?_) (fun _ => .refl s)) h
    dsimp only
    split
    · exact (withLoader_keepsQueues s _).trans (failLoad_keepsQueues _ _)
    · exact KeepsQueues.refl s
  | settingsSectionEnd entries =>
    refine .of_finish (.ite (fun _ => ?_) (fun _ => .refl s)) h
    dsimp only
    split
    · exact (withLoader_keepsQueues s _).trans (failLoad_keepsQueues _ _)
    · exact (withLoader_keepsQueues s _).trans (.foldl (fun t c => .of_port (report_port _ _ c t)) _ _)
  | gridRecordCheck =>
    refine .of_finish (.ite (fun _ => ?_) (fun _ => .refl s)) h
    split
    · exact (withLoader_keepsQueues s _).trans (failLoad_keepsQueues _ _)
    · exact ((withLoader_keepsQueues s _).trans (withPix_keepsQueues _ _)).trans (failLoadIf_keepsQueues _ _)
  | loadComplete =>
    refine .of_finish (.ite (fun _ => ?_) (fun _ => .refl s)) h
    split
    · exact .ite (fun _ => KeepsQueues.refl s) (fun _ => failLoad_keepsQueues _ s)
    · exact .refl s
  | frameStart first =>
    refine .of_finish (.ite (fun _ => .refl s) fun _ => .ite (fun _ => workingFrameStart_keepsQueues first s) fun _ => ?_) h
    exact .ite (fun _ => KeepsQueues.refl s) (fun _ => .refl s)
  | frameLineRelease =>
    refine .of_finish ?_ h
    exact .ite (fun _ => .of_port (State.withLine_port s _)) (fun _ => .refl s)
  | lanesActive | settleExpiry | warpMeshEntryRead =>
    refine .of_finish ?_ h
    exact .ite (fun _ => .of_port rfl) (fun _ => .refl s)
  | frameLineEdge =>
    refine .of_finish ?_ h
    exact .of_port rfl
  | busIdleJoin | beginAttempt =>
    refine .of_finish ?_ h
    exact .ite (fun _ => KeepsQueues.refl s) (fun _ => .refl s)
  | boundsPassComplete =>
    refine .of_finish ?_ h
    split
    · exact .ite (fun _ => (completeBounds_keepsQueues _ s).trans (.of_port (startJobs_port _))) (fun _ => .refl s)
    · exact .refl s
  | coeffPassComplete =>
    refine .of_finish ?_ h
    split
    · refine .ite (fun _ => .of_port ?_) (fun _ => .refl s)
      rename_i p _ _
      obtain ⟨e, y, x, done⟩ := completeCoeff_frame p s
      rw [startJobs_port, done]
    · exact .refl s
  | sendEvent =>
    refine .of_finish (.ite (fun _ => ?_) (fun _ => .refl s)) h
    refine KeepsQueues.trans (.of_port ?_) (.ite (fun _ => queuePeriodic_keepsQueues _) (fun _ => .refl _))
    rfl
  | windowCompletion =>
    exact .of_finish (.ite (fun _ => .of_line (completeWindow_frame s)) (fun _ => .refl s)) h
  | lostArbitration =>
    refine .of_finish ?_ h
    split
    · exact .refl s
    · exact .ite (fun _ => KeepsQueues.refl s) (fun _ => KeepsQueues.refl s)
  | attemptFailed =>
    refine .of_finish ?_ h
    split
    · exact .refl s
    · exact .ite (fun _ => failAttempt_keepsQueues _ s) (fun _ => failHaltedAttempt_keepsQueues _ s)
  | messageComplete =>
    refine .of_finish ?_ h
    split
    · exact .refl s
    · refine .ite (fun _ => completeMessage_keepsQueues _ s) fun _ => ?_
      intro ⟨change, pulse, light, bounds, levels, _, off⟩
      exact ⟨change, pulse, light, bounds, levels, Nat.zero_le _, off⟩
  | stationClash | foreignMessage | receiveChange | receiveLight | receivePulse | receiveBounds | receiveLevels
  | showFade | showIdentify | showIdentifyOff => exact .of_finish (receiveFrame_keepsQueues _ s) h
  | laneActivityLost lane received =>
    refine .of_finish (.ite (fun _ => ?_) (fun _ => .refl s)) h
    have down : LinkAlone s ((receiveBits received s).withLink
        { (receiveBits received s).link with state := .down, settleTimer := none }) :=
      (receiveBits_linkAlone received s).trans ⟨_, _, _, rfl⟩
    dsimp only
    split
    · exact .refl s
    · exact down.keepsQueues
    · exact down.keepsQueues
    · exact (leaveUp_linkAlone s).keepsQueues
  | trainingDecision =>
    refine .of_finish (.ite (fun _ => ?_) (fun _ => .refl s)) h
    split
    · exact KeepsQueues.refl s
    · exact (linkUp_linkAlone s).keepsQueues
  | inputTimeout =>
    exact .of_finish (.ite (fun _ => (leaveUp_linkAlone (report _ _ _ s)).keepsQueues) (fun _ => .refl s)) h
  | packetLost | laneSkew | frameStartPacket | linePacket | frameEndPacket | otherPacket | strayLinePacket =>
    exact .of_finish (takeWords_linkAlone _ s).keepsQueues h
  | memoryEcc line column =>
    refine .of_finish ?_ h
    split
    · split
      · refine .ite (fun _ => ?_) (fun _ => .refl s)
        obtain ⟨y, x, he⟩ := eccReport_frame (s.withStore (s.store.withError (pixelAddress ‹Nat› line column)))
        rw [he]
        exact KeepsQueues.refl s
      · exact .refl s
    · exact .refl s
  | lightSample value ahead =>
    have sample : ∀ v n, KeepsQueues s (takeSample v n s) := fun v n => by
      obtain ⟨w, x, hw⟩ := takeSample_frame v n s
      rw [hw]
      exact .refl s
    exact .of_finish (.ite (fun _ => .ite (fun _ => sample _ _) (fun _ => .ite (fun _ => sample _ _) (fun _ => .refl s)))
      (fun _ => .refl s)) h
  | selectCondition | selectInput | selectStore | selectLock | selectPeers | selectEpochs | selectLevels | selectFaults
  | selectCounters | selectImage | clearFaults | restart | attnMask | selectorRefused =>
    exact .of_finish (portWrite_keepsQueues _ _ _ s) h
  | syncRecognised =>
    exact .of_finish (.ite (fun _ => (receiveBits_linkAlone _ s).keepsQueues) (fun _ => .refl s)) h

/-- Settles O9: a tick leaves the port, and every command keeps its queues in their places and its counts in range. -/
theorem queuesStayInPlaces : Obligations.QueuesStayInPlaces := by
  intro s t hs h
  obtain rfl | ⟨c, rest, run⟩ := step_cases h
  · exact hs
  · exact exec_keepsQueues run hs

end Sys2Proof.Machine
end

section
/-!
PROOFS. The slots of the frame store and the slot of the open frame, as a list of slots and the number of the FILLING one.
-/
namespace Sys2Proof.Machine

/-! ## Sound slots (R136, section 7.4) -/

/-- Four sound slots, at most one SHOWING, of which exactly the slot `filling`, when there is one, is FILLING. -/
structure SlotsFit (slots : List Slot) (filling : Option Nat) : Prop where
  length : slots.length = 4
  sound : ∀ (i : Nat) (v : Slot), slots[i]? = some v → v.sound
  showing : ∀ (i j : Nat) (v w : Slot), slots[i]? = some v → slots[j]? = some w → v.state = .showing → w.state = .showing → i = j
  filled : ∀ (i : Nat) (v : Slot), slots[i]? = some v → (v.state = .filling ↔ filling = some i)
  inside : ∀ i, filling = some i → i < 4

/-- The slots of a state are sound when they fit the slot of its open frame. -/
theorem slotsSound_iff (s : State) : s.slotsSound ↔ SlotsFit s.store.slots (passedSlot s.link) := by
  have slot : ∀ {i : Nat} {v : Slot}, s.store.slots[i]? = some v → s.store.slot i = v := fun h => by
    rw [Store.slot, List.getD_eq_getElem?_getD, h, Option.getD_some]
  have place : s.store.slots.length = 4 → ∀ {i : Nat} {v : Slot}, s.store.slots[i]? = some v → i < 4 := fun len i v h => by
    rw [← len]
    exact (List.getElem?_eq_some_iff.1 h).1
  have there : s.store.slots.length = 4 → ∀ i < 4, s.store.slots[i]? = some (s.store.slot i) := fun len i hi => by
    rw [Store.slot, List.getD_eq_getElem _ _ (by omega), List.getElem?_eq_getElem]
  constructor
  · intro ⟨length, sound, showing, filled, inside⟩
    refine ⟨length, fun i v h => sound v (List.mem_of_getElem? h), fun i j v w hv hw sv sw => ?_, fun i v h => ?_, inside⟩
    · exact showing i (place length hv) j (place length hw) (by rw [slot hv]; exact sv) (by rw [slot hw]; exact sw)
    · rw [← slot h]
      exact filled i (place length h)
  · intro fit
    have at' := there fit.length
    refine ⟨fit.length, fun v hv => ?_, fun i hi j hj => fit.showing i j _ _ (at' i hi) (at' j hj),
      fun i hi => fit.filled i _ (at' i hi), fit.inside⟩
    obtain ⟨i, h⟩ := List.getElem?_of_mem hv
    exact fit.sound i v h

theorem freeSlot_sound : freeSlot.sound := by simp [Slot.sound, freeSlot]

theorem fillingSlot_sound (c : ContentNo) : (fillingSlot c).sound := by simp [Slot.sound, fillingSlot]

theorem readySlot_sound (c : ContentNo) (n : FrameNo) : (readySlot c n).sound := by simp [Slot.sound, readySlot]

/-- Four FREE slots. -/
theorem SlotsFit.reset : SlotsFit (List.replicate 4 freeSlot) none := by
  have free : ∀ {i : Nat} {v : Slot}, (List.replicate 4 freeSlot)[i]? = some v → v = freeSlot := fun h =>
    List.eq_of_mem_replicate (List.mem_of_getElem? h)
  refine ⟨rfl, fun i v h => free h ▸ freeSlot_sound, fun i j v w h _ hv => ?_, fun i v h => ?_, fun i h => nomatch h⟩
  · rw [free h] at hv
    exact nomatch hv
  · rw [free h]
    exact ⟨fun h => (nomatch h), fun h => nomatch h⟩

section
variable {slots : List Slot} {filling : Option Nat}

/-- One slot takes a sound record that is not SHOWING; where another was FILLING, it no longer is. -/
theorem SlotsFit.set (fit : SlotsFit slots filling) {i : Nat} (hi : i < 4) (only : ∀ j, filling = some j → j = i) {v : Slot}
    (sound : v.sound) (hidden : v.state ≠ .showing) :
    SlotsFit (slots.set i v) (if v.state = .filling then some i else none) := by
  have old : ∀ {j : Nat} {w : Slot}, (slots.set i v)[j]? = some w → (j = i ∧ w = v) ∨ (j ≠ i ∧ slots[j]? = some w) := fun {j w} h => by
    rw [List.getElem?_set] at h
    split at h
    · split at h
      · exact .inl ⟨by omega, (Option.some.inj h).symm⟩
      · exact nomatch h
    · exact .inr ⟨by omega, h⟩
  refine ⟨by rw [List.length_set, fit.length], fun j w h => ?_, fun j k w x hw hx sw sx => ?_, fun j w h => ?_, fun j h => ?_⟩
  · obtain ⟨-, rfl⟩ | ⟨-, h⟩ := old h
    · exact sound
    · exact fit.sound j w h
  · obtain ⟨-, rfl⟩ | ⟨-, hw⟩ := old hw
    · exact absurd sw hidden
    · obtain ⟨-, rfl⟩ | ⟨-, hx⟩ := old hx
      · exact absurd sx hidden
      · exact fit.showing j k w x hw hx sw sx
  · obtain ⟨rfl, rfl⟩ | ⟨hj, h⟩ := old h
    · simp
    · have clear : w.state ≠ .filling := fun hf => hj (only j ((fit.filled j w h).1 hf))
      simp only [clear, false_iff]
      split
      · exact fun e => hj (Option.some.inj e).symm
      · exact nofun
  · split at h
    · exact Option.some.inj h ▸ hi
    · exact nomatch h

/-- Some slots that are not FILLING become FREE. -/
theorem SlotsFit.free (fit : SlotsFit slots filling) {p : Slot → Prop} [DecidablePred p]
    (kept : ∀ v, p v → v.state ≠ .filling) : SlotsFit (slots.map (fun v => if p v then freeSlot else v)) filling := by
  have old : ∀ {j : Nat} {w : Slot}, (slots.map (fun v => if p v then freeSlot else v))[j]? = some w →
      ∃ v, slots[j]? = some v ∧ (w = v ∨ (w = freeSlot ∧ v.state ≠ .filling)) := fun {j w} h => by
    rw [List.getElem?_map, Option.map_eq_some_iff] at h
    obtain ⟨v, hv, rfl⟩ := h
    refine ⟨v, hv, ?_⟩
    split
    · exact .inr ⟨rfl, kept v ‹_›⟩
    · exact .inl rfl
  refine ⟨by rw [List.length_map, fit.length], fun j w h => ?_, fun j k w x hw hx sw sx => ?_, fun j w h => ?_, fit.inside⟩
  · obtain ⟨v, hv, rfl | ⟨rfl, -⟩⟩ := old h
    · exact fit.sound j _ hv
    · exact freeSlot_sound
  · obtain ⟨v, hv, rfl | ⟨rfl, -⟩⟩ := old hw
    · obtain ⟨y, hy, rfl | ⟨rfl, -⟩⟩ := old hx
      · exact fit.showing j k _ _ hv hy sw sx
      · exact nomatch sx
    · exact nomatch sw
  · obtain ⟨v, hv, rfl | ⟨rfl, clear⟩⟩ := old h
    · exact fit.filled j _ hv
    · rw [← fit.filled j v hv]
      exact ⟨fun e => (nomatch e), fun e => absurd e clear⟩

/-- The FILLING slot becomes FREE (R139, R150). -/
theorem SlotsFit.halt (fit : SlotsFit slots filling) :
    SlotsFit (slots.map (fun v => if v.state = .filling then freeSlot else v)) none := by
  have old : ∀ {j : Nat} {w : Slot}, (slots.map (fun v => if v.state = .filling then freeSlot else v))[j]? = some w →
      w = freeSlot ∨ (slots[j]? = some w ∧ w.state ≠ .filling) := fun {j w} h => by
    rw [List.getElem?_map, Option.map_eq_some_iff] at h
    obtain ⟨v, hv, rfl⟩ := h
    split
    · exact .inl rfl
    · exact .inr ⟨hv, ‹_›⟩
  refine ⟨by rw [List.length_map, fit.length], fun j w h => ?_, fun j k w x hw hx sw sx => ?_, fun j w h => ?_, nofun⟩
  · obtain rfl | ⟨hv, -⟩ := old h
    · exact freeSlot_sound
    · exact fit.sound j w hv
  · obtain rfl | ⟨hw, -⟩ := old hw
    · exact nomatch sw
    · obtain rfl | ⟨hx, -⟩ := old hx
      · exact nomatch sx
      · exact fit.showing j k w x hw hx sw sx
  · obtain rfl | ⟨-, clear⟩ := old h
    · exact ⟨fun e => (nomatch e), fun e => nomatch e⟩
    · exact ⟨fun e => absurd e clear, fun e => nomatch e⟩

/-- A slot other than the one taken keeps its record or becomes FREE, and is not SHOWING; FILLING slots stay (R144). -/
theorem afterTaking_other {i j : Nat} (c : ContentNo) (h : j ≠ i) (v : Slot) :
    (afterTaking i c j v = v ∧ v.state ≠ .showing) ∨ (afterTaking i c j v = freeSlot ∧ v.state ≠ .filling) := by
  obtain ⟨state, content, completed⟩ := v
  unfold afterTaking
  rw [if_neg h]
  cases state with
  | free | filling => exact .inl ⟨rfl, by simp⟩
  | showing => exact .inr ⟨rfl, by simp⟩
  | ready =>
    cases content with
    | none => exact .inl ⟨rfl, by simp⟩
    | some d =>
      dsimp only
      split
      · exact .inr ⟨rfl, by simp⟩
      · exact .inl ⟨rfl, by simp⟩

/-- A READY slot becomes SHOWING, and the one that was SHOWING becomes FREE (R144, R146, R147). -/
theorem SlotsFit.take (fit : SlotsFit slots filling) {i : Nat} (c : ContentNo) {v : Slot} (hi : slots[i]? = some v)
    (ready : v.state = .ready) : SlotsFit (slots.mapIdx (afterTaking i c)) filling := by
  have old : ∀ {j : Nat} {w : Slot}, (slots.mapIdx (afterTaking i c))[j]? = some w → (j = i ∧ w = { v with state := .showing }) ∨
      (j ≠ i ∧ w.state ≠ .showing ∧ w.sound ∧ (w.state = .filling ↔ filling = some j)) := fun {j w} h => by
    rw [List.getElem?_mapIdx, Option.map_eq_some_iff] at h
    obtain ⟨x, hx, rfl⟩ := h
    by_cases hj : j = i
    · subst hj
      rw [hi] at hx
      exact .inl ⟨rfl, by rw [afterTaking, if_pos rfl, ← Option.some.inj hx]⟩
    · refine .inr ⟨hj, ?_⟩
      obtain ⟨h, hidden⟩ | ⟨h, clear⟩ := afterTaking_other c hj x
      · rw [h]
        exact ⟨hidden, fit.sound j x hx, fit.filled j x hx⟩
      · rw [h, ← fit.filled j x hx]
        exact ⟨by simp [freeSlot], freeSlot_sound, fun e => (nomatch e), fun e => absurd e clear⟩
  have taken : Slot.sound { v with state := .showing } := by
    have := fit.sound i v hi
    simpa [Slot.sound, ready] using this
  refine ⟨by rw [List.length_mapIdx, fit.length], fun j w h => ?_, fun j k w x hw hx sw sx => ?_, fun j w h => ?_, fit.inside⟩
  · obtain ⟨-, rfl⟩ | ⟨-, -, sound, -⟩ := old h
    · exact taken
    · exact sound
  · obtain ⟨rfl, -⟩ | ⟨-, hidden, -⟩ := old hw
    · obtain ⟨rfl, -⟩ | ⟨-, hidden, -⟩ := old hx
      · rfl
      · exact absurd sx hidden
    · exact absurd sw hidden
  · obtain ⟨rfl, rfl⟩ | ⟨-, -, -, filled⟩ := old h
    · rw [← fit.filled j v hi, ready]
      simp
    · exact filled

end

end Sys2Proof.Machine
end

section
/-!
PROOFS. The frame memory and the slots through the link receiver and the frame store.
-/
namespace Sys2Proof.Machine

/-! ## Operations that keep the frame memory and the slots sound -/

/-- A canonical frame memory of `s` is canonical in `t`, and sound slots of `s` are sound in `t`. -/
structure KeepsStore (s t : State) : Prop where
  memory : memWf s.store.memory = true → memWf t.store.memory = true
  slots : s.slotsSound → t.slotsSound

theorem KeepsStore.refl (s : State) : KeepsStore s s := ⟨id, id⟩

theorem KeepsStore.trans {s t u : State} (h : KeepsStore s t) (g : KeepsStore t u) : KeepsStore s u :=
  ⟨g.memory ∘ h.memory, g.slots ∘ h.slots⟩

/-- A change that leaves the frame memory, the slots, and the slot of the open frame. -/
theorem KeepsStore.of_same {s t : State} (memory : t.store.memory = s.store.memory) (slots : t.store.slots = s.store.slots)
    (slot : passedSlot t.link = passedSlot s.link) : KeepsStore s t := by
  refine ⟨fun h => by rw [memory]; exact h, fun h => ?_⟩
  rw [slotsSound_iff, slots, slot, ← slotsSound_iff]
  exact h

/-- A change of the slots and of the slot of the open frame alone. -/
theorem KeepsStore.of_slots {s t : State} (memory : t.store.memory = s.store.memory)
    (fits : SlotsFit s.store.slots (passedSlot s.link) → SlotsFit t.store.slots (passedSlot t.link)) : KeepsStore s t :=
  ⟨fun h => by rw [memory]; exact h, fun h => (slotsSound_iff t).2 (fits ((slotsSound_iff s).1 h))⟩

/-- A conditional effect is that of the branch taken. -/
theorem KeepsStore.ite {s u v : State} {c : Prop} [Decidable c] (hu : c → KeepsStore s u) (hv : ¬c → KeepsStore s v) :
    KeepsStore s (if c then u else v) := by
  split
  · exact hu ‹_›
  · exact hv ‹_›

/-- A list of operations, one after another. -/
theorem KeepsStore.foldl {α : Type} {f : State → α → State} (hf : ∀ s a, KeepsStore s (f s a)) (l : List α) (s : State) :
    KeepsStore s (l.foldl f s) :=
  List.foldlRecOn (motive := fun t => KeepsStore s t) l f (.refl s) (fun _ ht a _ => ht.trans (hf _ a))

/-- A command keeps what the effect that its outcome takes the reports of keeps. -/
theorem KeepsStore.of_finish {s t u : State} (hu : KeepsStore s u) (h : finish u = .next t) : KeepsStore s t := by
  rw [← finish_eq_next.1 h]
  exact hu.trans (.of_same (by rw [takeReports_store]) (by rw [takeReports_store]) (by rw [takeReports_link]))

/-- An operation that leaves the link receiver and the frame store. -/
theorem KeepsStore.of_blocks {s t : State} (link : t.link = s.link) (store : t.store = s.store) : KeepsStore s t :=
  .of_same (by rw [store]) (by rw [store]) (by rw [link])

theorem report_keepsStore (b : Block) (k : FaultKind) (d : Nat) (s : State) : KeepsStore s (report b k d s) :=
  .of_blocks rfl rfl

theorem takeReports_keepsStore (s : State) : KeepsStore s (takeReports s) :=
  .of_blocks (takeReports_link s) (takeReports_store s)

theorem reportIf_keepsStore (c : Bool) (b : Block) (k : FaultKind) (d : Nat) (s : State) :
    KeepsStore s (reportIf c b k d s) := .of_blocks (reportIf_link ..) (reportIf_store ..)

/-! ## The open frame and its slot (R128 to R133, R138 to R141) -/

theorem passedSlot_poison (c : Nat) (s : State) : passedSlot (poison c s).link = passedSlot s.link := by
  unfold passedSlot poison
  rw [State.withLink_link]
  cases s.link.openFrame <;> rfl

theorem poison_keepsStore (c : Nat) (s : State) : KeepsStore s (poison c s) := .of_same rfl rfl (passedSlot_poison c s)

/-- A change of the link receiver that leaves the slot of the open frame. -/
theorem withLink_keepsStore {s : State} {l : Link} (slot : passedSlot l = passedSlot s.link) : KeepsStore s (s.withLink l) :=
  .of_same rfl rfl slot

theorem onReaders_keepsStore (f : Nat → LaneReader → LaneReader) (s : State) : KeepsStore s (onReaders f s) :=
  withLink_keepsStore rfl

theorem losePacket_keepsStore (k : FaultKind) (d : Nat) (s : State) : KeepsStore s (losePacket k d s) :=
  ((onReaders_keepsStore _ s).trans (report_keepsStore .link k d _)).trans (poison_keepsStore 5 _)

/-- The slot of an open frame that ends becomes FREE, or READY (R131, R140). -/
theorem SlotsFit.endFrame {slots : List Slot} {i : Nat} (fit : SlotsFit slots (some i)) {v : Slot} (sound : v.sound)
    (hidden : v.state ≠ .showing) (done : v.state ≠ .filling) : SlotsFit (slots.set i v) none := by
  have fits := fit.set (fit.inside i rfl) (fun j h => (Option.some.inj h).symm) sound hidden
  rwa [if_neg done] at fits

/-- A FREE or READY slot, or the slot of the frame before, is filled by the frame that opens (R128, R138). -/
theorem SlotsFit.openFrame {slots : List Slot} {filling : Option Nat} (fit : SlotsFit slots filling) {i : Nat} (hi : i < 4)
    (only : ∀ j, filling = some j → j = i) (c : ContentNo) : SlotsFit (slots.set i (fillingSlot c)) (some i) :=
  fit.set hi only (fillingSlot_sound c) (by simp [fillingSlot])

/-- The slot of the frame `f` becomes FREE as `f` ends (R131). -/
theorem endPoisoned_keepsStore {f : OpenFrame} {s : State} (slot : f.slot = passedSlot s.link) :
    KeepsStore s (endPoisoned f s) := by
  unfold endPoisoned releaseFrameSlot
  split
  · rename_i i hf
    rw [hf] at slot
    refine .of_slots rfl fun fit => ?_
    rw [← slot] at fit
    exact fit.endFrame freeSlot_sound (by simp [freeSlot]) (by simp [freeSlot])
  · rename_i hf
    exact .of_same rfl rfl (by rw [← slot, hf]; rfl)

theorem passedSlot_of_open {l : Link} {f : OpenFrame} (h : l.openFrame = some f) : passedSlot l = f.slot := by
  rw [passedSlot, h, Option.bind_some]

theorem leaveUp_keepsStore (s : State) : KeepsStore s (leaveUp s) := by
  have down : KeepsStore s (s.withLink { s.link with
      state := .down, cleanRun := 0, inputTimer := none, settleTimer := none }) := withLink_keepsStore rfl
  unfold leaveUp poisonAndEnd
  refine down.trans ?_
  split
  · rename_i f h
    exact endPoisoned_keepsStore (f := poisonFrame 8 f) (passedSlot_of_open h).symm
  · exact .refl _

/-! ## Slots by their keys (R137, R138, R144) -/

/-- The READY slots that the store lists are those of the four that are READY, with their contents. -/
theorem mem_readySlots {x : Store} {i : Nat} {c : ContentNo} :
    (i, c) ∈ x.readySlots ↔ i < 4 ∧ (x.slot i).state = .ready ∧ (x.slot i).content = some c := by
  have listed : ∀ j, (if (x.slot j).state = .ready then (x.slot j).content.map (fun c => (j, c)) else none) = some (i, c) ↔
      j = i ∧ (x.slot i).state = .ready ∧ (x.slot i).content = some c := fun j => by
    split
    · rw [Option.map_eq_some_iff]
      constructor
      · rintro ⟨d, hd, e⟩
        obtain ⟨rfl, rfl⟩ := Prod.mk.inj e
        exact ⟨rfl, ‹_›, hd⟩
      · rintro ⟨rfl, -, hc⟩
        exact ⟨c, hc, rfl⟩
    · constructor
      · exact nofun
      · rintro ⟨rfl, ready, -⟩
        exact absurd ready ‹_›
  unfold Store.readySlots
  rw [List.mem_filterMap]
  simp only [listed, List.mem_range]
  exact ⟨fun ⟨j, hj, e, h⟩ => ⟨e ▸ hj, h⟩, fun ⟨hi, h⟩ => ⟨i, hi, rfl, h⟩⟩

/-- The slot of smallest key is one of the list, and no other has a smaller key (R137). -/
theorem earliestSlot_spec {r : ContentNo} {l : List (Nat × ContentNo)} {x : Nat × ContentNo}
    (h : earliestSlot r l = some x) : x ∈ l ∧ ∀ y ∈ l, contentKey x.2 r ≤ contentKey y.2 r := by
  have fold : ∀ (l : List (Nat × ContentNo)) (a : Nat × ContentNo), l.foldl (earlierSlot r) a ∈ a :: l ∧
      ∀ y ∈ a :: l, contentKey (l.foldl (earlierSlot r) a).2 r ≤ contentKey y.2 r := by
    intro l
    induction l with
    | nil => simp
    | cons b l ih =>
      intro a
      obtain ⟨mem, least⟩ := ih (earlierSlot r a b)
      have choice : earlierSlot r a b = a ∨ earlierSlot r a b = b := by unfold earlierSlot; split <;> simp
      have below : contentKey (earlierSlot r a b).2 r ≤ contentKey a.2 r ∧
          contentKey (earlierSlot r a b).2 r ≤ contentKey b.2 r := by unfold earlierSlot; split <;> omega
      rw [List.foldl_cons]
      constructor
      · obtain e | e := choice <;> rw [e] at mem ⊢ <;> simp only [List.mem_cons] at mem ⊢ <;> tauto
      · have first := least _ List.mem_cons_self
        simp only [List.mem_cons]
        rintro y (rfl | rfl | hy)
        · exact first.trans below.1
        · exact first.trans below.2
        · exact least y (List.mem_cons_of_mem _ hy)
  cases l with
  | nil => exact nomatch h
  | cons a l =>
    rw [← Option.some.inj h]
    exact fold l a

/-- The slot of greatest key is one of the list (R137). -/
theorem mem_of_latestSlot {r : ContentNo} {l : List (Nat × ContentNo)} {x : Nat × ContentNo}
    (h : latestSlot r l = some x) : x ∈ l := by
  have fold : ∀ (l : List (Nat × ContentNo)) (a : Nat × ContentNo), l.foldl (laterSlot r) a ∈ a :: l := by
    intro l
    induction l with
    | nil => simp
    | cons b l ih =>
      intro a
      have mem := ih (laterSlot r a b)
      have choice : laterSlot r a b = a ∨ laterSlot r a b = b := by unfold laterSlot; split <;> simp
      rw [List.foldl_cons]
      obtain e | e := choice <;> rw [e] at mem ⊢ <;> simp only [List.mem_cons] at mem ⊢ <;> tauto
  cases l with
  | nil => exact nomatch h
  | cons a l => exact Option.some.inj h ▸ fold l a

/-- A READY slot is one of the list of slots. -/
theorem slot_of_ready {x : Store} {i : Nat} (h : (x.slot i).state = .ready) : x.slots[i]? = some (x.slot i) := by
  unfold Store.slot at h ⊢
  rw [List.getD_eq_getElem?_getD] at h ⊢
  cases e : x.slots[i]? with
  | none =>
    rw [e] at h
    exact nomatch h
  | some v => rfl

/-! ## A frame that opens (R128, R138) -/

/-- The slot that the store grants: none, with the slots as they were, or one of the four, now FILLING (R138). -/
theorem requestSlot_slots {c : ContentNo} {s : State} (len : s.store.slots.length = 4) :
    let r := requestSlot c s
    (r.1 = none ∧ r.2.store.slots = s.store.slots) ∨
      ∃ i < 4, r.1 = some i ∧ r.2.store.slots = s.store.slots.set i (fillingSlot c) := by
  unfold requestSlot
  dsimp only
  split
  · rename_i i h
    refine .inr ⟨i, ?_, rfl, rfl⟩
    obtain ⟨hi, -⟩ := List.findIdx?_eq_some_iff_getElem.1 h
    omega
  · split
    · split
      · rename_i i lost h
        refine .inr ⟨i, ?_, rfl, rfl⟩
        obtain ⟨r, -, h⟩ := Option.bind_eq_some_iff.1 h
        exact (mem_readySlots.1 (earliestSlot_spec h).1).1
      · exact .inl ⟨rfl, rfl⟩
    · exact .inl ⟨rfl, rfl⟩

theorem requestSlot_memory (c : ContentNo) (s : State) : (requestSlot c s).2.store.memory = s.store.memory := by
  unfold requestSlot
  dsimp only
  split
  · rfl
  · split
    · split <;> rfl
    · rfl

/-- What the end of an open frame by a FRAME_START leaves: the frame store as it was, and no open frame (R128). -/
theorem endByFrameStart_store (s : State) : (endByFrameStart s).store = s.store ∧
    (endByFrameStart s).settings = s.settings ∧ (endByFrameStart s).link.openFrame = none := by
  unfold endByFrameStart
  split
  · exact ⟨rfl, rfl, rfl⟩
  · exact ⟨rfl, rfl, ‹_›⟩

/-- The state with `f` as its open frame. -/
def State.withOpen (s : State) (f : OpenFrame) : State := s.withLink { s.link with openFrame := some f }

/-- The report of the first field that mismatches the input settings, when one does (R128). -/
def reportMismatch (bad : Option Nat) (s : State) : State :=
  match bad with
  | some field => report .link .formatMismatch field s
  | none => s

section
variable {s : State} {c : ContentNo} {f w h : Nat}

/-- The slot of the frame that a FRAME_START ends passes to the new frame (R128, R139). -/
theorem openNewFrame_passed {i : Nat} (passed : passedSlot s.link = some i) : openNewFrame c f w h s =
    let bad := formatMismatch s.settings f w h
    let t := reportMismatch bad (endByFrameStart s)
    (t.withStore (t.store.setSlot i (fillingSlot c))).withOpen ⟨c, some i, 0, bad.map (fun _ => 1)⟩ := by
  unfold openNewFrame
  rw [passed]
  rfl

/-- A frame that mismatches opens poisoned and without a slot, unless one passes to it (R128). -/
theorem openNewFrame_mismatch {field : Nat} (passed : passedSlot s.link = none)
    (bad : formatMismatch s.settings f w h = some field) : openNewFrame c f w h s =
    (report .link .formatMismatch field (endByFrameStart s)).withOpen ⟨c, none, 0, some 1⟩ := by
  unfold openNewFrame
  rw [passed, bad]
  rfl

/-- A frame that matches asks the frame store for a slot, unless one passes to it (R128, R138). -/
theorem openNewFrame_matching (passed : passedSlot s.link = none) (good : formatMismatch s.settings f w h = none) :
    openNewFrame c f w h s = (requestSlot c (endByFrameStart s)).2.withOpen
      ⟨c, (requestSlot c (endByFrameStart s)).1, 0, none⟩ := by
  unfold openNewFrame
  rw [passed, good]
  rfl

end

theorem reportMismatch_store (bad : Option Nat) (s : State) : (reportMismatch bad s).store = s.store := by cases bad <;> rfl

/-- A frame that opens takes over the FILLING slot of the one before, or takes a slot granted, or none (R128, R138, R139). -/
theorem openNewFrame_keepsStore (c : ContentNo) (f w h : Nat) (s : State) : KeepsStore s (openNewFrame c f w h s) := by
  obtain ⟨store, -, -⟩ := endByFrameStart_store s
  cases passed : passedSlot s.link with
  | some i =>
    rw [openNewFrame_passed passed]
    have same := (reportMismatch_store (formatMismatch s.settings f w h) (endByFrameStart s)).trans store
    refine .of_slots (congrArg Store.memory same :) fun fit => ?_
    rw [passed] at fit
    have filled := fit.openFrame (fit.inside i rfl) (fun j e => (Option.some.inj e).symm) c
    rwa [← same] at filled
  | none =>
    cases bad : formatMismatch s.settings f w h with
    | some field =>
      rw [openNewFrame_mismatch passed bad]
      exact .of_same (congrArg Store.memory store) (congrArg Store.slots store) passed.symm
    | none =>
      rw [openNewFrame_matching passed bad]
      have granted := fun len => requestSlot_slots (c := c) (s := endByFrameStart s) len
      have memory : (requestSlot c (endByFrameStart s)).2.store.memory = s.store.memory := by
        rw [requestSlot_memory, store]
      refine .of_slots memory fun fit => ?_
      rw [passed] at fit
      rw [store] at granted
      obtain ⟨slot, slots⟩ | ⟨i, hi, slot, slots⟩ := granted fit.length
      · show SlotsFit _ (requestSlot c (endByFrameStart s)).1
        rw [slot]
        exact slots ▸ fit
      · show SlotsFit _ (requestSlot c (endByFrameStart s)).1
        rw [slot]
        exact slots ▸ fit.openFrame hi nofun c

/-! ## Lines, and a frame that ends (R129 to R132, R140, R141) -/

/-- A line is written to the frame memory in its canonical form, and leaves the slots (R129, R130). -/
theorem writeLine_keepsStore {f : OpenFrame} {s : State} (slot : f.slot = passedSlot s.link) (pixels : List Rgb) :
    KeepsStore s (writeLine f pixels s) := by
  unfold writeLine
  dsimp only
  split
  · refine ⟨fun h => memWriteLine_wf _ _ _ _ h, fun h => ?_⟩
    rw [slotsSound_iff] at h ⊢
    exact slot ▸ h
  · exact withLink_keepsStore slot

theorem checkLine_keepsStore {f : OpenFrame} {s : State} (slot : f.slot = passedSlot s.link) (p : List Byte) :
    KeepsStore s (checkLine f p s) := by
  have wrong : ∀ k d c, KeepsStore s (poison c (report .link k d s)) := fun k d c =>
    (report_keepsStore _ _ _ s).trans (poison_keepsStore _ _)
  exact .ite (fun _ => wrong _ _ _) fun _ => .ite (fun _ => wrong _ _ _) fun _ => .ite (fun _ => .refl s) fun _ =>
    .ite (fun _ => poison_keepsStore _ _) fun _ => writeLine_keepsStore slot _

/-- The slots that a clean frame leaves fit no open frame: its slot is READY or FREE (R140, R141). -/
theorem handOver_slots (i : Nat) (c : ContentNo) (s : State) : (handOver i c s).store.memory = s.store.memory ∧
    (handOver i c s).link = s.link ∧
    (SlotsFit s.store.slots (some i) → SlotsFit (handOver i c s).store.slots none) := by
  have freed : SlotsFit s.store.slots (some i) → SlotsFit (s.store.slots.set i freeSlot) none := fun fit =>
    fit.endFrame freeSlot_sound (by simp [freeSlot]) (by simp [freeSlot])
  have ready : ∀ {l}, SlotsFit l (some i) → SlotsFit (l.set i (readySlot c s.current)) none := fun fit =>
    fit.endFrame (readySlot_sound _ _) (by simp [readySlot]) (by simp [readySlot])
  have kept : SlotsFit s.store.slots (some i) → SlotsFit (keepFrame i c s.current s.store).slots none := fun fit =>
    ready (fit.free (p := fun v => v.state = .ready ∧ v.content = some c) (fun v h => by simp [h.1]))
  have restarted : SlotsFit s.store.slots (some i) → SlotsFit (contentRestart i c s.current s).store.slots none := fun fit =>
    ready (fit.free (p := fun v => v.state = .ready) (fun v h => by simp [h]))
  unfold handOver
  dsimp only
  split
  · split
    · exact ⟨rfl, rfl, freed⟩
    · split
      · split
        · exact ⟨rfl, rfl, restarted⟩
        · exact ⟨rfl, rfl, freed⟩
      · exact ⟨rfl, rfl, kept⟩
  · exact ⟨rfl, rfl, kept⟩

theorem endFrame_keepsStore {f : OpenFrame} {s : State} (slot : f.slot = passedSlot s.link) (n : Nat) :
    KeepsStore s (endFrame f n s) := by
  refine .ite (fun _ => endPoisoned_keepsStore slot) fun _ => .ite (fun _ => ?_)
    (fun _ => endPoisoned_keepsStore (f := poisonFrame 6 f) slot)
  unfold completeClean
  dsimp only
  split
  · rename_i i hf
    obtain ⟨memory, link, fits⟩ := handOver_slots i f.content (s.withLink { s.link with
      openFrame := none, cleanFlag := true, cleanRun := satInc 255 s.link.cleanRun })
    refine .of_slots memory fun fit => ?_
    rw [← slot, hf] at fit
    rw [link]
    exact fits fit
  · rename_i hf
    refine withLink_keepsStore ?_
    rw [← slot, hf]
    rfl

/-! ## Packets and the lanes -/

theorem restartTimer_keepsStore (s : State) : KeepsStore s (restartTimer s) := withLink_keepsStore rfl

/-- A packet read keeps the frame memory and the slots sound (R127). -/
theorem readPacket_keepsStore (p : Packet) (s : State) : KeepsStore s (readPacket p s) := by
  refine .ite (fun _ => ?_) fun _ => .ite (fun _ => ?_) fun _ => .ite (fun _ => ?_) fun _ => restartTimer_keepsStore s
  · unfold readFrameStart
    split
    · exact (openNewFrame_keepsStore _ _ _ _ s).trans (restartTimer_keepsStore _)
    · exact losePacket_keepsStore _ _ s
  · unfold readLine
    refine KeepsStore.trans ?_ (restartTimer_keepsStore _)
    split
    · exact checkLine_keepsStore (passedSlot_of_open ‹_›).symm _
    · exact .refl s
  · unfold readFrameEnd
    split
    · refine KeepsStore.trans ?_ (restartTimer_keepsStore _)
      split
      · exact endFrame_keepsStore (passedSlot_of_open ‹_›).symm _
      · exact .refl s
    · exact losePacket_keepsStore _ _ s

/-- Reading the lanes on keeps the frame memory and the slots sound (R125 to R127). -/
theorem readLanes_keepsStore (n : Nat) (s : State) : KeepsStore s (readLanes n s) := by
  induction n generalizing s with
  | zero => exact .refl s
  | succ n ih =>
    have next : ∀ t, KeepsStore s t → KeepsStore s (readLanes n (takeReports t)) := fun t ht =>
      (ht.trans (takeReports_keepsStore t)).trans (ih _)
    unfold readLanes
    split
    · exact .refl s
    · exact next _ ((onReaders_keepsStore _ s).trans (reportIf_keepsStore _ _ _ _ _))
    · exact next _ (losePacket_keepsStore _ _ s)
    · exact next _ (losePacket_keepsStore _ _ s)
    · exact next _ ((onReaders_keepsStore _ s).trans (readPacket_keepsStore _ _))

theorem takeWords_keepsStore (words : List (List LaneWord)) (s : State) : KeepsStore s (takeWords words s) :=
  .ite (fun _ => (onReaders_keepsStore _ s).trans (readLanes_keepsStore _ _)) (fun _ => .refl s)

theorem linkUp_keepsStore (s : State) : KeepsStore s (linkUp s) := by
  have up : KeepsStore s (s.withLink { s.link with
      state := .up, inputTimer := s.timerNow, lanes := s.link.lanes.map Lane.released
      readers := s.link.lanes.map readerOf }) := withLink_keepsStore rfl
  exact up.trans (readLanes_keepsStore _ _)

theorem receiveBits_keepsStore (r : List (List Bool)) (s : State) : KeepsStore s (receiveBits r s) :=
  .ite (fun _ => withLink_keepsStore rfl) (fun _ => .refl s)

/-! ## The selection of a frame start (R143 to R147) -/

/-- A selection leaves the slots, or shows a READY slot in place of the one shown. -/
theorem selectContent_keepsStore (s : State) : KeepsStore s (selectContent s) := by
  unfold selectContent
  dsimp only
  refine KeepsStore.trans ?_ (reportIf_keepsStore _ _ _ _ _)
  refine KeepsStore.trans ?_ (reportIf_keepsStore _ _ _ _ _)
  split
  · rename_i i c h
    have ready : (s.store.slot i).state = .ready := by
      obtain ⟨r, -, h⟩ := Option.bind_eq_some_iff.1 h
      have mem := (List.mem_filter.1 (mem_of_latestSlot h)).1
      unfold Store.candidates at mem
      split at mem
      · exact (mem_readySlots.1 (List.mem_filter.1 mem).1).2.1
      · exact (mem_readySlots.1 mem).2.1
    exact .of_slots rfl fun fit => fit.take c (slot_of_ready ready) ready
  · exact .of_same rfl rfl rfl

end Sys2Proof.Machine
end

section
/-!
PROOFS. Every step keeps the canonical form of the frame memory and the slots sound (O5, O10).
-/
namespace Sys2Proof.Machine

/-! ## The resets, the load and the halt -/

/-- Entry to HALTED frees the FILLING slot and abandons the open frame (R119, R139, R150). -/
theorem enterHalted_keepsStore (s : State) : KeepsStore s (enterHalted s) := .of_slots rfl fun fit => fit.halt

theorem withLoader_keepsStore (s : State) (l : Loader) : KeepsStore s (s.withLoader l) := .of_blocks rfl rfl

theorem withPix_keepsStore (s : State) (p : PixelPath) : KeepsStore s (s.withPix p) := .of_blocks rfl rfl

theorem withLine_keepsStore (s : State) (l : FrameLine) : KeepsStore s (s.withLine l) := .of_blocks rfl rfl

/-- The halt with a report of the loader, and a raster that starts (R32, R173, R182). -/
theorem haltedLoad_keepsStore (k : FaultKind) (d : Nat) (l : Loader) (r : Raster) (s : State) :
    KeepsStore s (startRaster r (enterHalted (report .loader k d (s.withLoader l)))) :=
  (((withLoader_keepsStore s l).trans (report_keepsStore _ _ _ _)).trans (enterHalted_keepsStore _)).trans
    (withLine_keepsStore _ _)

theorem failLoad_keepsStore (code : Nat) (s : State) : KeepsStore s (failLoad code s) :=
  haltedLoad_keepsStore .imageInvalid code _ _ s

theorem failLoadIf_keepsStore (code : Option Nat) (s : State) : KeepsStore s (failLoadIf code s) := by
  cases code with
  | none => exact .refl s
  | some c => exact failLoad_keepsStore c s

/-- A start with the reset values frees every slot and keeps the frame memory that it is given, also where the straps halt the
station (R136, R173, R183). -/
theorem startValues_keepsStore {s : State} {memory : List (Nat × Rgb)} (h : memory = s.store.memory ∨ memory = [])
    (straps : BitVec 4) (stamp : Stamp) (low : Bool) (errors : List Nat) (faults : FaultUnit) (queue : List Instr) :
    KeepsStore s (strapCheck (startValues straps stamp low memory errors faults queue)) := by
  have started : KeepsStore s (startValues straps stamp low memory errors faults queue) := by
    refine ⟨fun wf => ?_, fun _ => (slotsSound_iff _).2 SlotsFit.reset⟩
    obtain rfl | rfl := h
    · exact wf
    · rfl
  exact started.trans (.ite (fun _ => haltedLoad_keepsStore .strapInvalid _ _ _ _) (fun _ => .refl _))

/-- A write of the maintenance port leaves the frame store, or resets it (R189, R192). -/
theorem portWrite_keepsStore (b : Byte) (w : I2cWrite) (straps : BitVec 4) (s : State) :
    KeepsStore s (portWrite b w straps s) := by
  have note : ∀ acks u, KeepsStore s u → KeepsStore s (noteWrite acks w u) := fun acks u h =>
    .ite (fun _ => ⟨h.memory, h.slots⟩) (fun _ => h)
  unfold portWrite
  apply note
  split
  · rename_i x _
    cases x with
    | restart => exact .ite (fun _ => startValues_keepsStore (.inl rfl) _ _ _ _ _ _) (fun _ => .refl s)
    | _ => exact .ite (fun _ => .of_blocks rfl rfl) (fun _ => .refl s)
  · exact .refl s

/-! ## The bus -/

/-- A frame received leaves the frame store, or halts the station by a clash (R31, R110 to R112). -/
theorem receiveFrame_keepsStore (f : BusFrame) (s : State) : KeepsStore s (receiveFrame f s) := by
  have clash : KeepsStore s (clashHalt f s) :=
    (report_keepsStore .controller .stationClash f.identifier.toNat s).trans (enterHalted_keepsStore _)
  refine .ite (fun _ => .refl s) fun _ => .ite (fun _ => clash) fun _ => ?_
  split
  · exact .of_blocks rfl rfl
  · rename_i m _
    refine .ite (fun _ => .of_blocks rfl rfl) fun _ => ?_
    obtain ⟨l, hl⟩ := offerCount_frame m.body (takeBody m.sender.toNat m.body (setHeard m.sender.toNat s))
    obtain ⟨a, y, x, h⟩ := takeBody_frame m.sender.toNat m.body (setHeard m.sender.toNat s)
    unfold acceptMessage
    rw [hl, h]
    exact .of_blocks rfl rfl

/-- An own message that completes leaves the frame store and the link receiver (R116). -/
theorem completeMessage_keepsStore (m : Message) (s : State) :
    KeepsStore s (ownNotice m.body (takeBody s.own m.body (s.withPort (completedPort s.port m.body)))) := by
  obtain ⟨a, y, x, ht⟩ := takeBody_frame s.own m.body (s.withPort (completedPort s.port m.body))
  obtain ⟨ps, k, w, hn⟩ := ownNotice_frame m.body (takeBody s.own m.body (s.withPort (completedPort s.port m.body)))
  rw [hn, ht]
  exact .of_blocks rfl rfl

/-! ## The frame start -/

theorem eccReport_keepsStore (s : State) : KeepsStore s (eccReport s) := by
  unfold eccReport
  split
  · exact .of_same rfl rfl rfl
  · exact .refl s

theorem inputHealthStep_keepsStore (s : State) : KeepsStore s (inputHealthStep s) := by
  obtain ⟨l, x, h⟩ := inputHealthStep_frame s
  refine .of_same (by rw [h]) (by rw [h]) ?_
  rw [inputHealthStep_link]
  rfl

/-- Up to its selection, a frame start leaves the slots and the open frame (log 8). -/
theorem frameJobs_keepsStore (first : Stamp) (s : State) : KeepsStore s (frameJobs (changedAt first s)) := by
  obtain ⟨x, hr⟩ := rasterFrameStart_frame first (endFrameReads s)
  have raster : KeepsStore (endFrameReads s) (rasterFrameStart first (endFrameReads s)) :=
    .of_blocks (by rw [hr]) (by rw [hr])
  have reads : KeepsStore s (endFrameReads s) := (eccReport_keepsStore s).trans (takeReports_keepsStore _)
  have off : ∀ t, KeepsStore t (portFrameStart t) := fun t => by
    rw [portFrameStart_eq]
    exact .of_blocks rfl rfl
  have silence : ∀ t, KeepsStore t (silenceStep (spacingStep t)) := fun t => by
    rw [silenceStep_frame]
    exact .of_blocks rfl rfl
  have counted : ∀ t, KeepsStore t (frameCounts t) := fun t =>
    (((off t).trans (inputHealthStep_keepsStore _)).trans (silence _)).trans (.of_blocks rfl rfl)
  have agreed : KeepsStore (countedAt first s) (agreedAt first s) := by
    obtain ⟨a, y, k, x, h⟩ := frameAgreement_frame (s.ctl.condition == .joining) s.line.frameNo (countedAt first s)
    rw [show agreedAt first s = _ from h]
    exact .of_blocks rfl rfl
  obtain ⟨e, y, p, w, x, hc⟩ := frameChanges_frame (agreedAt first s)
  obtain ⟨e', y', p', x', hj⟩ := frameJobs_frame (changedAt first s)
  have queued : KeepsStore (agreedAt first s) (frameJobs (changedAt first s)) := by
    rw [hj, show changedAt first s = _ from hc]
    exact .of_blocks rfl rfl
  exact (((reads.trans raster).trans (counted _)).trans agreed).trans queued

theorem workingFrameStart_keepsStore (first : Stamp) (s : State) : KeepsStore s (workingFrameStart first s) := by
  have setup : ∀ t, KeepsStore t (setupStep t) := fun t => by
    rw [setupStep_frame]
    exact .of_same rfl rfl rfl
  exact ((frameJobs_keepsStore first s).trans (selectContent_keepsStore _)).trans (setup _)

/-! ## Every command -/

/-- Every command keeps the frame memory canonical and the slots sound. -/
theorem exec_keepsStore {c : Instr} {s t : State} (h : exec c s = .next t) : KeepsStore s t := by
  cases c with
  | powerOnReset => exact .of_finish (startValues_keepsStore (.inr rfl) _ _ _ _ _ _) h
  | warmReset => exact .of_finish (startValues_keepsStore (.inl rfl) _ _ _ _ _ _) h
  | imageHeaderCheck | sectionHeadCheck | tableEntryCheck =>
    refine .of_finish (.ite (fun _ => ?_) (fun _ => .refl s)) h
    dsimp only
    split
    · exact (withLoader_keepsStore s _).trans (failLoad_keepsStore _ _)
    · exact KeepsStore.of_blocks rfl rfl
  | settingsSectionEnd entries =>
    refine .of_finish (.ite (fun _ => ?_) (fun _ => .refl s)) h
    dsimp only
    split
    · exact (withLoader_keepsStore s _).trans (failLoad_keepsStore _ _)
    · exact (withLoader_keepsStore s _).trans (.foldl (fun t c => report_keepsStore _ _ c t) _ _)
  | gridRecordCheck =>
    refine .of_finish (.ite (fun _ => ?_) (fun _ => .refl s)) h
    split
    · exact (withLoader_keepsStore s _).trans (failLoad_keepsStore _ _)
    · exact ((withLoader_keepsStore s _).trans (withPix_keepsStore _ _)).trans (failLoadIf_keepsStore _ _)
  | loadComplete =>
    refine .of_finish (.ite (fun _ => ?_) (fun _ => .refl s)) h
    split
    · exact .ite (fun _ => .of_blocks rfl rfl) (fun _ => failLoad_keepsStore _ s)
    · exact .refl s
  | frameStart first =>
    refine .of_finish (.ite (fun _ => .refl s) fun _ => .ite (fun _ => workingFrameStart_keepsStore first s) fun _ => ?_) h
    exact .ite (fun _ => .of_same rfl rfl rfl) (fun _ => .refl s)
  | frameLineRelease =>
    refine .of_finish ?_ h
    exact .ite (fun _ => withLine_keepsStore s _) (fun _ => .refl s)
  | lanesActive | settleExpiry | warpMeshEntryRead | busIdleJoin | beginAttempt =>
    refine .of_finish ?_ h
    exact .ite (fun _ => .of_same rfl rfl rfl) (fun _ => .refl s)
  | frameLineEdge =>
    refine .of_finish ?_ h
    exact .of_blocks rfl rfl
  | boundsPassComplete =>
    refine .of_finish ?_ h
    split
    · rename_i p _
      refine .ite (fun _ => ?_) (fun _ => .refl s)
      obtain ⟨e, y, q, x, done⟩ := completeBounds_frame p s
      obtain ⟨e', y', q', x', started⟩ := startJobs_frame (completeBounds p s)
      rw [started, done]
      exact .of_blocks rfl rfl
    · exact .refl s
  | coeffPassComplete =>
    refine .of_finish ?_ h
    split
    · rename_i p _
      refine .ite (fun _ => ?_) (fun _ => .refl s)
      obtain ⟨e, y, x, done⟩ := completeCoeff_frame p s
      obtain ⟨e', y', q', x', started⟩ := startJobs_frame (completeCoeff p s)
      rw [started, done]
      exact .of_blocks rfl rfl
    · exact .refl s
  | sendEvent =>
    refine .of_finish (.ite (fun _ => ?_) (fun _ => .refl s)) h
    have sent : KeepsStore s (s.withLine { s.line with
      stamp := s.line.startStamp + BitVec.ofNat 32 (s.tf / 8), sendPending := false }) := .of_blocks rfl rfl
    obtain ⟨p, x, queued⟩ := queuePeriodic_frame (s.withLine { s.line with
      stamp := s.line.startStamp + BitVec.ofNat 32 (s.tf / 8), sendPending := false })
    refine sent.trans (.ite (fun _ => ?_) (fun _ => .refl _))
    rw [queued]
    exact .of_blocks rfl rfl
  | windowCompletion =>
    refine .of_finish (.ite (fun _ => ?_) (fun _ => .refl s)) h
    obtain ⟨l, x, done⟩ := completeWindow_frame s
    rw [done]
    exact .of_blocks rfl rfl
  | lostArbitration =>
    refine .of_finish ?_ h
    split
    · exact .refl s
    · exact .ite (fun _ => .of_blocks rfl rfl) (fun _ => .of_blocks rfl rfl)
  | attemptFailed =>
    refine .of_finish ?_ h
    split
    · exact .refl s
    · rename_i m _
      refine .ite (fun _ => ?_) (fun _ => ?_)
      · obtain ⟨p, x, failed⟩ := failAttempt_frame m s
        rw [failed]
        exact .of_blocks rfl rfl
      · obtain ⟨p, x, failed⟩ := failHaltedAttempt_frame m s
        rw [failed]
        exact .of_blocks rfl rfl
  | messageComplete =>
    refine .of_finish ?_ h
    split
    · exact .refl s
    · exact .ite (fun _ => completeMessage_keepsStore _ s) fun _ => .of_blocks rfl rfl
  | stationClash | foreignMessage | receiveChange | receiveLight | receivePulse | receiveBounds | receiveLevels
  | showFade | showIdentify | showIdentifyOff => exact .of_finish (receiveFrame_keepsStore _ s) h
  | laneActivityLost lane received =>
    refine .of_finish (.ite (fun _ => ?_) (fun _ => .refl s)) h
    have down : KeepsStore s ((receiveBits received s).withLink
        { (receiveBits received s).link with state := .down, settleTimer := none }) :=
      (receiveBits_keepsStore received s).trans (withLink_keepsStore rfl)
    dsimp only
    split
    · exact .refl s
    · exact down
    · exact down
    · exact leaveUp_keepsStore s
  | trainingDecision =>
    refine .of_finish (.ite (fun _ => ?_) (fun _ => .refl s)) h
    split
    · exact .of_same rfl rfl rfl
    · exact linkUp_keepsStore s
  | inputTimeout =>
    exact .of_finish (.ite (fun _ => (report_keepsStore _ _ _ s).trans (leaveUp_keepsStore _)) (fun _ => .refl s)) h
  | packetLost | laneSkew | frameStartPacket | linePacket | frameEndPacket | otherPacket | strayLinePacket =>
    exact .of_finish (takeWords_keepsStore _ s) h
  | memoryEcc line column =>
    refine .of_finish ?_ h
    split
    · split
      · refine .ite (fun _ => ?_) (fun _ => .refl s)
        have found : ∀ a, KeepsStore s (s.withStore (s.store.withError a)) := fun a => .of_same rfl rfl rfl
        exact (found _).trans (eccReport_keepsStore _)
      · exact .refl s
    · exact .refl s
  | lightSample value ahead =>
    have sample : ∀ v n, KeepsStore s (takeSample v n s) := fun v n => by
      obtain ⟨w, x, hw⟩ := takeSample_frame v n s
      rw [hw]
      exact .of_blocks rfl rfl
    exact .of_finish (.ite (fun _ => .ite (fun _ => sample _ _) (fun _ => .ite (fun _ => sample _ _) (fun _ => .refl s)))
      (fun _ => .refl s)) h
  | selectCondition | selectInput | selectStore | selectLock | selectPeers | selectEpochs | selectLevels | selectFaults
  | selectCounters | selectImage | clearFaults | restart | attnMask | selectorRefused =>
    exact .of_finish (portWrite_keepsStore _ _ _ s) h
  | syncRecognised =>
    exact .of_finish (.ite (fun _ => receiveBits_keepsStore _ s) (fun _ => .refl s)) h

/-- A step keeps the frame memory canonical and the slots sound: a tick leaves both, and the queue bears on neither. -/
theorem step_keepsStore {s t : State} (h : step s = .next t) : KeepsStore s t := by
  obtain rfl | ⟨c, rest, run⟩ := step_cases h
  · exact .of_blocks rfl rfl
  · have queue : KeepsStore s { s with pending := rest } := .of_blocks rfl rfl
    exact queue.trans (exec_keepsStore run)

/-- Settles O5: a line written keeps the canonical form, and nothing else writes but a reset. -/
theorem memoryStaysCanonical : Obligations.MemoryStaysCanonical := fun _ _ wf h => (step_keepsStore h).memory wf

/-- Settles O10: the slot of a frame is FILLING from the frame's opening to its end, and a selection shows one READY slot in
place of the one shown. -/
theorem slotsStaySound : Obligations.SlotsStaySound := fun _ _ sound h => (step_keepsStore h).slots sound

end Sys2Proof.Machine
end

section
/-!
PROOFS. A packet that quiet lanes read whole, and the frame that it opens, fills or ends (O53, O54, O55).
-/
namespace Sys2Proof.Machine

/-! ## A packet read whole -/

/-- The state once each lane in use has used its words of a packet with `n` payload bytes (R118, R127). -/
def afterWords (n : Nat) (s : State) : State :=
  s.withLink { s.link with readers := readersPast (laneWordCount s n) s }

/-- The link receiver after a packet with `n` payload bytes that leaves the open frame `o` (R124). -/
def State.linkAfter (s : State) (n : Nat) (o : Option OpenFrame) : Link :=
  { s.link with openFrame := o, inputTimer := s.timerNow, readers := readersPast (laneWordCount s n) s }

/-- Taking the reports goes before or after the words of a packet. -/
theorem afterWords_takeReports (n : Nat) (s : State) : afterWords n (takeReports s) =
    (takeReports s).withLink { s.link with readers := readersPast (laneWordCount s n) s } := by
  unfold afterWords readersPast laneWordCount
  rw [takeReports_link, takeReports_settings]

section
variable {s : State} (hr : s.reads = true) (hq : s.lanesQuiet)
include hr hq

/-- Words that quiet lanes read as one packet have the packet's effect, in the moment after the reports that stood (R184). -/
theorem finish_takeWords {kind : Byte} {payload : List Byte} (hp : payload.length ≤ 65535)
    (h1 : kind = 1 → payload.length = 7) (h3 : kind = 3 → payload.length = 2) :
    finish (takeWords (packetWords s.usedReaders (syncHeads s) kind payload) s) =
      .next (takeReports (readPacket ⟨kind, payload⟩ (afterWords payload.length (takeReports s)))) := by
  rw [finish_eq_next, takeWords_packet hr hq hp h1 h3, takeReports_takeReports, afterWords_takeReports]

/-- FRAME_START_PACKET with a payload of seven bytes. -/
theorem exec_frameStartPacket (c : ContentNo) (format : Byte) (width height : BitVec 16) :
    exec (.frameStartPacket (syncHeads s) (bytes16 c ++ format :: bytes16 width ++ bytes16 height)) s =
      .next (takeReports (restartTimer (openNewFrame c format.toNat width.toNat height.toNat
        (afterWords 7 (takeReports s))))) := by
  refine (finish_takeWords hr hq (by simp [bytes16]) (fun _ => rfl) (fun h => absurd h (by decide))).trans ?_
  simp [readPacket, readFrameStart, bytes16]

variable (hs : s.settled)
include hs

/-- LINE_PACKET while frame `f` is open. -/
theorem exec_linePacket {f : OpenFrame} {payload : List Byte} (hf : s.link.openFrame = some f)
    (hp : payload.length ≤ 65535) : exec (.linePacket (syncHeads s) payload) s =
      .next (takeReports (restartTimer (checkLine f payload (afterWords payload.length s)))) := by
  refine (finish_takeWords hr hq hp (fun h => absurd h (by decide)) (fun h => absurd h (by decide))).trans ?_
  rw [takeReports_of_settled hs]
  have line : ∀ t : State, t.link.openFrame = some f →
      readPacket ⟨2, payload⟩ t = restartTimer (checkLine f payload t) := fun t ht => by
    simp [readPacket, readLine, ht]
  rw [line (afterWords payload.length s) hf]

/-- FRAME_END_PACKET with a payload of two bytes while frame `f` is open. -/
theorem exec_frameEndPacket {f : OpenFrame} (count : BitVec 16) (hf : s.link.openFrame = some f) :
    exec (.frameEndPacket (syncHeads s) (bytes16 count)) s =
      .next (takeReports (restartTimer (endFrame f count.toNat (afterWords 2 s)))) := by
  refine (finish_takeWords hr hq (by simp [bytes16]) (fun h => absurd h (by decide)) (fun _ => rfl)).trans ?_
  rw [takeReports_of_settled hs]
  have ends : ∀ t : State, t.link.openFrame = some f →
      readPacket ⟨3, bytes16 count⟩ t = restartTimer (endFrame f count.toNat t) := fun t ht => by
    simp [readPacket, readFrameEnd, ht, bytes16]
  rw [show (bytes16 count).length = 2 from rfl, ends (afterWords 2 s) hf]

end

/-- One report of a settled state, beside a change of the link receiver and the frame store. -/
theorem takeReports_reported {s : State} (hs : s.settled) (b : Block) (k : FaultKind) (d : Nat) (l : Link) (x : Store) :
    takeReports (report b k d ((s.withLink l).withStore x)) = reported k d { s with link := l, store := x } :=
  takeReports_report (s := (s.withLink l).withStore x) hs b k d

/-- A change of the link receiver and the frame store in a settled state. -/
theorem takeReports_changed {s : State} (hs : s.settled) (l : Link) (x : Store) :
    takeReports ((s.withLink l).withStore x) = { s with link := l, store := x } := by
  have still : ((s.withLink l).withStore x).settled := hs
  exact takeReports_of_settled still

section
variable {f : OpenFrame} {s : State} (hf : s.link.openFrame = some f)
include hf

theorem poison_of_open (c : Nat) : poison c s = s.withOpen (poisonFrame c f) := by
  unfold poison State.withOpen
  rw [hf]
  rfl

theorem withOpen_of_open : s.withOpen f = s := by
  unfold State.withOpen
  rw [← hf]
  rfl

end

/-! ## Lines (R129, R130) -/

/-- The frame memory after a line: its pixels at the line's addresses, and elsewhere what was there (R130). -/
theorem memRead_memWriteLine (slot line : Nat) (ps : List Rgb) : ∀ (column : Nat) {m : List (Nat × Rgb)} (a : Nat),
    memWf m = true → memRead (memWriteLine slot line column ps m) a =
      if pixelAddress slot line column ≤ a ∧ a < pixelAddress slot line column + ps.length
      then ps.getD (a - pixelAddress slot line column) blankPixel else memRead m a := by
  have next : ∀ column, pixelAddress slot line (column + 1) = pixelAddress slot line column + 1 := fun _ => by
    unfold pixelAddress
    omega
  induction ps with
  | nil =>
    intro column m a _
    rw [if_neg (by simp)]
    rfl
  | cons x rest ih =>
    intro column m a wf
    rw [memWriteLine, ih _ a (memWrite_wf _ x wf), memRead_memWrite _ _ _ wf, next, List.length_cons]
    obtain below | rfl | above := lt_trichotomy a (pixelAddress slot line column)
    · rw [if_neg (by omega), if_neg (by omega), if_neg (by omega)]
    · rw [if_neg (by omega), if_pos rfl, if_pos (by omega), Nat.sub_self]
      rfl
    · rw [if_neg (by omega : a ≠ pixelAddress slot line column)]
      by_cases inside : a < pixelAddress slot line column + (rest.length + 1)
      · rw [if_pos (by omega), if_pos (by omega), show a - pixelAddress slot line column =
          a - (pixelAddress slot line column + 1) + 1 by omega, List.getD_cons_succ]
      · rw [if_neg (by omega), if_neg (by omega)]

theorem length_pixels8 : ∀ l : List Byte, (pixels8 l).length = l.length / 3
  | [] => rfl
  | [_] => by simp [pixels8]
  | [_, _] => by simp [pixels8]
  | _ :: _ :: _ :: rest => by
    rw [pixels8, List.length_cons, length_pixels8 rest]
    simp only [List.length_cons]
    omega

theorem length_pixels10 : ∀ l : List Byte, (pixels10 l).length = l.length / 4
  | [] => rfl
  | [_] => by simp [pixels10]
  | [_, _] => by simp [pixels10]
  | [_, _, _] => by simp [pixels10]
  | _ :: _ :: _ :: _ :: rest => by
    rw [pixels10, List.length_cons, length_pixels10 rest]
    simp only [List.length_cons]
    omega

/-- A line of the right length holds a pixel for each column (R127). -/
theorem length_linePixels {format width : Nat} {payload : List Byte} (hf : format = 1 ∨ format = 2)
    (fits : payload.length = lineLength format width) : (linePixels format payload).length = width := by
  unfold lineLength at fits
  unfold linePixels
  obtain rfl | rfl := hf
  · simp only [if_true] at fits ⊢
    rw [length_pixels8, List.length_take, List.length_drop]
    omega
  · simp only [Nat.reduceEqDiff, if_false] at fits ⊢
    rw [length_pixels10, List.length_take, List.length_drop]
    omega

section
variable {f : OpenFrame} {payload : List Byte} (s : State)

theorem checkLine_wrongLength (h : payload.length ≠ lineLength s.settings.inFormat s.settings.inWidth) :
    checkLine f payload s = poison 3 (report .link .lineLength (payload.length % 65536) s) := if_pos h

variable (fits : payload.length = lineLength s.settings.inFormat s.settings.inWidth)
include fits

theorem checkLine_wrongCheck (h : lineCrcMatches payload = false) :
    checkLine f payload s = poison 2 (report .link .lineCheck (lineNumber payload) s) :=
  (if_neg (not_not.2 fits)).trans (if_pos h)

variable (good : lineCrcMatches payload = true)
include good

theorem checkLine_poisoned (h : f.poison ≠ none) : checkLine f payload s = s := by
  refine (if_neg (not_not.2 fits)).trans ((if_neg (by simp [good])).trans (if_pos ?_))
  exact Option.isSome_iff_ne_none.2 h

variable (clean : f.poison = none)
include clean

theorem checkLine_outOfOrder (h : ¬(lineNumber payload = f.nextLine ∧ f.nextLine < s.settings.inHeight)) :
    checkLine f payload s = poison 4 s := by
  refine (if_neg (not_not.2 fits)).trans ((if_neg (by simp [good])).trans ((if_neg (by simp [clean])).trans (if_pos ?_)))
  by_cases n : lineNumber payload = f.nextLine
  · exact .inr (not_lt.1 fun lt => h ⟨n, lt⟩)
  · exact .inl n

theorem checkLine_written (h : lineNumber payload = f.nextLine ∧ f.nextLine < s.settings.inHeight) :
    checkLine f payload s = writeLine f (linePixels s.settings.inFormat payload) s := by
  refine (if_neg (not_not.2 fits)).trans ((if_neg (by simp [good])).trans ((if_neg (by simp [clean])).trans (if_neg ?_)))
  rintro (n | n)
  · exact n h.1
  · omega

end

theorem writeLine_slotless {f : OpenFrame} (h : f.slot = none) (pixels : List Rgb) (s : State) :
    writeLine f pixels s = s.withOpen { f with nextLine := f.nextLine + 1 } := by
  unfold writeLine
  rw [h]
  rfl

/-- The frame store with a line written: its pixels in the frame memory, and no error among them (R130, log 20). -/
def Store.withLine (x : Store) (slot line : Nat) (pixels : List Rgb) : Store := { x with
  memory := memWriteLine slot line 0 pixels x.memory
  errors := x.errors.filter (fun a => !(lineHolds slot line pixels.length a)) }

theorem writeLine_slot {f : OpenFrame} {i : Nat} (h : f.slot = some i) (pixels : List Rgb) (s : State) :
    writeLine f pixels s =
      (s.withOpen { f with nextLine := f.nextLine + 1 }).withStore (s.store.withLine i f.nextLine pixels) := by
  unfold writeLine
  rw [h]
  rfl

/-- Settles O54: each check of a LINE in its order, and the pixels of a line that passes them all. -/
theorem lineWritten : Obligations.LineWritten := by
  intro f payload s hs hr hq hf hp
  have run := exec_linePacket hr hq hs hf hp
  let u := afterWords payload.length s
  have opens : u.link.openFrame = some f := hf
  have settles : ∀ g, takeReports (restartTimer (u.withOpen g)) = { s with link := s.linkAfter payload.length (some g) } :=
    fun g => takeReports_changed hs (s.linkAfter payload.length (some g)) s.store
  have reports : ∀ k d c, takeReports (restartTimer (poison c (report .link k d u))) =
      reported k d { s with link := s.linkAfter payload.length (some (poisonFrame c f)) } := fun k d c => by
    rw [poison_of_open (s := report .link k d u) opens]
    exact takeReports_reported hs .link k d (s.linkAfter payload.length (some (poisonFrame c f))) s.store
  refine ⟨fun long => ?_, fun fits bad => ?_, fun fits good dirty => ?_, fun fits good clean skips => ?_,
    fun fits good clean follows slotless => ?_, fun i fits good clean follows slot wf format => ?_⟩
  · rw [run, checkLine_wrongLength u long, Nat.mod_eq_of_lt (by omega)]
    exact congrArg _ (reports _ _ _)
  · rw [run, checkLine_wrongCheck u fits bad]
    exact congrArg _ (reports _ _ _)
  · rw [run, checkLine_poisoned u fits good dirty, ← withOpen_of_open opens]
    exact congrArg _ (settles f)
  · rw [run, checkLine_outOfOrder u fits good clean skips, poison_of_open opens]
    exact congrArg _ (settles _)
  · rw [run, checkLine_written u fits good clean follows, writeLine_slotless slotless]
    exact congrArg _ (settles _)
  · rw [run, checkLine_written u fits good clean follows, writeLine_slot slot]
    have width := length_linePixels format fits
    let x := s.store.withLine i f.nextLine (linePixels s.settings.inFormat payload)
    have base : ∀ a, pixelAddress i f.nextLine a = pixelAddress i f.nextLine 0 + a := fun a => by
      unfold pixelAddress
      omega
    refine ⟨_, congrArg _ (takeReports_changed hs (s.linkAfter payload.length (some { f with nextLine := f.nextLine + 1 })) x),
      rfl, rfl, width, fun a ha => ?_, fun a ha => ?_, fun a => ?_, rfl⟩
    · refine (memRead_memWriteLine _ _ _ 0 _ wf).trans ?_
      rw [width, if_pos (by omega), Nat.add_sub_cancel_left]
    · refine (memRead_memWriteLine _ _ _ 0 _ wf).trans ?_
      rw [width, if_neg (by omega)]
    · show a ∈ List.filter _ _ ↔ _
      simp only [List.mem_filter, lineHolds, width, base s.settings.inWidth, Bool.not_eq_true', decide_eq_false_iff_not]
      refine and_congr_right fun _ => ?_
      omega

end Sys2Proof.Machine
end

section
/-!
PROOFS. What becomes of a frame that a FRAME_END ends, and of its slot (O55).
-/
namespace Sys2Proof.Machine

/-! ## A clean frame by the key of its content (R140, R141) -/

section
variable {i : Nat} {c r : ContentNo} {s : State}

theorem handOver_unordered (h : s.store.ordered = false) :
    handOver i c s = s.withStore (keepFrame i c s.current s.store) := by
  unfold handOver
  dsimp only
  rw [h]

variable (ordered : s.store.ordered = true) (shown : s.store.showingNumber = some r)
include ordered shown

/-- With content shown, a clean frame is dropped, counted or kept by its key against the showing number. -/
theorem handOver_ordered : handOver i c s =
    if -256 ≤ contentKey c r ∧ contentKey c r ≤ 0 then s.withStore { s.store.setSlot i freeSlot with behind := 0 }
    else if contentKey c r < -256 then
      if 8 ≤ s.store.behind + 1 then contentRestart i c s.current s
      else s.withStore { s.store.setSlot i freeSlot with behind := s.store.behind + 1 }
    else s.withStore (keepFrame i c s.current s.store) := by
  unfold handOver
  dsimp only
  rw [ordered, shown]

theorem handOver_kept (key : 0 < contentKey c r) : handOver i c s = s.withStore (keepFrame i c s.current s.store) := by
  rw [handOver_ordered ordered shown, if_neg (by omega), if_neg (by omega)]

theorem handOver_dropped (key : -256 ≤ contentKey c r ∧ contentKey c r ≤ 0) :
    handOver i c s = s.withStore { s.store.setSlot i freeSlot with behind := 0 } := by
  rw [handOver_ordered ordered shown, if_pos key]

theorem handOver_behind (key : contentKey c r < -256) (few : s.store.behind + 1 < 8) :
    handOver i c s = s.withStore { s.store.setSlot i freeSlot with behind := s.store.behind + 1 } := by
  rw [handOver_ordered ordered shown, if_neg (by omega), if_pos key, if_neg (by omega)]

theorem handOver_restart (key : contentKey c r < -256) (eighth : 8 ≤ s.store.behind + 1) :
    handOver i c s = contentRestart i c s.current s := by
  rw [handOver_ordered ordered shown, if_neg (by omega), if_pos key, if_pos eighth]

end

/-! ## The end of a frame (R131, R132, R135) -/

/-- The frame store once the slot of the frame `f`, when it has one, is FREE (R131). -/
def Store.released (x : Store) (f : OpenFrame) : Store :=
  match f.slot with
  | some i => { x with slots := x.slots.set i freeSlot }
  | none => x

/-- The link receiver after a clean frame (R132, R135). -/
def State.linkClean (s : State) : Link :=
  { s.linkAfter 2 none with cleanFlag := true, cleanRun := satInc 255 s.link.cleanRun }

/-- A clean frame with slot `i` is handed over. -/
theorem completeClean_slot {f : OpenFrame} {i : Nat} (slot : f.slot = some i) (s : State) :
    completeClean f (afterWords 2 s) = handOver i f.content ((afterWords 2 s).withLink { (afterWords 2 s).link with
      openFrame := none, cleanFlag := true, cleanRun := satInc 255 s.link.cleanRun }) := by
  unfold completeClean
  rw [slot]
  rfl

section
variable {f : OpenFrame} {s : State} (hs : s.settled)
include hs

/-- A poisoned frame that a FRAME_END ends. -/
theorem takeReports_endPoisoned (f : OpenFrame) : takeReports (restartTimer (endPoisoned f (afterWords 2 s))) =
    reported .framePoisoned (poisonDetail f)
      { s with link := { s.linkAfter 2 none with cleanRun := 0 }, store := s.store.released f } := by
  have settles := takeReports_reported hs .link .framePoisoned (poisonDetail f) { s.linkAfter 2 none with cleanRun := 0 }
  unfold endPoisoned releaseFrameSlot Store.released
  cases f.slot with
  | none => exact settles s.store
  | some i => exact settles (s.store.setSlot i freeSlot)

/-- A clean frame without a slot. -/
theorem takeReports_completeClean_slotless (slot : f.slot = none) :
    takeReports (restartTimer (completeClean f (afterWords 2 s))) = { s with link := s.linkClean } := by
  unfold completeClean
  rw [slot]
  exact takeReports_changed hs s.linkClean s.store

end

/-- Settles O55: a frame ends poisoned by its own cause or by its line counts, or is handed over by its content's key. -/
theorem frameEndHandsOver : Obligations.FrameEndHandsOver := by
  intro f count s hs hr hq hf
  have run := exec_frameEndPacket hr hq hs count hf
  let u := afterWords 2 s
  refine ⟨fun cause poisoned => ?_, fun clean short => ?_, fun clean whole slotless => ?_, fun i clean whole slot => ?_⟩
  · rw [run, show endFrame f count.toNat u = endPoisoned f u from if_pos (by rw [poisoned]; rfl)]
    refine congrArg _ ((takeReports_endPoisoned hs f).trans ?_)
    unfold poisonDetail
    rw [poisoned]
    rfl
  · have ends : endFrame f count.toNat u = endPoisoned (poisonFrame 6 f) u :=
      (if_neg (by rw [clean]; decide)).trans (if_neg short)
    rw [run, ends]
    refine congrArg _ ((takeReports_endPoisoned hs (poisonFrame 6 f)).trans ?_)
    unfold poisonDetail poisonFrame
    rw [clean]
    rfl
  · have ends : endFrame f count.toNat u = completeClean f u := (if_neg (by rw [clean]; decide)).trans (if_pos whole)
    rw [run, ends]
    exact congrArg _ (takeReports_completeClean_slotless hs slotless)
  · have ends : endFrame f count.toNat u = completeClean f u := (if_neg (by rw [clean]; decide)).trans (if_pos whole)
    have settles := takeReports_changed hs s.linkClean
    rw [run, ends, completeClean_slot slot]
    refine ⟨fun unordered => ?_, fun r ordered shown => ⟨fun key => ?_, fun low high => ?_, fun key few => ?_,
      fun key eighth => ?_⟩⟩
    · rw [handOver_unordered (by exact unordered)]
      exact congrArg _ (settles (keepFrame i f.content s.current s.store))
    · rw [handOver_kept (by exact ordered) (by exact shown) key]
      exact congrArg _ (settles (keepFrame i f.content s.current s.store))
    · rw [handOver_dropped (by exact ordered) (by exact shown) ⟨low, high⟩]
      exact congrArg _ (settles { s.store.setSlot i freeSlot with behind := 0 })
    · rw [handOver_behind (by exact ordered) (by exact shown) key (by exact few)]
      exact congrArg _ (settles { s.store.setSlot i freeSlot with behind := s.store.behind + 1 })
    · rw [handOver_restart (by exact ordered) (by exact shown) key (by exact eighth)]
      exact congrArg _ (takeReports_reported hs .store .contentRestart f.content.toNat s.linkClean
        { (dropReady s.store).setSlot i (readySlot f.content s.current) with
          lastKept := some f.content, behind := 0, restartMark := true })

end Sys2Proof.Machine
end

section
/-!
PROOFS. The frame that a FRAME_START opens, and the slot that it takes (O53).
-/
namespace Sys2Proof.Machine

/-! ## The request for a slot (R138) -/

/-- Content is far behind when it lies more than 256 behind the showing number of an ordered store (R138). -/
theorem farBehind_iff {x : Store} {c : ContentNo} : x.farBehind c = true ↔
    x.ordered = true ∧ ∃ r, x.showingNumber = some r ∧ contentKey c r < -256 := by
  unfold Store.farBehind
  cases x.ordered <;> cases x.showingNumber <;> simp

section
variable {c : ContentNo} {s : State}

theorem requestSlot_free {i : Nat} (free : s.store.lowestFree = some i) :
    requestSlot c s = (some i, s.withStore (s.store.setSlot i (fillingSlot c))) := by
  unfold requestSlot
  dsimp only
  rw [free]

variable (full : s.store.lowestFree = none)
include full

/-- The READY slot of the earliest content is taken (R138). -/
theorem requestSlot_overrun (takes : s.settings.overrun = 1 ∨ s.store.farBehind c = true) {r : ContentNo} {i : Nat}
    {d : ContentNo} (reference : s.store.reference = some r) (earliest : earliestSlot r s.store.readySlots = some (i, d)) :
    requestSlot c s =
      (some i, report .store .storeOverrun d.toNat (s.withStore (s.store.setSlot i (fillingSlot c)))) := by
  unfold requestSlot
  dsimp only
  rw [full, reference, Option.bind_some, earliest]
  exact if_pos takes

theorem requestSlot_refused (refuses : ¬(s.settings.overrun = 1 ∨ s.store.farBehind c = true)) :
    requestSlot c s = (none, report .store .storeRefused c.toNat s) := by
  unfold requestSlot
  dsimp only
  rw [full]
  exact if_neg refuses

end

/-! ## The frame before, and the format (R128) -/

/-- The field of a FRAME_START that mismatches first is the one that the checks of R128 name. -/
theorem formatMismatch_eq (x : Settings) (format width height : Nat) : formatMismatch x format width height =
    if format = x.inFormat ∧ width = x.inWidth ∧ height = x.inHeight then none
    else some (if format ≠ x.inFormat then 1 else if width ≠ x.inWidth then 2 else 3) := by
  unfold formatMismatch
  split_ifs with f w h all all all <;> simp_all

theorem endByFrameStart_none {s : State} (h : s.link.openFrame = none) : endByFrameStart s = s := by
  unfold endByFrameStart
  rw [h]

theorem endByFrameStart_some {f : OpenFrame} {s : State} (h : s.link.openFrame = some f) :
    endByFrameStart s = endPoisonedKeepSlot (poisonFrame 7 f) s := by
  unfold endByFrameStart
  rw [h]

/-- A FRAME_START ends the frame before it with the run count at 0 (R128, R135). -/
theorem endByFrameStart_afterWords (s : State) : ∃ y, endByFrameStart (afterWords 7 (takeReports s)) = { s with
    link := { s.link with
      openFrame := none, cleanRun := if s.link.openFrame = none then s.link.cleanRun else 0
      readers := readersPast (laneWordCount s 7) s }
    faults := y } := by
  rw [afterWords_takeReports, takeReports_eq]
  cases h : s.link.openFrame with
  | none =>
    rw [endByFrameStart_none (by exact h), if_pos rfl, ← h]
    exact ⟨_, rfl⟩
  | some f =>
    rw [endByFrameStart_some (by exact h), if_neg nofun]
    exact ⟨_, rfl⟩

/-- Reports of one block made in a settled moment are taken in their order, so that LAST holds the newer (R184, R186). -/
theorem takeReports_last {s : State} {b : Block} {l : List (Block × FaultRecord)} {r : FaultRecord}
    (moment : s.faults.moment = l ++ [(b, r)]) (one : ∀ x ∈ l, x.1 = b) : (takeReports s).faults.last = some r := by
  have taken : takenOrder (l ++ [(b, r)]).length s.faults.freeCount (l ++ [(b, r)]) = (l ++ [(b, r)]).map Prod.snd :=
    takenOrder_one_block (b := b) _ _ le_rfl fun x hx => by
      obtain hx | hx := List.mem_append.1 hx
      · exact one x hx
      · rw [List.mem_singleton.1 hx]
  unfold takeReports
  rw [moment]
  split
  · simp_all
  · simp only [State.withFaults_faults, taken]
    simp

theorem reportMismatch_frame (bad : Option Nat) (s : State) : ∃ x, reportMismatch bad s = { s with faults := x } := by
  cases bad with
  | none => exact ⟨s.faults, rfl⟩
  | some field => exact ⟨_, rfl⟩

theorem reportMismatch_keepsCounts (bad : Option Nat) (s : State) : KeepsCounts s (reportMismatch bad s) := by
  cases bad with
  | none => exact .refl s
  | some field => exact report_keepsCounts _ _ _ s

theorem earliestSlot_isSome (r : ContentNo) {l : List (Nat × ContentNo)} (h : l ≠ []) :
    ∃ x, earliestSlot r l = some x := by
  cases l with
  | nil => exact absurd rfl h
  | cons a l => exact ⟨_, rfl⟩

/-- Settles O53: the slot of the new frame is the one passed on, the lowest FREE, the earliest READY, or none. -/
theorem frameStartOpens : Obligations.FrameStartOpens := by
  intro content format width height s hr hq c matching field x opened filling
  have run := exec_frameStartPacket hr hq content format width height
  obtain ⟨y, ended⟩ := endByFrameStart_afterWords s
  let u := afterWords 7 (takeReports s)
  have link : u.link = { s.link with readers := readersPast (laneWordCount s 7) s } := by
    show (afterWords 7 (takeReports s)).link = _
    rw [afterWords_takeReports]
    rfl
  have passes : passedSlot u.link = passedSlot s.link := by rw [link]; rfl
  have check : formatMismatch u.settings format.toNat width.toNat height.toNat =
      if matching then none else some field := by
    rw [show u.settings = s.settings from takeReports_settings s, formatMismatch_eq]
  have quiet : s.settled → s.link.openFrame = none → endByFrameStart u = afterWords 7 s := fun hs none => by
    rw [endByFrameStart_none (by rw [link]; exact none), show u = afterWords 7 s from congrArg (afterWords 7) (takeReports_of_settled hs)]
  have unheld : s.link.openFrame = none → passedSlot s.link = none := fun closed => by rw [passedSlot, closed]; rfl
  have opens : s.link.openFrame = none → ∀ slot p, opened slot p = s.linkAfter 7 (some ⟨content, slot, 0, p⟩) :=
    fun closed slot p => by
      show ({ s.linkAfter 7 (some ⟨content, slot, 0, p⟩) with
        cleanRun := if s.link.openFrame = none then s.link.cleanRun else 0 } : Link) = _
      rw [if_pos closed]
      rfl
  refine ⟨fun i good slot free => ?_, fun good closed full hs => ⟨fun r takes reference ready => ?_, fun refuses => ?_⟩,
    fun bad closed hs => ?_, fun f i hf slot => ?_⟩
  · rw [run, openNewFrame_matching (passes.trans slot) (check.trans (if_pos good)), ended, requestSlot_free (by exact free)]
    refine ⟨_, rfl, ?_⟩
    rw [takeReports_eq]
    rfl
  · obtain ⟨j, d, hj⟩ := ready
    obtain ⟨⟨i, e⟩, earliest⟩ := earliestSlot_isSome r (List.ne_nil_of_mem (mem_readySlots.2 hj))
    obtain ⟨mem, least⟩ := earliestSlot_spec earliest
    refine ⟨i, e, mem_readySlots.1 mem, fun j d hj => least (j, d) (mem_readySlots.2 hj), ?_⟩
    rw [run, openNewFrame_matching (passes.trans (unheld closed)) (check.trans (if_pos good)), quiet hs closed,
      requestSlot_overrun (s := afterWords 7 s) (by exact full) (takes.imp_right farBehind_iff.2) (by exact reference) (by exact earliest), opens closed]
    exact congrArg _ (takeReports_reported hs .store .storeOverrun e.toNat
      (s.linkAfter 7 (some ⟨content, some i, 0, none⟩)) (s.store.setSlot i (fillingSlot content)))
  · rw [run, openNewFrame_matching (passes.trans (unheld closed)) (check.trans (if_pos good)), quiet hs closed,
      requestSlot_refused (s := afterWords 7 s) (by exact full) (fun h => refuses (h.imp_right farBehind_iff.1)), opens closed]
    exact congrArg _ (takeReports_reported hs .store .storeRefused content.toNat
      (s.linkAfter 7 (some ⟨content, none, 0, none⟩)) s.store)
  · rw [run, openNewFrame_mismatch (passes.trans (unheld closed)) (check.trans (if_neg bad)), quiet hs closed, opens closed]
    exact congrArg _ (takeReports_reported hs .link .formatMismatch field
      (s.linkAfter 7 (some ⟨content, none, 0, some 1⟩)) s.store)
  · rw [run, openNewFrame_passed (passes.trans ((passedSlot_of_open hf).trans slot)), check]
    have poisons : endByFrameStart u = endPoisonedKeepSlot (poisonFrame 7 f) u :=
      endByFrameStart_some (by rw [link]; exact hf)
    let t := reportMismatch (if matching then none else some field) (endByFrameStart u)
    have pending : t.faults.pending.getLsbD (faultNumber .framePoisoned) = true := by
      refine (reportMismatch_keepsCounts _ (endByFrameStart u)).1.pending _ ?_
      rw [poisons]
      exact report_pendingBit _ _ _ _
    have reports : ¬matching → t = report .link .formatMismatch field (endByFrameStart u) := fun bad =>
      congrArg (fun o => reportMismatch o (endByFrameStart u)) (if_neg bad)
    refine ⟨_, rfl, ?_, ?_, fun bad => ⟨?_, fun _ => ?_⟩⟩
    · obtain ⟨z, frame⟩ := reportMismatch_frame (if matching then none else some field) (endByFrameStart u)
      have cause : (if matching then none else some field).map (fun _ => 1) = if matching then none else some 1 := by
        split <;> rfl
      dsimp only
      rw [takeReports_eq, frame, ended, cause]
      rfl
    · rw [takeReports_pendingSet]
      exact pending
    · rw [takeReports_pendingSet]
      show t.faults.pending.getLsbD (faultNumber .formatMismatch) = true
      rw [reports bad]
      exact report_pendingBit _ _ _ _
    · refine takeReports_last (b := .link)
        (l := [(.link, ⟨.framePoisoned, s.line.frameNo, BitVec.ofNat 16 (poisonDetail (poisonFrame 7 f))⟩)])
        ?_ (by simp)
      show t.faults.moment = _
      rw [reports bad, poisons]
      show (u.faults.moment ++ [(.link, ⟨.framePoisoned, u.line.frameNo, _⟩)]) ++ [(.link, ⟨.formatMismatch, u.line.frameNo, _⟩)] = _
      rw [show u.faults.moment = [] from takeReports_moment s, show u.line = s.line from takeReports_line s]
      rfl

end Sys2Proof.Machine
end

section
/-!
PROOFS. The lanes read word by word while no packet is whole or lost: how a run of such words ends (R125, R126).
-/
namespace Sys2Proof.Machine

/-! ## One word read -/

/-- The state once lane `j` has read its next word, without the report that a corrected start makes. -/
def readOne (j : Nat) (s : State) : State := onReaders (fun i x => if i = j then x.readWord else x) s

theorem lossOf_ne_reads (marks : List (Option StartClass)) (j : Nat) : lossOf marks ≠ .reads j := by
  unfold lossOf
  split <;> exact nofun

/-- The lane that reads next has marked no start and holds a word. -/
theorem gather_reads_holds {times : List Nat} {readers : List LaneReader} {j : Nat}
    (h : gather times readers = .reads j) : ∃ x w rest, readers[j]? = some x ∧ x.mark = none ∧ x.words = w :: rest := by
  obtain ⟨t, next⟩ : ∃ t, nextWord times readers = some (t, j) := by
    unfold gather at h
    split at h
    · exact nomatch h
    · rename_i t lane _ next
      exact ⟨t, by rw [next, Gathered.reads.inj h]⟩
    · dsimp only at h
      split at h
      · split at h
        · rename_i t i next
          split at h
          · exact ⟨t, by rw [next, Gathered.reads.inj h]⟩
          · exact absurd h (lossOf_ne_reads _ j)
        · split at h
          · exact absurd h (lossOf_ne_reads _ j)
          · exact nomatch h
      · split at h
        · exact absurd h (lossOf_ne_reads _ j)
        · split at h <;> exact nomatch h
  obtain ⟨k, hk, at'⟩ := earliest_mem next
  obtain rfl : j = k := by omega
  rw [List.getElem?_zipWith] at at'
  split at at'
  · rename_i u x hu hx
    have time := Option.some.inj at'
    unfold wordTime at time
    split_ifs at time with holds
    rw [Bool.and_eq_true, Option.isNone_iff_eq_none, Bool.not_eq_true', List.isEmpty_eq_false_iff] at holds
    obtain ⟨w, rest, words⟩ := List.exists_cons_of_ne_nil holds.2
    exact ⟨x, w, rest, hx, holds.1, words⟩
  · exact nomatch at'

theorem usedReaders_readOne {j : Nat} {s : State} {x : LaneReader} (hx : s.usedReaders[j]? = some x) :
    (readOne j s).usedReaders = s.usedReaders.set j x.readWord := by
  unfold readOne
  rw [usedReaders_onReaders]
  apply List.ext_getElem?
  intro i
  rw [List.getElem?_mapIdx, List.getElem?_set]
  by_cases hij : i = j
  · subst hij
    rw [hx, if_pos rfl, if_pos (List.getElem?_eq_some_iff.1 hx).1, Option.map_some, if_pos rfl]
  · simp [hij, Ne.symm hij]

/-- A word that marks no corrected start is read without a report. -/
theorem readWord_unreported {j : Nat} {s : State} {x : LaneReader} (hx : s.usedReaders[j]? = some x)
    (plain : x.readWord.mark ≠ some .corrected) : readWord j s = readOne j s := by
  have hj := (List.getElem?_eq_some_iff.1 hx).1
  have mark : ((readOne j s).usedReaders.getD j freshReader).mark = x.readWord.mark := by
    rw [usedReaders_readOne hx, List.getD_eq_getElem?_getD, List.getElem?_set_self (by simpa using hj), Option.getD_some]
  show reportIf (((readOne j s).usedReaders.getD j freshReader).mark == some .corrected) _ _ _ (readOne j s) = _
  rw [mark, beq_eq_false_iff_ne.2 plain]
  rfl

/-- Lanes that read words without a report, until none has a word to read: `todo` counts the words that a lane is still to read,
`goal` is the lane once it has read them, and `Ok` holds on the way. -/
theorem readLanes_through {Ok : State → Prop} {todo : LaneReader → Nat} {goal : LaneReader → LaneReader}
    (next : ∀ s, Ok s → (∃ x ∈ s.usedReaders, todo x ≠ 0) → ∃ j x, gather s.usedTimes s.usedReaders = .reads j ∧
      s.usedReaders[j]? = some x ∧ todo x = todo x.readWord + 1 ∧ goal x.readWord = goal x ∧
      x.readWord.mark ≠ some .corrected ∧ Ok (readOne j s))
    (done : ∀ x, todo x = 0 → goal x = x) :
    ∀ (n fuel : Nat) (s : State), s.settled → Ok s → (s.usedReaders.map todo).sum = n →
      readLanes (fuel + n) s = readLanes fuel (onReaders (fun _ => goal) s) := by
  intro n
  induction n with
  | zero =>
    intro fuel s _ _ sum
    rw [onReaders_of_same fun i hi => done _ ?_]
    · rfl
    · exact List.sum_eq_zero_iff.1 sum _ (List.mem_map_of_mem (List.getElem_mem hi))
  | succ n ih =>
    intro fuel s hs ok sum
    have left : ∃ x ∈ s.usedReaders, todo x ≠ 0 := by
      by_contra none
      push Not at none
      have : (s.usedReaders.map todo).sum = 0 := List.sum_eq_zero_iff.2 (by simpa using none)
      omega
    obtain ⟨j, x, reads, hx, count, same, plain, ok'⟩ := next s ok left
    have settled : (readOne j s).settled := hs
    rw [← Nat.add_assoc, readLanes, reads]
    dsimp only
    rw [readWord_unreported hx plain, takeReports_of_settled settled, ih fuel (readOne j s) settled ok' ?_]
    · unfold readOne
      rw [onReaders_onReaders]
      congr 1
      refine onReaders_congr fun i hi => ?_
      by_cases hij : i = j
      · subst hij
        rw [if_pos rfl, (List.getElem?_eq_some_iff.1 hx).2, same]
      · rw [if_neg hij]
    · have hj := (List.getElem?_eq_some_iff.1 hx).1
      have parts := List.sum_take_add_sum_drop (s.usedReaders.map todo) j
      rw [List.drop_eq_getElem_cons (by simpa using hj)] at parts
      rw [usedReaders_readOne hx, List.map_set, List.sum_set]
      simp only [List.getElem_map, (List.getElem?_eq_some_iff.1 hx).2, List.sum_cons, List.length_map, hj, if_true] at parts ⊢
      omega

/-! ## Times of the lanes in use -/

/-- Each lane in use has its reader. -/
def State.paired (s : State) : Prop := s.usedLanes.length = s.usedReaders.length

theorem length_usedTimes {s : State} (h : s.paired) : s.usedTimes.length = s.usedReaders.length := by
  unfold State.paired at h
  unfold State.usedTimes readTimes
  rw [List.length_zipWith, h, Nat.min_self]

theorem paired_onReaders {s : State} (h : s.paired) (f : Nat → LaneReader → LaneReader) : (onReaders f s).paired := by
  unfold State.paired
  rw [usedReaders_onReaders, List.length_mapIdx]
  exact h

theorem State.lanesQuiet.paired {s : State} (h : s.lanesQuiet) : s.paired := by
  obtain ⟨_, lanes, readers, _⟩ := h
  unfold State.paired State.usedLanes State.usedReaders
  rw [List.length_take, List.length_take, lanes, readers]

/-! ## Words that are all passed over or discarded (R125) -/

/-- The lane has marked no start, and each word that it holds is passed over while it hunts or discarded while it seeks. -/
def LaneReader.discards (x : LaneReader) : Prop := x.mark = none ∧ ∀ w ∈ x.words, isIdle w = !x.seeking

theorem LaneReader.discards.readWord {x : LaneReader} (h : x.discards) {w : LaneWord} {rest : List LaneWord}
    (words : x.words = w :: rest) : x.readWord = { x with words := rest, used := x.used + 1 } := by
  obtain ⟨mark, idle⟩ := h
  obtain ⟨ws, part, used, m, seeking⟩ := x
  dsimp only at words mark idle
  subst words mark
  have first := idle w List.mem_cons_self
  unfold LaneReader.readWord
  cases seeking <;> simp_all

/-- Lanes whose words are all passed over or discarded end with none left and no other effect. -/
theorem readLanes_discards (fuel : Nat) {s : State} (hs : s.settled) (paired : s.paired)
    (discards : ∀ x ∈ s.usedReaders, x.discards) : readLanes (fuel + s.wordsHeld) s = readLanes fuel (onReaders readOut s) := by
  refine readLanes_through (Ok := fun s => s.paired ∧ ∀ x ∈ s.usedReaders, x.discards) (todo := fun x => x.words.length)
    (goal := readOut 0) ?_ ?_ _ fuel s hs ⟨paired, discards⟩ rfl
  · intro s ⟨paired, discards⟩ ⟨x, mem, holds⟩
    obtain ⟨k, hk⟩ := List.getElem?_of_mem mem
    have words : x.words ≠ [] := fun h => holds (by rw [h]; rfl)
    obtain ⟨j, -, reads, -⟩ := gather_reads (length_usedTimes paired) ⟨x, hk, (discards x mem).1, words⟩
      (fun _ _ _ _ _ _ _ _ _ ⟨y, hy, marked⟩ => by
        rw [(discards y (List.mem_of_getElem? hy)).1] at marked
        exact nomatch marked)
    obtain ⟨y, w, rest, hy, -, words⟩ := gather_reads_holds reads
    have old := discards y (List.mem_of_getElem? hy)
    have read := old.readWord words
    refine ⟨j, y, reads, hy, ?_, ?_, ?_, paired_onReaders paired _, ?_⟩
    · rw [read, words]
      rfl
    · rw [read]
      unfold readOut
      rw [words, List.length_cons, Nat.add_assoc, Nat.add_comm 1]
    · rw [read, old.1]
      exact nofun
    · rw [usedReaders_readOne hy]
      intro z hz
      obtain hz | rfl := List.mem_or_eq_of_mem_set hz
      · exact discards z hz
      · rw [read]
        exact ⟨old.1, fun v hv => old.2 v (by rw [words]; exact List.mem_cons_of_mem _ hv)⟩
  · intro x empty
    unfold readOut
    rw [empty, ← List.length_eq_zero_iff.1 empty]
    rfl

end Sys2Proof.Machine
end

section
/-!
PROOFS. Lanes that read their start words, and a packet that is lost to a bad start, to skew or to its length (O56).
-/
namespace Sys2Proof.Machine

/-! ## Start words (R125) -/

/-- The lane hunts, and its next word, unless it has marked a start, marks one that is not corrected. -/
def LaneReader.standsBefore (x : LaneReader) : Prop :=
  x.seeking = false ∧ (x.mark = none → ∀ w ∈ x.words.head?, isIdle w = false ∧ startClass w ≠ .corrected)

/-- The lane once it has read its start word, when it has it. -/
def LaneReader.begun (x : LaneReader) : LaneReader := if x.mark = none then x.readWord else x

/-- How many words the lane reads up to its start word: one, unless it has marked its start or holds no word. -/
def LaneReader.beforeStart (x : LaneReader) : Nat := if x.mark = none then min 1 x.words.length else 0

/-- The bit time at which the start word of a lane ends, when the lane has marked it or reads it next. -/
def startTime (l : Lane) (x : LaneReader) : Nat := l.syncAt.getD 0 + 16 * x.used + if x.mark = none then 16 else 0

/-- The start words of the lanes in use end no more than 8 lane bytes apart (R126). -/
def State.startsClose (s : State) : Prop := ∀ (i j : Nat) (l m : Lane) (x y : LaneReader), s.usedLanes[i]? = some l →
  s.usedReaders[i]? = some x → s.usedLanes[j]? = some m → s.usedReaders[j]? = some y → startTime l x < startTime m y + 72

section
variable {x : LaneReader} {w : LaneWord} {rest : List LaneWord}

/-- A lane that hunts marks the word that it reads, unless the word is idle. -/
theorem readWord_start (words : x.words = w :: rest) (hunts : x.seeking = false) (idle : isIdle w = false) :
    x.readWord = { x with words := rest, used := x.used + 1, mark := some (startClass w) } := by
  obtain ⟨ws, part, used, mark, seeking⟩ := x
  dsimp only at words hunts
  subst words hunts
  unfold LaneReader.readWord
  simp [idle]

theorem begun_of_nil (words : x.words = []) : x.begun = x := by
  unfold LaneReader.begun LaneReader.readWord
  rw [words]
  exact ite_self x

end

/-- The time of a lane in use is that of its sync and the words used since. -/
theorem usedTimes_getElem? {s : State} {i a : Nat} {x : LaneReader} (ha : s.usedTimes[i]? = some a)
    (hx : s.usedReaders[i]? = some x) : ∃ l, s.usedLanes[i]? = some l ∧ a = l.syncAt.getD 0 + 16 * x.used := by
  unfold State.usedTimes readTimes at ha
  rw [List.getElem?_zipWith, hx] at ha
  cases hl : s.usedLanes[i]? with
  | none =>
    rw [hl] at ha
    exact nomatch ha
  | some l =>
    rw [hl] at ha
    exact ⟨l, rfl, (Option.some.inj ha).symm⟩

/-- Marks that came with the start words are no more than 8 lane bytes apart. -/
theorem State.startsClose.marks {s : State} (close : s.startsClose) {i j a b : Nat} {x y : LaneReader}
    (ha : s.usedTimes[i]? = some a) (hb : s.usedTimes[j]? = some b) (hx : s.usedReaders[i]? = some x)
    (hy : s.usedReaders[j]? = some y) (marked : y.mark ≠ none) : a + (if x.mark = none then 16 else 0) < b + 72 := by
  obtain ⟨l, hl, rfl⟩ := usedTimes_getElem? ha hx
  obtain ⟨m, hm, rfl⟩ := usedTimes_getElem? hb hy
  have near := close i j l m x y hl hx hm hy
  unfold startTime at near
  rw [if_neg marked] at near
  exact near

/-- A change of the readers in use that leaves the times of their start words. -/
theorem State.startsClose.onReaders {s : State} (close : s.startsClose) {f : Nat → LaneReader → LaneReader}
    (same : ∀ i x l, s.usedReaders[i]? = some x → startTime l (f i x) = startTime l x) : (onReaders f s).startsClose := by
  intro i j l m x y hl hx hm hy
  rw [usedReaders_onReaders, List.getElem?_mapIdx, Option.map_eq_some_iff] at hx hy
  obtain ⟨x, hx, rfl⟩ := hx
  obtain ⟨y, hy, rfl⟩ := hy
  rw [same i x l hx, same j y m hy]
  exact close i j l m x y hl hx hm hy

/-- A lane that reads its start word keeps the word's time. -/
theorem LaneReader.standsBefore.startTime_readWord {x : LaneReader} (before : x.standsBefore) (unmarked : x.mark = none)
    (l : Lane) : startTime l x.readWord = startTime l x := by
  cases words : x.words with
  | nil =>
    unfold LaneReader.readWord
    rw [words]
  | cons w rest =>
    rw [readWord_start words before.1 (before.2 unmarked w (by rw [words]; rfl)).1]
    unfold startTime
    rw [if_neg nofun, if_pos unmarked]
    dsimp only
    omega

/-- Lanes whose start words end close together read them with no other effect. -/
theorem readLanes_begun (fuel : Nat) {s : State} (hs : s.settled) (paired : s.paired) (close : s.startsClose)
    (before : ∀ x ∈ s.usedReaders, x.standsBefore) : readLanes (fuel + (s.usedReaders.map LaneReader.beforeStart).sum) s =
      readLanes fuel (onReaders (fun _ => LaneReader.begun) s) := by
  refine readLanes_through (Ok := fun s => s.paired ∧ s.startsClose ∧ ∀ x ∈ s.usedReaders, x.standsBefore) ?_ ?_ _ fuel s hs
    ⟨paired, close, before⟩ rfl
  · intro s ⟨paired, close, before⟩ ⟨x, mem, left⟩
    obtain ⟨k, hk⟩ := List.getElem?_of_mem mem
    obtain ⟨unmarked, words⟩ : x.mark = none ∧ x.words ≠ [] := by
      unfold LaneReader.beforeStart at left
      split at left
      · exact ⟨‹_›, fun h => left (by rw [h]; rfl)⟩
      · exact absurd rfl left
    obtain ⟨j, -, reads, -⟩ := gather_reads (length_usedTimes paired) ⟨x, hk, unmarked, words⟩
      (fun _ _ _ _ _ ha hb hx hm ⟨y, hy, marked⟩ => by
        have near := close.marks ha hb hx hy (Option.isSome_iff_ne_none.1 marked)
        rwa [if_pos hm] at near)
    obtain ⟨y, w, rest, hy, unmarked, words⟩ := gather_reads_holds reads
    have old := before y (List.mem_of_getElem? hy)
    obtain ⟨idle, plain⟩ := old.2 unmarked w (by rw [words]; rfl)
    have read := readWord_start words old.1 idle
    refine ⟨j, y, reads, hy, ?_, ?_, ?_, paired_onReaders paired _, close.onReaders fun i z l hz => ?_, ?_⟩
    · rw [read]
      unfold LaneReader.beforeStart
      rw [if_pos unmarked, words, if_neg nofun]
      simp
    · unfold LaneReader.begun
      rw [if_pos unmarked, if_neg (by rw [read]; exact nofun)]
    · rw [read]
      simpa using plain
    · split
      · rename_i hij
        rw [hij, hy] at hz
        rw [← Option.some.inj hz]
        exact old.startTime_readWord unmarked l
      · rfl
    · rw [usedReaders_readOne hy]
      intro z hz
      obtain hz | rfl := List.mem_or_eq_of_mem_set hz
      · exact before z hz
      · rw [read]
        exact ⟨old.1, nofun⟩
  · intro x none
    unfold LaneReader.beforeStart at none
    split at none
    · exact begun_of_nil (List.length_eq_zero_iff.1 (by omega))
    · exact if_neg ‹_›

end Sys2Proof.Machine
end

section
/-!
PROOFS. What quiet lanes make of the words of a command, and a packet that is lost (O56).
-/
namespace Sys2Proof.Machine

/-! ## Quiet lanes -/

section
variable {x : LaneReader} (h : x.quiet)
include h

theorem LaneReader.quiet.empty : x.words = [] := h.1
theorem LaneReader.quiet.unmarked : x.mark = none := h.2.1
theorem LaneReader.quiet.hunts : x.seeking = false := h.2.2.1

end

section
variable {s : State} (h : s.lanesQuiet)
include h

theorem State.lanesQuiet.laneCount_pos : 0 < s.settings.laneCount := by
  obtain ⟨count, -⟩ := h
  omega

theorem State.lanesQuiet.laneCount_le : s.settings.laneCount ≤ 4 := by
  obtain ⟨count, -⟩ := h
  omega

theorem State.lanesQuiet.length_lanes : s.link.lanes.length = 4 := h.2.1
theorem State.lanesQuiet.length_readers : s.link.readers.length = 4 := h.2.2.1
theorem State.lanesQuiet.reader {x : LaneReader} (hx : x ∈ s.usedReaders) : x.quiet := h.2.2.2.1 x hx

end

/-! ## Words brought to quiet lanes -/

/-- Lane `i` once it holds the words of `words` for it and has read its start word, when one came. -/
def startedWith (words : List (List LaneWord)) (i : Nat) (x : LaneReader) : LaneReader :=
  LaneReader.begun { x with words := words.getD i [] }

/-- A quiet lane to which a start word came, followed by the words of its part. -/
theorem startedWith_start {words : List (List LaneWord)} {i : Nat} {x : LaneReader} (quiet : x.quiet) {w : LaneWord}
    {rest : List LaneWord} (came : words[i]? = some (w :: rest)) (idle : isIdle w = false) : startedWith words i x =
    { x with words := rest, used := x.used + 1, mark := some (startClass w) } := by
  have here : words.getD i [] = w :: rest := by rw [List.getD_eq_getElem?_getD, came, Option.getD_some]
  unfold startedWith LaneReader.begun
  rw [here]
  exact (if_pos quiet.unmarked).trans (readWord_start rfl quiet.hunts idle)

/-- A quiet lane to which no word came. -/
theorem startedWith_nil {words : List (List LaneWord)} {i : Nat} {x : LaneReader} (quiet : x.quiet)
    (came : words[i]? = some []) : startedWith words i x = x := by
  have here : words.getD i [] = [] := by rw [List.getD_eq_getElem?_getD, came, Option.getD_some]
  unfold startedWith
  rw [here, begun_of_nil rfl, ← quiet.empty]

theorem startedWith_length_le (words : List (List LaneWord)) (i : Nat) (x : LaneReader) :
    (startedWith words i x).words.length ≤ (words.getD i []).length := by
  unfold startedWith LaneReader.begun LaneReader.readWord
  split
  · dsimp only
    split
    · exact le_rfl
    · rename_i h
      rw [h]
      simp
  · exact le_rfl

/-- The lanes in use hold in all no more words than before a change that gives no lane a word. -/
theorem wordsHeld_onReaders_le {s t : State} {f g : Nat → LaneReader → LaneReader} (ht : t.usedReaders = s.usedReaders)
    (le : ∀ i x, (f i x).words.length ≤ (g i x).words.length) : (onReaders f t).wordsHeld ≤ (onReaders g s).wordsHeld := by
  unfold State.wordsHeld
  rw [usedReaders_onReaders, usedReaders_onReaders, ht]
  generalize s.usedReaders = l
  induction l generalizing f g with
  | nil => exact le_rfl
  | cons x l ih =>
    rw [List.mapIdx_cons, List.mapIdx_cons, List.map_cons, List.map_cons, List.sum_cons, List.sum_cons]
    exact Nat.add_le_add (le 0 x) (ih fun i x => le (i + 1) x)

section
variable {s : State} (hq : s.lanesQuiet)
include hq

/-- Lanes of which each has no more to read than one word, end close to one another. -/
theorem quiet_startsClose {f : Nat → LaneReader → LaneReader}
    (same : ∀ i x l, LaneReader.quiet x → startTime l (f i x) = startTime l x) : (onReaders f s).startsClose := by
  have paired := hq.paired
  obtain ⟨-, -, -, quiet, close⟩ := hq
  have near : s.startsClose := by
    intro i j l m x y hl hx hm hy
    have time : ∀ {i : Nat} {l : Lane} {x : LaneReader}, s.usedLanes[i]? = some l → s.usedReaders[i]? = some x →
        l.syncAt.getD 0 + 16 * x.used ∈ s.usedTimes := fun {i l x} hl hx => by
      refine List.mem_of_getElem? (i := i) ?_
      rw [State.usedTimes, readTimes, List.getElem?_zipWith, hl, hx]
    have lt := close _ (time hl hx) _ (time hm hy)
    unfold startTime
    rw [if_pos (quiet x (List.mem_of_getElem? hx)).unmarked, if_pos (quiet y (List.mem_of_getElem? hy)).unmarked]
    omega
  exact near.onReaders fun i x l hx => same i x l (quiet x (List.mem_of_getElem? hx))

theorem length_usedReaders : s.usedReaders.length = s.settings.laneCount := by
  obtain ⟨count, -, readers, -⟩ := hq
  unfold State.usedReaders State.lanesInUse
  rw [List.length_take, readers]
  omega

/-- Quiet lanes to which words come, a start word that is not corrected at the front of each, read their start words first. -/
theorem takeWords_started (hs : s.settled) (hr : s.reads = true) {words : List (List LaneWord)}
    (len : words.length = s.settings.laneCount)
    (plain : ∀ l ∈ words, ∀ w ∈ l.head?, isIdle w = false ∧ startClass w ≠ .corrected) :
    let t := onReaders (startedWith words) s
    t.startsClose ∧ ∃ fuel, t.wordsHeld ≤ fuel ∧ takeWords words s = readLanes (fuel + 1) t := by
  let u := onReaders (fun i x => { x with words := words.getD i [] }) s
  have brought : onReaders (fun i x => x.bring (words.getD i [])) s = u := onReaders_congr fun i hi => by
    obtain ⟨none, -, -, part⟩ := hq.reader (List.getElem_mem hi)
    rw [bring_of_no_part part, none, List.nil_append]
  have before : ∀ x ∈ u.usedReaders, x.standsBefore := by
    rw [usedReaders_onReaders]
    intro x hx
    obtain ⟨i, hi, rfl⟩ := List.mem_mapIdx.1 hx
    refine ⟨(hq.reader (List.getElem_mem hi)).hunts, fun _ w hw => ?_⟩
    rw [length_usedReaders hq, ← len] at hi
    refine plain _ (List.getElem_mem hi) w ?_
    rwa [List.getD_eq_getElem _ _ hi] at hw
  have close : u.startsClose := quiet_startsClose hq fun i x l _ => rfl
  have started : onReaders (fun _ => LaneReader.begun) u = onReaders (startedWith words) s := onReaders_onReaders _ _ _
  have few : (u.usedReaders.map LaneReader.beforeStart).sum ≤ s.settings.laneCount := by
    have le := List.sum_le_card_nsmul (u.usedReaders.map LaneReader.beforeStart) 1 fun n hn => by
      obtain ⟨x, -, rfl⟩ := List.mem_map.1 hn
      unfold LaneReader.beforeStart
      split <;> omega
    rwa [List.length_map, show u.usedReaders.length = s.settings.laneCount by
      rw [usedReaders_onReaders, List.length_mapIdx, length_usedReaders hq], smul_eq_mul, mul_one] at le
  have used : u.lanesInUse = s.settings.laneCount := rfl
  refine ⟨?_, 2 * u.wordsHeld + u.lanesInUse - (u.usedReaders.map LaneReader.beforeStart).sum, ?_, ?_⟩
  · rw [← started]
    refine close.onReaders fun i x l hx => ?_
    unfold LaneReader.begun
    split
    · exact (before x (List.mem_of_getElem? hx)).startTime_readWord ‹_› l
    · rfl
  · have held : (onReaders (startedWith words) s).wordsHeld ≤ u.wordsHeld :=
      wordsHeld_onReaders_le rfl fun i x => startedWith_length_le words i x
    omega
  · have fuel : 2 * u.wordsHeld + u.lanesInUse + 1 =
        2 * u.wordsHeld + u.lanesInUse - (u.usedReaders.map LaneReader.beforeStart).sum + 1 +
          (u.usedReaders.map LaneReader.beforeStart).sum := by omega
    have settled : u.settled := hs
    refine (if_pos (by rw [hr, len]; simp [State.lanesInUse])).trans ?_
    rw [brought, readOn, fuel, readLanes_begun _ settled (paired_onReaders hq.paired _) close before, started]

end

/-! ## A packet lost (R125, R126, R131) -/

/-- A lane after a loss, once it has discarded the words that it held (R125). -/
def LaneReader.lost (x : LaneReader) : LaneReader :=
  { x with words := [], used := x.used + x.words.length, mark := none, seeking := true }

/-- A lost packet is reported, poisons the open frame, and the words that the lanes still hold, none of them idle, are
discarded (R125, R126, R131). -/
theorem readLanes_losePacket {s : State} (hs : s.settled) (lanes : s.link.lanes.length = 4) (readers : s.link.readers.length = 4)
    (count : s.settings.laneCount ≤ 4) {fuel : Nat} (enough : s.wordsHeld ≤ fuel)
    (idle : ∀ x ∈ s.usedReaders, ∀ w ∈ x.words, isIdle w = false) (k : FaultKind) (d : Nat) :
    readLanes fuel (takeReports (losePacket k d s)) =
      reported k d (poison 5 (onReaders (fun _ => LaneReader.lost) s)) := by
  let t := poison 5 (onReaders (fun _ => LaneReader.resync) s)
  have loss : takeReports (losePacket k d s) = reported k d t := takeReports_report (s := t) hs .link k d
  have used : t.usedReaders = s.usedReaders.mapIdx (fun _ => LaneReader.resync) := usedReaders_onReaders _ s
  have held : (reported k d t).wordsHeld ≤ s.wordsHeld := by
    have le := wordsHeld_onReaders_le (s := s) (t := s) rfl (f := fun _ => LaneReader.resync) (g := fun _ x => x)
      fun _ _ => le_rfl
    rwa [onReaders_of_same (f := fun _ x => x) fun _ _ => rfl] at le
  have seek : ∀ x ∈ (reported k d t).usedReaders, x.mark = none ∧ x.seeking = true ∧ ∀ w ∈ x.words, isIdle w = false := by
    show ∀ x ∈ t.usedReaders, _
    rw [used]
    intro x hx
    obtain ⟨i, hi, rfl⟩ := List.mem_mapIdx.1 hx
    exact ⟨rfl, rfl, idle s.usedReaders[i] (List.getElem_mem hi)⟩
  have readers' : (reported k d t).link.readers.length = 4 := (List.length_mapIdx (f := _)).trans readers
  obtain ⟨n, rfl⟩ := Nat.exists_eq_add_of_le' (held.trans enough)
  rw [loss, readLanes_seeking _ n (reported k d t) hs lanes readers' count seek rfl]
  exact congrArg (fun u => reported k d (poison 5 u)) (onReaders_onReaders (fun _ => LaneReader.resync) readOut s)

end Sys2Proof.Machine
end

section
/-!
PROOFS. A packet whose lanes have read their start words: lost to a bad start or to skew (O56).
-/
namespace Sys2Proof.Machine

/-! ## The loss of a packet whose start words end close together (R125, R126) -/

section
variable {s : State} (paired : s.paired) (close : s.startsClose)
include paired close

/-- Each mark came in time. -/
theorem marks_inTime {y : LaneReader} (mem : y ∈ s.usedReaders) (marked : y.mark ≠ none) :
    ∃ (t lane : Nat) (x : LaneReader), firstMark s.usedTimes s.usedReaders = some (t, lane) ∧
      s.usedReaders[lane]? = some x ∧ x.mark ≠ none ∧
        marksInTime t s.usedTimes s.usedReaders = s.usedReaders.map LaneReader.mark := by
  have len := length_usedTimes paired
  obtain ⟨k, hk, rfl⟩ := List.getElem_of_mem mem
  obtain ⟨t, lane, first⟩ : ∃ t lane, firstMark s.usedTimes s.usedReaders = some (t, lane) := by
    apply earliest_isSome (k := k) (u := s.usedTimes[k])
    rw [List.getElem?_zipWith, List.getElem?_eq_getElem (by omega), List.getElem?_eq_getElem hk]
    exact congrArg some (if_pos (Option.isSome_iff_ne_none.2 marked))
  obtain ⟨x, time, hx, some⟩ := firstMark_mem first
  rw [Option.isSome_iff_ne_none] at some
  refine ⟨t, lane, x, first, hx, some, List.ext_getElem ?_ fun i h _ => ?_⟩
  · unfold marksInTime
    rw [List.length_zipWith, List.length_map, len, Nat.min_self]
  · unfold marksInTime at h ⊢
    rw [List.length_zipWith, len, Nat.min_self] at h
    have near := close.marks (List.getElem?_eq_getElem (by omega)) time (List.getElem?_eq_getElem h) hx some
    rw [List.getElem_zipWith, List.getElem_map]
    exact if_pos (by omega)

/-- With every lane's start marked, the packet is lost to its lowest bad start. -/
theorem gather_badStart {i : Nat} {x : LaneReader} (hx : s.usedReaders[i]? = some x) (bad : x.mark = some .bad)
    (marked : ∀ y ∈ s.usedReaders, y.mark ≠ none) (lowest : ∀ j y, j < i → s.usedReaders[j]? = some y → y.mark ≠ some .bad) :
    gather s.usedTimes s.usedReaders = .badStart i := by
  have mem := List.mem_of_getElem? hx
  obtain ⟨t, lane, -, first, -, -, marks⟩ := marks_inTime paired close mem (marked x mem)
  have whole : (s.usedReaders.map LaneReader.mark).contains none = false := by
    simpa using fun y hy => marked y hy
  have someBad : (s.usedReaders.map LaneReader.mark).contains (some .bad) = true := by
    simpa using ⟨x, mem, bad⟩
  have index : (s.usedReaders.map LaneReader.mark).findIdx (fun m => m == some .bad) = i := by
    obtain ⟨hi, rfl⟩ := List.getElem?_eq_some_iff.1 hx
    rw [List.findIdx_eq (by simpa using hi)]
    refine ⟨by simpa using bad, fun j hj => ?_⟩
    simpa using lowest j _ hj (List.getElem?_eq_getElem (by omega))
  unfold gather
  rw [first]
  dsimp only
  rw [marks, if_neg (by rw [whole]; exact nofun), if_pos someBad, lossOf, if_pos someBad, index]

/-- With no start word come on lane `i`, and none bad on any other lane, of which each holds at least the 5 words behind its
mark, the packet is lost to skew on lane `i`. -/
theorem gather_skew {i : Nat} {x : LaneReader} (hx : s.usedReaders[i]? = some x) (unmarked : x.mark = none)
    (empty : x.words = []) (more : 1 < s.usedReaders.length) (others : ∀ j y, j ≠ i → s.usedReaders[j]? = some y →
      y.mark ≠ none ∧ y.mark ≠ some .bad ∧ 5 ≤ y.words.length) : gather s.usedTimes s.usedReaders = .skew i := by
  obtain ⟨hi, here⟩ := List.getElem?_eq_some_iff.1 hx
  obtain ⟨k, hk, ne⟩ : ∃ k, k < s.usedReaders.length ∧ k ≠ i := by
    by_cases h : i = 0
    · exact ⟨1, more, by omega⟩
    · exact ⟨0, by omega, Ne.symm h⟩
  obtain ⟨marked, -, -⟩ := others k _ ne (List.getElem?_eq_getElem hk)
  obtain ⟨t, lane, y, first, hy, mark, marks⟩ := marks_inTime paired close (List.getElem_mem hk) marked
  have apart : lane ≠ i := fun h => mark (by
    rw [h, hx] at hy
    rw [← Option.some.inj hy, unmarked])
  have none : (s.usedReaders.map LaneReader.mark).contains none = true := by
    simpa using ⟨x, List.mem_of_getElem? hx, unmarked⟩
  have good : (s.usedReaders.map LaneReader.mark).contains (some .bad) = false := by
    simp only [List.contains_eq_mem, List.mem_map, decide_eq_false_iff_not, not_exists, not_and]
    intro z hz
    obtain ⟨j, hj, rfl⟩ := List.getElem_of_mem hz
    by_cases hji : j = i
    · subst hji
      rw [here, unmarked]
      exact nofun
    · exact (others j _ hji (List.getElem?_eq_getElem hj)).2.1
  have index : (s.usedReaders.map LaneReader.mark).findIdx (fun m => m.isNone) = i := by
    rw [List.findIdx_eq (by simpa using hi)]
    refine ⟨by simpa [here] using unmarked, fun j hj => ?_⟩
    simpa [Option.isSome_iff_ne_none] using (others j _ (by omega) (List.getElem?_eq_getElem (by omega))).1
  have still : nextWord s.usedTimes s.usedReaders = Option.none := by
    refine earliest_none (fun o ho => ?_)
    obtain ⟨j, hj, rfl⟩ := List.getElem_of_mem ho
    rw [List.length_zipWith] at hj
    rw [List.getElem_zipWith]
    refine if_neg fun holds => ?_
    by_cases hji : j = i
    · subst hji
      rw [here, empty] at holds
      simp at holds
    · have hj' : j < s.usedReaders.length := by omega
      rw [Bool.and_eq_true, Option.isNone_iff_eq_none] at holds
      exact (others j s.usedReaders[j] hji (List.getElem?_eq_getElem hj')).1 holds.1
  have late : spreadOver lane (s.usedReaders.map LaneReader.mark) s.usedReaders = true := by
    unfold spreadOver
    obtain ⟨-, -, five⟩ := others lane y apart hy
    rw [List.getD_eq_getElem?_getD, hy, Option.getD_some, Bool.or_eq_true, decide_eq_true_iff]
    exact Or.inl (by omega)
  unfold gather
  rw [first, still]
  dsimp only
  rw [marks, if_pos none, if_pos late, lossOf, if_neg (by rw [good]; exact nofun), index]

end

end Sys2Proof.Machine
end

section
/-!
PROOFS. O56: packets that are skipped, and packets that are lost.
-/
namespace Sys2Proof.Machine

/-! ## Packets of wrong length (R127) -/

theorem readPacket_frameStart_wrongLength {payload : List Byte} (h : payload.length ≠ 7) (s : State) :
    readPacket ⟨1, payload⟩ s = losePacket .lineLength 256 s := by
  show readFrameStart payload s = _
  unfold readFrameStart
  split
  · exact absurd rfl h
  · rfl

theorem readPacket_frameEnd_wrongLength {payload : List Byte} (h : payload.length ≠ 2) (s : State) :
    readPacket ⟨3, payload⟩ s = losePacket .lineLength 768 s := by
  show readFrameEnd payload s = _
  unfold readFrameEnd
  split
  · exact absurd rfl h
  · rfl

/-- The part of lane `i` in use of a packet (R118). -/
def State.lanePart (s : State) (kind : Byte) (payload : List Byte) (i : Nat) : List LaneWord :=
  wordsOfBytes (laneBytes s.settings.laneCount i (packetBytes kind payload))

/-- The words of a packet whose every lane reads the sync word at once. -/
theorem packetWords_syncHeads (s : State) (kind : Byte) (payload : List Byte) :
    packetWords s.usedReaders (syncHeads s) kind payload =
      (List.range s.settings.laneCount).map (fun i => syncWord :: s.lanePart kind payload i) := by
  apply List.ext_getElem
  · simp [packetWords, syncHeads]
  · intro i _ _
    simp [packetWords, partHeld, syncHeads, State.lanePart]

theorem length_lanePart (s : State) (kind : Byte) (payload : List Byte) (i : Nat) :
    (s.lanePart kind payload i).length = laneByteCount s.settings.laneCount (3 + payload.length) / 2 := by
  have bytes : (packetBytes kind payload).length = 3 + payload.length := by
    simp [packetBytes, beBytes]
    omega
  rw [State.lanePart, length_wordsOfBytes, length_laneBytes, bytes]

/-- Start words marked on every lane in use, and that end close together, have the lanes' times close together. -/
theorem State.startsClose.times {s : State} (close : s.startsClose) (paired : s.paired)
    (marked : ∀ x ∈ s.usedReaders, x.mark ≠ none) : ∀ a ∈ s.usedTimes, ∀ b ∈ s.usedTimes, a < b + 72 := by
  intro a ha b hb
  obtain ⟨i, hi, rfl⟩ := List.getElem_of_mem ha
  obtain ⟨j, hj, rfl⟩ := List.getElem_of_mem hb
  have len := length_usedTimes paired
  have near := close.marks (List.getElem?_eq_getElem hi) (List.getElem?_eq_getElem hj)
    (List.getElem?_eq_getElem (len ▸ hi)) (List.getElem?_eq_getElem (len ▸ hj)) (marked _ (List.getElem_mem _))
  omega

/-- A quiet lane that seeks after the words `ws`, of which the first, when one came, was its start word. -/
theorem startedWith_lost {words : List (List LaneWord)} {i : Nat} {x : LaneReader} (quiet : x.quiet) {ws : List LaneWord}
    (came : words[i]? = some ws) (busy : ∀ w ∈ ws, isIdle w = false) :
    (startedWith words i x).lost = { x with used := x.used + ws.length, seeking := true } := by
  obtain ⟨none, unmarked, -, -⟩ := id quiet
  cases ws with
  | nil =>
    rw [startedWith_nil quiet came]
    unfold LaneReader.lost
    rw [none, unmarked]
  | cons w rest =>
    rw [startedWith_start quiet came (busy w List.mem_cons_self)]
    unfold LaneReader.lost
    rw [none, unmarked, List.length_cons, Nat.add_assoc, Nat.add_comm 1]

section
variable {s : State} (hq : s.lanesQuiet)
include hq

/-- A lane in use that gave a packet its sync word and its part hunts as before, past them (R127). -/
theorem resume_part {kind : Byte} {payload : List Byte} {x : LaneReader} (hx : x ∈ s.usedReaders) (i : Nat) :
    LaneReader.resume (packetWordCount s.settings.laneCount ⟨kind, payload⟩)
      { x with words := s.lanePart kind payload i, used := x.used + 1, mark := some .sync } =
        { x with used := x.used + laneWordCount s payload.length } := by
  obtain ⟨none, unmarked, hunts, -⟩ := hq.reader hx
  have all : (s.lanePart kind payload i).drop (packetWordCount s.settings.laneCount ⟨kind, payload⟩) = [] :=
    List.drop_eq_nil_of_le (length_lanePart s kind payload i).le
  unfold LaneReader.resume
  rw [all, none.symm, ← unmarked, ← hunts, Nat.add_assoc]
  rfl

/-- A lane in use once the start words are read. -/
theorem usedReaders_started {words : List (List LaneWord)} {j : Nat} {y : LaneReader}
    (hy : (onReaders (startedWith words) s).usedReaders[j]? = some y) : j < s.settings.laneCount ∧
      ∃ x ∈ s.usedReaders, y = startedWith words j x := by
  rw [usedReaders_onReaders, List.getElem?_mapIdx, Option.map_eq_some_iff] at hy
  obtain ⟨x, hx, rfl⟩ := hy
  obtain ⟨hj, -⟩ := List.getElem?_eq_some_iff.1 hx
  rw [length_usedReaders hq] at hj
  exact ⟨hj, x, List.mem_of_getElem? hx, rfl⟩

variable (hs : s.settled) (hr : s.reads = true)
include hs hr

/-- A packet that the lanes have read whole, and whose reader makes a loss of it, ends with its lanes seeking (R125, R127). -/
theorem takeWords_lost {kind : Byte} {payload : List Byte} (hp : payload.length ≤ 65535) {k : FaultKind} {d : Nat}
    (loss : ∀ t, readPacket ⟨kind, payload⟩ t = losePacket k d t) :
    takeWords (packetWords s.usedReaders (syncHeads s) kind payload) s =
      reported k d (poison 5 (onReaders (fun _ x => { x with seeking := true }) (afterWords payload.length s))) := by
  have words := packetWords_syncHeads s kind payload
  obtain ⟨close, fuel, -, run⟩ := takeWords_started hq hs hr (words := packetWords s.usedReaders (syncHeads s) kind payload)
    (by rw [words]; simp) fun l hl w hw => by
      rw [words] at hl
      obtain ⟨i, -, rfl⟩ := List.mem_map.1 hl
      obtain rfl := Option.some.inj hw
      exact ⟨by decide, by decide⟩
  have count := length_usedReaders hq
  have started : onReaders (startedWith (packetWords s.usedReaders (syncHeads s) kind payload)) s =
      onReaders (fun i x => { x with words := s.lanePart kind payload i, used := x.used + 1, mark := some .sync }) s :=
    onReaders_congr fun i hi => by
      refine startedWith_start (w := syncWord) (hq.reader (List.getElem_mem hi)) ?_ (by decide)
      rw [words, List.getElem?_map, List.getElem?_range (by omega), Option.map_some]
  rw [started] at close run
  let t := onReaders (fun i x => { x with words := s.lanePart kind payload i, used := x.used + 1, mark := some .sync }) s
  have used : t.usedReaders = s.usedReaders.mapIdx
      (fun i x => { x with words := s.lanePart kind payload i, used := x.used + 1, mark := some .sync }) :=
    usedReaders_onReaders _ s
  have marked : ∀ x ∈ t.usedReaders, x.mark = some .sync := by
    rw [used]
    intro x hx
    obtain ⟨i, hi, rfl⟩ := List.mem_mapIdx.1 hx
    rfl
  have paired : t.paired := paired_onReaders hq.paired _
  have whole : wholePacket (t.usedReaders.map (fun x => laneData x.words)) = some ⟨kind, payload⟩ := by
    rw [← wholePacket_lanes (n := s.settings.laneCount) hq.laneCount_pos kind payload hp, used]
    congr 1
    apply List.ext_getElem
    · simp [count]
    · intro i _ _
      simp [State.lanePart, laneData_laneBytes]
  have gathered := gather_whole (length_usedTimes paired)
    (fun h => by
      have := congrArg List.length h
      rw [used, List.length_mapIdx, count] at this
      have := hq.laneCount_pos
      simp at *
      omega)
    (close.times paired fun x hx => by rw [marked x hx]; exact nofun) marked whole
  have resumed : onReaders (fun _ => LaneReader.resume (packetWordCount t.lanesInUse ⟨kind, payload⟩)) t =
      afterWords payload.length s := by
    refine (onReaders_onReaders _ _ s).trans ?_
    exact onReaders_congr (g := fun _ x => { x with used := x.used + laneWordCount s payload.length })
      fun i hi => resume_part hq (List.getElem_mem hi) i
  have empty : ∀ x ∈ (afterWords payload.length s).usedReaders, x.words = [] ∧ x.mark = none := by
    show ∀ x ∈ (onReaders (fun _ x => { x with used := x.used + laneWordCount s payload.length }) s).usedReaders, _
    rw [usedReaders_onReaders]
    intro x hx
    obtain ⟨i, hi, rfl⟩ := List.mem_mapIdx.1 hx
    obtain ⟨none, unmarked, -⟩ := hq.reader (List.getElem_mem hi)
    exact ⟨none, unmarked⟩
  have held : (afterWords payload.length s).wordsHeld = 0 := List.sum_eq_zero fun n hn => by
    obtain ⟨x, hx, rfl⟩ := List.mem_map.1 hn
    rw [(empty x hx).1]
    rfl
  have seek : onReaders (fun _ => LaneReader.lost) (afterWords payload.length s) =
      onReaders (fun _ x => { x with seeking := true }) (afterWords payload.length s) := onReaders_congr fun i hi => by
    obtain ⟨none, unmarked⟩ := empty _ (List.getElem_mem hi)
    unfold LaneReader.lost
    rw [none, unmarked]
    rfl
  rw [run, readLanes, gathered]
  dsimp only
  rw [resumed, loss, ← seek]
  exact readLanes_losePacket (s := afterWords payload.length s) hs hq.length_lanes ((List.length_mapIdx (f := _)).trans hq.length_readers)
    hq.laneCount_le (held ▸ Nat.zero_le fuel) (fun x hx w hw => by rw [(empty x hx).1] at hw; exact nomatch hw) k d

/-- A packet that the lanes have read whole, and whose reader only restarts the input timer (R124). -/
theorem finish_skipped {kind : Byte} {payload : List Byte} (hp : payload.length ≤ 65535)
    (h1 : kind = 1 → payload.length = 7) (h3 : kind = 3 → payload.length = 2)
    (skips : ∀ t, t.link.openFrame = s.link.openFrame → readPacket ⟨kind, payload⟩ t = restartTimer t) :
    finish (takeWords (packetWords s.usedReaders (syncHeads s) kind payload) s) =
      .next { s with link := s.linkAfter payload.length s.link.openFrame } := by
  rw [finish_takeWords hr hq hp h1 h3, takeReports_of_settled hs, skips (afterWords payload.length s) rfl]
  exact congrArg _ (takeReports_changed hs (s.linkAfter payload.length s.link.openFrame) s.store)

/-- A packet lost once its start words are read: the lanes seek an idle word past every word that came (R125, R126). -/
theorem takeWords_startLost {words : List (List LaneWord)} (len : words.length = s.settings.laneCount)
    (plain : ∀ l ∈ words, ∀ w ∈ l.head?, startClass w ≠ .corrected) (busy : ∀ l ∈ words, ∀ w ∈ l, isIdle w = false)
    {k : FaultKind} {d : Nat} (loss : (onReaders (startedWith words) s).startsClose → ∀ fuel,
      readLanes (fuel + 1) (onReaders (startedWith words) s) =
        readLanes fuel (takeReports (losePacket k d (onReaders (startedWith words) s)))) :
    takeWords words s = reported k d (poison 5 (onReaders
      (fun i x => { x with used := x.used + (words.getD i []).length, seeking := true }) s)) := by
  obtain ⟨close, fuel, enough, run⟩ := takeWords_started hq hs hr len
    fun l hl w hw => ⟨busy l hl w (List.mem_of_mem_head? hw), plain l hl w hw⟩
  have count := length_usedReaders hq
  have idle : ∀ x ∈ (onReaders (startedWith words) s).usedReaders, ∀ w ∈ x.words, isIdle w = false := by
    rw [usedReaders_onReaders]
    intro x hx w hw
    obtain ⟨i, hi, rfl⟩ := List.mem_mapIdx.1 hx
    have came : words[i]? = some (words[i]'(by omega)) := List.getElem?_eq_getElem _
    have quiet := hq.reader (List.getElem_mem hi)
    have all := busy _ (List.mem_of_getElem? came)
    generalize words[i]'(by omega) = ws at came all
    cases ws with
    | nil =>
      rw [startedWith_nil quiet came, quiet.empty] at hw
      exact nomatch hw
    | cons v rest =>
      rw [startedWith_start quiet came (all v List.mem_cons_self)] at hw
      exact all w (List.mem_cons_of_mem v hw)
  have readers : (onReaders (startedWith words) s).link.readers.length = 4 := (List.length_mapIdx (f := _)).trans hq.length_readers
  have settled : (onReaders (startedWith words) s).settled := hs
  rw [run, loss close, readLanes_losePacket settled hq.length_lanes readers hq.laneCount_le enough idle, onReaders_onReaders]
  congr 2
  refine onReaders_congr fun i hi => ?_
  have came : words[i]? = some (words[i]'(by omega)) := List.getElem?_eq_getElem _
  rw [startedWith_lost (hq.reader (List.getElem_mem hi)) came (busy _ (List.mem_of_getElem? came)),
    List.getD_eq_getElem?_getD, came, Option.getD_some]

/-- Bad start on lane `i`, with the sync word on every other (R125). -/
theorem takeWords_badStart {i : Nat} (hi : i < s.settings.laneCount) {w : LaneWord} (bad : startClass w = .bad) :
    takeWords ((syncHeads s).set i [w]) s = reported .laneUncorrectable i
      (poison 5 (onReaders (fun _ x => { x with used := x.used + 1, seeking := true }) s)) := by
  have busy : isIdle w = false := by
    unfold isIdle
    rw [bad]
    rfl
  have heads : ∀ j, j < s.settings.laneCount →
      ((syncHeads s).set i [w])[j]? = some [if j = i then w else syncWord] := fun j hj => by
    simp only [syncHeads, List.getElem?_set, List.length_replicate, List.getElem?_replicate, hi, hj, if_true, eq_comm (a := i)]
    split <;> rfl
  have mem : ∀ l ∈ (syncHeads s).set i [w], l = [w] ∨ l = [syncWord] := fun l hl =>
    (List.mem_or_eq_of_mem_set hl).symm.imp_right fun h => (List.mem_replicate.1 h).2
  rw [takeWords_startLost hq hs hr (words := (syncHeads s).set i [w]) (k := .laneUncorrectable) (d := i)]
  · congr 2
    refine onReaders_congr fun j hj => ?_
    rw [length_usedReaders hq] at hj
    rw [List.getD_eq_getElem?_getD, heads j hj]
    rfl
  · simp [syncHeads]
  · intro l hl v hv
    obtain rfl | rfl := mem l hl <;> obtain rfl := Option.some.inj hv
    · rw [bad]
      decide
    · decide
  · intro l hl v hv
    obtain rfl | rfl := mem l hl <;> obtain rfl := List.mem_singleton.1 hv
    · exact busy
    · decide
  · intro close fuel
    have paired := paired_onReaders hq.paired (startedWith ((syncHeads s).set i [w]))
    have mark : ∀ j y, (onReaders (startedWith ((syncHeads s).set i [w])) s).usedReaders[j]? = some y →
        y.mark = some (if j = i then .bad else .sync) := fun j y hy => by
      obtain ⟨hj, x, hx, rfl⟩ := usedReaders_started hq hy
      rw [startedWith_start (hq.reader hx) (heads j hj) (by split; exacts [busy, by decide])]
      split
      · exact congrArg some bad
      · rfl
    have here : i < (onReaders (startedWith ((syncHeads s).set i [w])) s).usedReaders.length := by
      rw [usedReaders_onReaders, List.length_mapIdx, length_usedReaders hq]
      exact hi
    rw [readLanes, gather_badStart paired close (List.getElem?_eq_getElem here)
      ((mark i _ (List.getElem?_eq_getElem here)).trans (congrArg some (if_pos rfl)))]
    · intro y hy
      obtain ⟨j, hj⟩ := List.getElem?_of_mem hy
      rw [mark j y hj]
      exact nofun
    · intro j y hj hy
      rw [mark j y hy, if_neg (by omega)]
      decide

/-- No start word on lane `i`, and the sync word and five words behind it on every other lane, of which there is one (R126). -/
theorem takeWords_skew {i : Nat} (hi : i < s.settings.laneCount) (more : 1 < s.settings.laneCount) :
    takeWords ((List.replicate s.settings.laneCount (syncWord :: List.replicate 5 0)).set i []) s = reported .laneSkew i
      (poison 5 (onReaders (fun j x => { x with used := x.used + if j = i then 0 else 6, seeking := true }) s)) := by
  let words := (List.replicate s.settings.laneCount (syncWord :: List.replicate 5 (0 : LaneWord))).set i []
  have here : words[i]? = some [] := by simp [words, hi]
  have others : ∀ j, j < s.settings.laneCount → j ≠ i → words[j]? = some (syncWord :: List.replicate 5 0) :=
    fun j hj ne => by simp [words, Ne.symm ne, hj]
  have mem : ∀ l ∈ words, l = [] ∨ l = syncWord :: List.replicate 5 0 := fun l hl =>
    (List.mem_or_eq_of_mem_set hl).symm.imp_right fun h => (List.mem_replicate.1 h).2
  have busy : ∀ v ∈ syncWord :: List.replicate 5 (0 : LaneWord), isIdle v = false := fun v hv => by
    obtain rfl | hv := List.mem_cons.1 hv
    · decide
    · obtain rfl := (List.mem_replicate.1 hv).2
      decide
  show takeWords words s = _
  rw [takeWords_startLost hq hs hr (words := words) (k := .laneSkew) (d := i)]
  · congr 2
    refine onReaders_congr fun j hj => ?_
    rw [length_usedReaders hq] at hj
    rw [List.getD_eq_getElem?_getD]
    by_cases hji : j = i
    · rw [if_pos hji, show words[j]? = some [] from hji ▸ here]
      rfl
    · rw [if_neg hji, others j hj hji]
      rfl
  · simp [words]
  · intro l hl v hv
    obtain rfl | rfl := mem l hl
    · exact nomatch hv
    · obtain rfl := Option.some.inj hv
      decide
  · intro l hl v hv
    obtain rfl | rfl := mem l hl
    · exact nomatch hv
    · exact busy v hv
  · intro close fuel
    have paired := paired_onReaders hq.paired (startedWith words)
    have count : (onReaders (startedWith words) s).usedReaders.length = s.settings.laneCount := by
      rw [usedReaders_onReaders, List.length_mapIdx, length_usedReaders hq]
    have at' : (onReaders (startedWith words) s).usedReaders[i]? = some _ := List.getElem?_eq_getElem (count ▸ hi)
    obtain ⟨-, x, hx, started⟩ := usedReaders_started hq at'
    have quiet := hq.reader hx
    rw [started, startedWith_nil quiet here] at at'
    rw [readLanes, gather_skew paired close at' quiet.unmarked quiet.empty (count ▸ more)]
    intro j y ne hy
    obtain ⟨hj, z, hz, rfl⟩ := usedReaders_started hq hy
    rw [startedWith_start (hq.reader hz) (others j hj ne) (by decide)]
    exact ⟨nofun, fun h => absurd (Option.some.inj h) (by decide), by simp⟩

end

/-- A report made last in a settled state. -/
theorem finish_reported (k : FaultKind) (d : Nat) {t : State} (ht : t.settled) :
    finish (reported k d t) = .next (reported k d t) :=
  finish_settled (s := reported k d t) ht

/-- Lanes that seek, hold no part of a word and receive no idle one discard every word that comes (R125). -/
theorem takeWords_seeking {words : List (List LaneWord)} {s : State} (hs : s.settled) (hr : s.reads = true)
    (len : words.length = s.settings.laneCount) (count : s.settings.laneCount ≤ 4) (lanes : s.link.lanes.length = 4)
    (readers : s.link.readers.length = 4)
    (seek : ∀ x ∈ s.usedReaders, x.words = [] ∧ x.mark = none ∧ x.seeking = true ∧ x.part = [])
    (busy : ∀ l ∈ words, ∀ w ∈ l, isIdle w = false) : takeWords words s =
      onReaders (fun j x => { x with used := x.used + (words.getD j []).length }) s := by
  let t := onReaders (fun i x => x.bring (words.getD i [])) s
  have brought : ∀ i (hi : i < s.usedReaders.length), (s.usedReaders[i]).bring (words.getD i []) =
      { s.usedReaders[i] with words := words.getD i [] } := fun i hi => by
    obtain ⟨none, -, -, part⟩ := seek _ (List.getElem_mem hi)
    rw [bring_of_no_part part, none, List.nil_append]
  have still : ∀ x ∈ t.usedReaders, x.mark = none ∧ x.seeking = true ∧ ∀ w ∈ x.words, isIdle w = false := by
    rw [usedReaders_onReaders]
    intro x hx
    obtain ⟨i, hi, rfl⟩ := List.mem_mapIdx.1 hx
    obtain ⟨-, unmarked, seeks, -⟩ := seek _ (List.getElem_mem hi)
    rw [brought i hi]
    refine ⟨unmarked, seeks, fun w hw => ?_⟩
    have here : i < words.length := by
      by_contra far
      rw [List.getD_eq_default _ _ (by omega)] at hw
      exact nomatch hw
    rw [List.getD_eq_getElem _ _ here] at hw
    exact busy _ (List.getElem_mem here) w hw
  have settled : t.settled := hs
  have all := readLanes_seeking _ (t.wordsHeld + t.lanesInUse + 1) t settled lanes ((List.length_mapIdx (f := _)).trans readers)
    count still rfl
  have fuel : 2 * t.wordsHeld + t.lanesInUse + 1 = t.wordsHeld + t.lanesInUse + 1 + t.wordsHeld := by omega
  refine (if_pos (by rw [hr, len]; simp [State.lanesInUse])).trans ?_
  show readLanes (2 * t.wordsHeld + t.lanesInUse + 1) t = _
  rw [fuel, all, onReaders_onReaders]
  refine onReaders_congr fun i hi => ?_
  rw [brought i hi, readOut, (seek _ (List.getElem_mem hi)).1]

/-- Settles O56: a packet that is skipped, one that is lost, and words that lanes discard while they seek. -/
theorem packetsSkippedAndLost : Obligations.PacketsSkippedAndLost := by
  refine ⟨fun payload s hs hr hq hp => ?_, fun i s hs hr hq hi => ⟨fun w bad => ?_, fun more => ?_⟩,
    fun words s hs hr len count lanes readers seek busy => ?_⟩
  · refine ⟨fun kind other => ?_, fun closed => ⟨?_, fun two => ?_⟩, fun long => ?_, fun long => ?_⟩
    · have apart : ∀ k : Byte, 0 < k.toNat → k.toNat < 4 → kind ≠ k := fun k _ _ h => by
        subst h
        omega
      exact finish_skipped hq hs hr hp (fun h => absurd h (apart 1 (by decide) (by decide)))
        (fun h => absurd h (apart 3 (by decide) (by decide))) fun t _ => by
          refine (if_neg (apart 1 (by decide) (by decide))).trans ((if_neg (apart 2 (by decide) (by decide))).trans ?_)
          exact if_neg (apart 3 (by decide) (by decide))
    · exact finish_skipped hq hs hr hp (fun h => absurd h (by decide)) (fun h => absurd h (by decide)) fun t ht => by
        simp [readPacket, readLine, ht, closed]
    · exact finish_skipped hq hs hr hp (fun h => absurd h (by decide)) (fun _ => two) fun t ht => by
        obtain ⟨a, b, rfl⟩ := List.length_eq_two.1 two
        simp [readPacket, readFrameEnd, ht, closed]
    · rw [← finish_reported]
      · exact congrArg finish (takeWords_lost hq hs hr hp (readPacket_frameStart_wrongLength long))
      · exact hs
    · rw [← finish_reported]
      · exact congrArg finish (takeWords_lost hq hs hr hp (readPacket_frameEnd_wrongLength long))
      · exact hs
  · rw [← finish_reported]
    · exact congrArg finish (takeWords_badStart hq hs hr hi bad)
    · exact hs
  · rw [← finish_reported]
    · exact congrArg finish (takeWords_skew hq hs hr hi more)
    · exact hs
  · exact (congrArg finish (takeWords_seeking hs hr len count lanes readers seek busy)).trans (finish_settled hs)

end Sys2Proof.Machine
end

section
/-!
PROOFS. The moves of the link but for the training decision: from DOWN to TRAINING, and the leaving of UP (O51).
-/
namespace Sys2Proof.Machine

/-! ## Leaving UP (R131, R133, R135) -/

/-- A change of the link receiver, the frame store and the fault unit, followed by the taking of the reports. -/
theorem takeReports_linkFrame {s u : State} (h : ∃ l y x, u = { s with link := l, store := y, faults := x }) :
    takeReports u = { s with link := (takeReports u).link, store := (takeReports u).store, faults := (takeReports u).faults } := by
  obtain ⟨l, y, x, rfl⟩ := h
  rw [takeReports_link, takeReports_store]
  exact takeReports_eq _

/-- The link has left UP: it is DOWN with no frame open and no clean run, its lanes and input health as they were, and the slot of
the frame that was open is FREE. -/
def State.leftBy (s t : State) : Prop :=
  t.link.state = .down ∧ t.link.openFrame = none ∧ t.link.cleanRun = 0 ∧ t.link.health = s.link.health ∧
    t.link.lanes = s.link.lanes ∧ ∀ i < s.store.slots.length, passedSlot s.link = some i → t.store.slot i = freeSlot

theorem leaveUp_leftBy (s : State) : s.leftBy (leaveUp s) := by
  unfold leaveUp poisonAndEnd
  cases hf : s.link.openFrame with
  | none =>
    simp only [State.withLink_link, hf]
    refine ⟨rfl, rfl, rfl, rfl, rfl, fun i _ passed => ?_⟩
    simp [passedSlot, hf] at passed
  | some f =>
    simp only [State.withLink_link, hf]
    have slot : passedSlot s.link = f.slot := passedSlot_of_open hf
    unfold endPoisoned releaseFrameSlot
    cases hs : (poisonFrame 8 f).slot with
    | none =>
      refine ⟨rfl, rfl, rfl, rfl, rfl, fun i _ passed => ?_⟩
      rw [slot, show f.slot = none from hs] at passed
      exact nomatch passed
    | some k =>
      refine ⟨rfl, rfl, rfl, rfl, rfl, fun i hi passed => ?_⟩
      rw [slot, show f.slot = some k from hs] at passed
      obtain rfl := Option.some.inj passed
      show (s.store.slots.set k freeSlot).getD k freeSlot = freeSlot
      rw [List.getD_eq_getElem?_getD, List.getElem?_set_self hi, Option.getD_some]

theorem takeReports_leftBy {s u : State} (h : s.leftBy u) : s.leftBy (takeReports u) := by
  unfold State.leftBy
  rw [takeReports_link, takeReports_store]
  exact h

/-! ## The commands that move the link -/

/-- LANES_ACTIVE and SETTLE_EXPIRY in a settled state (R120 to R122). -/
theorem exec_lanesActive {s : State} (hs : s.settled) (works : s.working = true) (down : s.link.state = .down) :
    exec .lanesActive s = .next { s with link := { s.link with state := .settle, settleTimer := some s.line.stamp } } := by
  refine (congrArg finish (if_pos (by simp [works, down]))).trans ?_
  exact finish_settled (s := s.withLink { s.link with state := .settle, settleTimer := some s.line.stamp }) hs

theorem exec_settleExpiry {s : State} (hs : s.settled) (works : s.working = true) (settle : s.link.state = .settle) :
    exec .settleExpiry s = .next { s with link := { s.link with
      state := .training, settleTimer := none, lanes := s.link.lanes.map (fun _ => freshLane) } } := by
  refine (congrArg finish (if_pos (by simp [works, settle]))).trans ?_
  exact finish_settled (s := s.withLink { s.link with
      state := .training, settleTimer := none, lanes := s.link.lanes.map (fun _ => freshLane) }) hs

/-- The loss of activity on a lane in use, by the state of the link (R120). -/
theorem exec_laneActivityLost {s : State} (works : s.working = true) {lane : Nat} (used : lane < s.settings.laneCount)
    (received : List (List Bool)) : exec (.laneActivityLost lane received) s = .next (takeReports (match s.link.state with
      | .down => s
      | .settle => s.withLink { s.link with state := .down, settleTimer := none }
      | .training => s.withLink { s.link with
          state := .down, settleTimer := none, lanes := trainLanes s.settings.laneCount received s.link.lanes }
      | .up => leaveUp s)) := by
  refine (congrArg finish (if_pos (by
    rw [works]
    exact decide_eq_true used))).trans ?_
  rw [finish_eq_next]
  congr 1
  cases h : s.link.state with
  | down | up => rfl
  | settle => simp [receiveBits, h]
  | training =>
    unfold receiveBits
    rw [if_pos h]
    rfl

/-- INPUT_TIMEOUT in UP (R124, R133). -/
theorem exec_inputTimeout {s : State} (works : s.working = true) (up : s.link.state = .up)
    (timed : 0 < s.settings.inputTimeout) : exec .inputTimeout s =
      .next (takeReports (leaveUp (report .link .inputTimeout s.settings.inputTimeout s))) := by
  refine (congrArg finish (if_pos (by simp [works, up, timed]))).trans ?_
  exact finish_eq_next.2 rfl

/-- The fault unit keeps the bit of a report through the leaving of UP (R187). -/
theorem takeReports_leaveUp_pendingBit (b : Block) (k : FaultKind) (d : Nat) (s : State) :
    (takeReports (leaveUp (report b k d s))).faults.pending.getLsbD (faultNumber k) = true := by
  have grows := ((leaveUp_keepsCounts (report b k d s)).trans (takeReports_keepsCounts _)).1
  exact grows.pending _ (report_pendingBit b k d s)

/-- The clause of O51 about the loss of activity on a lane in use. -/
theorem laneActivityLost_leaves {s : State} (works : s.working = true) {lane : Nat} (used : lane < s.settings.laneCount)
    (received : List (List Bool)) : ∃ t, exec (.laneActivityLost lane received) s = .next t ∧
      t.link.state = .down ∧ t.link.health = s.link.health ∧
      t.link.lanes = (if s.link.state = .training then trainLanes s.settings.laneCount received s.link.lanes
        else s.link.lanes) ∧
      t = { s with link := t.link, store := t.store, faults := t.faults } ∧ (s.link.state ≠ .up → t.store = s.store) ∧
      (s.link.state = .up → t.link.openFrame = none ∧ t.link.cleanRun = 0 ∧
        ∀ i < s.store.slots.length, passedSlot s.link = some i → t.store.slot i = freeSlot) := by
  have run := exec_laneActivityLost works used received
  cases h : s.link.state with
  | up =>
    rw [h] at run
    obtain ⟨down, closed, noRun, health, lanes, freed⟩ := takeReports_leftBy (leaveUp_leftBy s)
    exact ⟨_, run, down, health, lanes, takeReports_linkFrame (leaveUp_frame s), fun no => absurd rfl no,
      fun _ => ⟨closed, noRun, freed⟩⟩
  | down =>
    rw [h] at run
    refine ⟨_, run, ?_, ?_, ?_, takeReports_linkFrame ⟨s.link, s.store, s.faults, rfl⟩, fun _ => ?_, nofun⟩ <;> simp [h]
  | settle =>
    rw [h] at run
    refine ⟨_, run, ?_, ?_, ?_, takeReports_linkFrame ⟨_, s.store, s.faults, rfl⟩, fun _ => ?_, nofun⟩ <;> simp
  | training =>
    rw [h] at run
    refine ⟨_, run, ?_, ?_, ?_, takeReports_linkFrame ⟨_, s.store, s.faults, rfl⟩, fun _ => ?_, nofun⟩ <;> simp

/-- The clause of O51 about the input timeout. -/
theorem inputTimeout_leaves {s : State} (works : s.working = true) (up : s.link.state = .up)
    (timed : 0 < s.settings.inputTimeout) : ∃ t, exec .inputTimeout s = .next t ∧
      t.link.state = .down ∧ t.link.openFrame = none ∧ t.link.cleanRun = 0 ∧ t.link.lanes = s.link.lanes ∧
      t = { s with link := t.link, store := t.store, faults := t.faults } ∧ t.faults.pending.getLsbD 24 = true ∧
      ∀ i < s.store.slots.length, passedSlot s.link = some i → t.store.slot i = freeSlot := by
  obtain ⟨down, closed, noRun, -, lanes, freed⟩ :=
    takeReports_leftBy (leaveUp_leftBy (report .link .inputTimeout s.settings.inputTimeout s))
  have frame : ∃ l y x, leaveUp (report .link .inputTimeout s.settings.inputTimeout s) =
      { s with link := l, store := y, faults := x } := leaveUp_frame _
  exact ⟨_, exec_inputTimeout works up timed, down, closed, noRun, lanes, takeReports_linkFrame frame,
    takeReports_leaveUp_pendingBit .link .inputTimeout _ s, freed⟩

end Sys2Proof.Machine
end

section
/-!
PROOFS. O51: the training decision, and the data held that is read as the link comes UP.
-/
namespace Sys2Proof.Machine

/-! ## The three tests (R123) -/

/-- Every lane has recognised its sync, no two of them more than 64 bit times apart. -/
def syncedNear (l : List Lane) : Prop := ∃ low, ∀ x ∈ l, ∃ b, x.syncAt = some b ∧ low ≤ b ∧ b ≤ low + 64

theorem mem_syncTimes {l : List Lane} {b : Nat} : b ∈ syncTimes l ↔ ∃ x ∈ l, x.syncAt = some b := List.mem_filterMap

theorem allSynced_eq_true {l : List Lane} : allSynced l = true ↔ ∀ x ∈ l, ∃ b, x.syncAt = some b := by
  simp [allSynced, Option.isSome_iff_exists]

/-- The latest of the sync times, from 0 on. -/
theorem lastSync_spec (l : List Lane) : (∀ b ∈ syncTimes l, b ≤ (syncTimes l).foldl max 0) ∧
    ((syncTimes l).foldl max 0 = 0 ∨ (syncTimes l).foldl max 0 ∈ syncTimes l) := by
  have spec := foldl_max_spec (fun _ : Nat => True) (fun n => n) (syncTimes l) 0
  simpa only [if_true, true_and, true_implies, exists_eq_right] using spec.2

/-- The earliest of the sync times, from `hi` down. -/
theorem firstSync_spec (l : List Lane) (hi : Nat) : (syncTimes l).foldl min hi ≤ hi ∧
    (∀ b ∈ syncTimes l, (syncTimes l).foldl min hi ≤ b) ∧
      ((syncTimes l).foldl min hi = hi ∨ (syncTimes l).foldl min hi ∈ syncTimes l) := by
  have spec := foldl_min_spec (fun _ : Nat => True) (fun n => n) (syncTimes l) hi
  simpa only [if_true, true_and, true_implies, exists_eq_right] using spec

/-- Test 3 is passed when the syncs lie near to one another. -/
theorem syncSkewed_iff {l : List Lane} (all : ∀ x ∈ l, ∃ b, x.syncAt = some b) : syncSkewed l = true ↔ ¬syncedNear l := by
  obtain ⟨below, last⟩ := lastSync_spec l
  obtain ⟨-, above, first⟩ := firstSync_spec l ((syncTimes l).foldl max 0)
  unfold syncSkewed
  rw [decide_eq_true_iff]
  generalize (syncTimes l).foldl max 0 = hi at *
  generalize (syncTimes l).foldl min hi = lo at *
  constructor
  · rintro far ⟨low, near⟩
    have inside : ∀ b ∈ syncTimes l, low ≤ b ∧ b ≤ low + 64 := fun b hb => by
      obtain ⟨x, hx, sync⟩ := mem_syncTimes.1 hb
      obtain ⟨c, same, bounds⟩ := near x hx
      obtain rfl := Option.some.inj (sync.symm.trans same)
      exact bounds
    obtain rfl | hi_mem := last
    · omega
    obtain rfl | lo_mem := first
    · omega
    have := inside hi hi_mem
    have := inside lo lo_mem
    omega
  · intro apart
    by_contra close
    refine apart ⟨lo, fun x hx => ?_⟩
    obtain ⟨b, sync⟩ := all x hx
    have mem := mem_syncTimes.2 ⟨x, hx, sync⟩
    have := below b mem
    have := above b mem
    exact ⟨b, sync, by omega, by omega⟩

theorem syncedNear.allSynced {l : List Lane} (near : syncedNear l) : ∀ x ∈ l, ∃ b, x.syncAt = some b := by
  obtain ⟨_, near⟩ := near
  intro x hx
  obtain ⟨b, sync, -⟩ := near x hx
  exact ⟨b, sync⟩

theorem syncedNear.not_skewed {l : List Lane} (near : syncedNear l) : syncSkewed l = false :=
  Bool.eq_false_iff.2 fun skewed => (syncSkewed_iff near.allSynced).1 skewed near

/-- The lane that synced last, the lowest of several. -/
theorem lastToSync_eq {l : List Lane} {lane last : Nat} (all : ∀ x ∈ l, ∃ b, x.syncAt = some b ∧ b ≤ last)
    (here : l[lane]?.bind (fun x => x.syncAt) = some last)
    (lowest : ∀ j < lane, l[j]?.bind (fun x => x.syncAt) ≠ some last) : lastToSync l = lane := by
  obtain ⟨x, hx, sync⟩ := Option.bind_eq_some_iff.1 here
  obtain ⟨hlane, rfl⟩ := List.getElem?_eq_some_iff.1 hx
  obtain ⟨below, reached⟩ := lastSync_spec l
  have most : ∀ b ∈ syncTimes l, b ≤ last := fun b hb => by
    obtain ⟨x, hx, sync⟩ := mem_syncTimes.1 hb
    obtain ⟨c, same, le⟩ := all x hx
    obtain rfl := Option.some.inj (sync.symm.trans same)
    exact le
  have latest : (syncTimes l).foldl max 0 = last := by
    have := below last (mem_syncTimes.2 ⟨_, List.getElem_mem hlane, sync⟩)
    obtain none | mem := reached
    · omega
    · exact le_antisymm (most _ mem) this
  unfold lastToSync
  rw [latest, List.findIdx_eq hlane]
  refine ⟨beq_iff_eq.2 sync, fun j hj => beq_eq_false_iff_ne.2 ?_⟩
  have := lowest j hj
  rwa [List.getElem?_eq_getElem (by omega), Option.bind_some] at this

/-- The first lane that meets a test. -/
theorem findIdx?_of_first {l : List Lane} {p : Lane → Bool} {i : Nat} {x : Lane} (hx : l[i]? = some x) (meets : p x = true)
    (before : ∀ j < i, ∀ y, l[j]? = some y → p y = false) : l.findIdx? p = some i := by
  obtain ⟨hi, rfl⟩ := List.getElem?_eq_some_iff.1 hx
  rw [List.findIdx?_eq_some_iff_getElem]
  refine ⟨hi, meets, fun j hj => ?_⟩
  rw [before j hj _ (List.getElem?_eq_getElem (by omega))]
  exact Bool.false_ne_true

section
variable {threshold : Nat} {l : List Lane}

/-- Test 3 comes before the others. -/
theorem trainingFailure_skewed (skewed : syncSkewed l = true) : trainingFailure threshold l = some (3, lastToSync l) :=
  if_pos skewed

variable (near : syncedNear l)
include near

theorem trainingFailure_unchecked {lane : Nat} {x : Lane} (hx : l[lane]? = some x) (few : x.checked < 65536)
    (before : ∀ j < lane, ∀ y, l[j]? = some y → 65536 ≤ y.checked) : trainingFailure threshold l = some (1, lane) := by
  unfold trainingFailure
  rw [near.not_skewed, findIdx?_of_first hx (decide_eq_true few) fun j hj y hy =>
    decide_eq_false (Nat.not_lt.2 (before j hj y hy))]
  rfl

variable (checked : ∀ x ∈ l, 65536 ≤ x.checked)
include checked

theorem trainingFailure_checked : trainingFailure threshold l =
    (l.findIdx? (fun x => decide (threshold < x.mismatched))).map (fun i => (2, i)) := by
  unfold trainingFailure
  rw [near.not_skewed, List.findIdx?_eq_none_iff.2 fun x hx => decide_eq_false (Nat.not_lt.2 (checked x hx))]
  rfl

theorem trainingFailure_mismatched {lane : Nat} {x : Lane} (hx : l[lane]? = some x) (bad : threshold < x.mismatched)
    (before : ∀ j < lane, ∀ y, l[j]? = some y → y.mismatched ≤ threshold) :
    trainingFailure threshold l = some (2, lane) := by
  rw [trainingFailure_checked near checked, findIdx?_of_first hx (decide_eq_true bad) fun j hj y hy =>
    decide_eq_false (Nat.not_lt.2 (before j hj y hy))]
  rfl

theorem trainingFailure_passed (good : ∀ x ∈ l, x.mismatched ≤ threshold) : trainingFailure threshold l = none := by
  rw [trainingFailure_checked near checked,
    List.findIdx?_eq_none_iff.2 fun x hx => decide_eq_false (Nat.not_lt.2 (good x hx))]
  rfl

end

/-! ## The decision -/

theorem exec_trainingDecision_waits {s : State} (hs : s.settled) {x : Lane} (hx : x ∈ s.usedLanes) (unsynced : x.syncAt = none) :
    exec .trainingDecision s = .next s := by
  have waits : allSynced s.usedLanes = false := Bool.eq_false_iff.2 fun all => by
    obtain ⟨b, sync⟩ := allSynced_eq_true.1 all x hx
    rw [unsynced] at sync
    exact nomatch sync
  exact (congrArg finish (if_neg (by simp [waits]))).trans (finish_settled hs)

section
variable {s : State} (hs : s.settled) (works : s.working = true) (training : s.link.state = .training)
include works training

theorem exec_trainingDecision_passed (synced : allSynced s.usedLanes = true)
    (passed : trainingFailure s.settings.trainingThreshold s.usedLanes = none) :
    exec .trainingDecision s = finish (linkUp s) := by
  refine congrArg finish ((if_pos (by simp [works, training, synced])).trans ?_)
  rw [passed]

include hs

theorem exec_trainingDecision_failed {test lane : Nat} (synced : allSynced s.usedLanes = true)
    (failed : trainingFailure s.settings.trainingThreshold s.usedLanes = some (test, lane)) :
    exec .trainingDecision s =
      .next (reported .trainingFail (256 * test + lane) { s with link := { s.link with state := .down } }) := by
  have down : (s.withLink { s.link with state := .down }).settled := hs
  have reports := takeReports_report down .link .trainingFail (256 * test + lane)
  refine (congrArg finish ((if_pos (by simp [works, training, synced])).trans ?_)).trans (finish_eq_next.2 reports)
  rw [failed]

end

/-! ## The data held (R123, R125) -/

/-- The state as the link comes UP, with the data that each lane held to be read (R123). -/
def State.upHolding (s : State) : State := s.withLink { s.link with
  state := .up, inputTimer := s.timerNow, lanes := s.link.lanes.map Lane.released, readers := s.link.lanes.map readerOf }

/-- Lanes that hold no word and have marked no start give nothing. -/
theorem readLanes_still (fuel : Nat) {s : State} (still : ∀ x ∈ s.usedReaders, x.words = [] ∧ x.mark = none) :
    readLanes fuel s = s := by
  cases fuel with
  | zero => rfl
  | succ fuel =>
    have first : firstMark s.usedTimes s.usedReaders = none := firstMark_none_of_unmarked fun x hx => (still x hx).2
    have next : nextWord s.usedTimes s.usedReaders = none := by
      refine earliest_none (fun o ho => ?_)
      obtain ⟨i, hi, rfl⟩ := List.getElem_of_mem ho
      rw [List.length_zipWith] at hi
      have hi' : i < s.usedReaders.length := by omega
      rw [List.getElem_zipWith]
      simp [wordTime, still s.usedReaders[i] (List.getElem_mem hi')]
    unfold readLanes gather
    rw [first, next]

theorem usedReaders_upHolding (s : State) : s.upHolding.usedReaders = s.usedLanes.map readerOf := List.map_take.symm

theorem paired_upHolding (s : State) : s.upHolding.paired := by
  unfold State.paired State.usedLanes State.usedReaders State.upHolding
  simp

/-- Idle words that were held are passed over (R125). -/
theorem linkUp_idle {s : State} (hs : s.settled) (idle : ∀ x ∈ s.usedLanes, ∀ w ∈ wholeWords x.held, isIdle w = true) :
    linkUp s = onReaders readOut s.upHolding := by
  have discards : ∀ x ∈ s.upHolding.usedReaders, x.discards := by
    rw [usedReaders_upHolding]
    intro x hx
    obtain ⟨l, hl, rfl⟩ := List.mem_map.1 hx
    exact ⟨rfl, idle l hl⟩
  have settled : s.upHolding.settled := hs
  have fuel : 2 * s.upHolding.wordsHeld + s.upHolding.lanesInUse + 1 =
      s.upHolding.wordsHeld + s.upHolding.lanesInUse + 1 + s.upHolding.wordsHeld := by omega
  show readLanes (2 * s.upHolding.wordsHeld + s.upHolding.lanesInUse + 1) s.upHolding = _
  rw [fuel, readLanes_discards _ settled (paired_upHolding s) discards, readLanes_still]
  rw [usedReaders_onReaders]
  intro x hx
  obtain ⟨i, hi, rfl⟩ := List.mem_mapIdx.1 hx
  exact ⟨rfl, (discards _ (List.getElem_mem hi)).1⟩

/-- The lanes of a link that came UP and has passed over all that they held. -/
theorem finish_passedOver {s : State} (hs : s.settled) : finish (onReaders readOut s.upHolding) =
    .next (s.upHolding.withLink { s.upHolding.link with readers := s.upHolding.link.readers.mapIdx (fun i x =>
      if i < s.settings.laneCount then { x with words := [], used := x.words.length } else x) }) := by
  have settled : (onReaders readOut s.upHolding).settled := hs
  rw [finish_settled settled]
  unfold onReaders Link.onReaders
  congr 3
  refine List.ext_getElem (by simp) fun i _ _ => ?_
  simp only [List.getElem_mapIdx, State.upHolding, State.withLink_link, List.getElem_map, readOut, readerOf, Nat.zero_add]
  rfl

/-- The data held is read as words held in UP are, when no further word comes (R123, R125). -/
theorem linkUp_eq_takeWords {s : State} (works : s.working = true) :
    linkUp s = takeWords (List.replicate s.settings.laneCount []) s.upHolding := by
  have reads : s.upHolding.reads = true := by
    show (s.working && true) = true
    rw [works]
    rfl
  have none : onReaders (fun i x => x.bring ((List.replicate s.settings.laneCount []).getD i [])) s.upHolding = s.upHolding :=
    onReaders_of_same fun i _ => by
      rw [List.getD_eq_getElem?_getD, List.getElem?_replicate]
      split <;> rfl
  refine Eq.trans ?_ (if_pos (by rw [reads, List.length_replicate]; simp [State.lanesInUse, State.upHolding])).symm
  rw [none]
  rfl

/-- The first word that comes on a lane completes the word whose first bits the lane held, as if it came whole (R123). -/
theorem takeWords_completed {words : List (List LaneWord)} {s : State} (hr : s.reads = true)
    (len : words.length = s.settings.laneCount) (came : ∀ l ∈ words, l ≠ []) :
    takeWords words s = takeWords
      (words.mapIdx (fun i l => completeWord (s.link.readers.getD i freshReader).part (l.headD 0) :: l.tail))
      (onReaders (fun _ x => { x with part := [] }) s) := by
  have same : ∀ i (hi : i < s.usedReaders.length), s.usedReaders[i].bring (words.getD i []) =
      ({ s.usedReaders[i] with part := [] } : LaneReader).bring ((words.mapIdx (fun i l =>
        completeWord (s.link.readers.getD i freshReader).part (l.headD 0) :: l.tail)).getD i []) := fun i hi => by
    have hi' : i < s.link.readers.length ∧ i < words.length := by
      unfold State.usedReaders State.lanesInUse at hi
      rw [List.length_take] at hi
      omega
    have reader : s.link.readers.getD i freshReader = s.usedReaders[i] := by
      rw [List.getD_eq_getElem _ _ hi'.1]
      exact List.getElem_take.symm
    obtain ⟨w, rest, cons⟩ := List.exists_cons_of_ne_nil (came _ (List.getElem_mem hi'.2))
    rw [List.getD_eq_getElem _ _ hi'.2, List.getD_eq_getElem _ _ (by simpa using hi'.2), List.getElem_mapIdx, reader, cons]
    simp [LaneReader.bring]
  have reads : (onReaders (fun _ x => { x with part := [] }) s).reads = true := hr
  refine (if_pos (by rw [hr, len]; simp [State.lanesInUse])).trans (Eq.trans ?_
    (if_pos (by rw [reads, List.length_mapIdx, len]; simp [State.lanesInUse, onReaders])).symm)
  rw [onReaders_onReaders]
  exact congrArg readOn (onReaders_congr same)

/-- Settles O51: each move of the link, and what the data held becomes. -/
theorem linkMoves : Obligations.LinkMoves := by
  refine ⟨fun s hs works => ⟨exec_lanesActive hs works, exec_settleExpiry hs works, fun training => ?_⟩,
    fun words s hs hr len came => congrArg finish (takeWords_completed hr len came),
    fun s works => ⟨fun lane used received => laneActivityLost_leaves works used received, inputTimeout_leaves works⟩⟩
  have synced {test lane : Nat} (all : ∀ x ∈ s.usedLanes, ∃ b, x.syncAt = some b) :=
    exec_trainingDecision_failed (test := test) (lane := lane) hs works training (allSynced_eq_true.2 all)
  refine ⟨fun near pass => ?_, fun x hx => exec_trainingDecision_waits hs hx, fun lane last all apart here lowest => ?_,
    fun lane x near hx few before => synced (syncedNear.allSynced near) (trainingFailure_unchecked near hx few before),
    fun lane x near checked hx bad before =>
      synced (syncedNear.allSynced near) (trainingFailure_mismatched near checked hx bad before)⟩
  · have run := exec_trainingDecision_passed works training (allSynced_eq_true.2 (syncedNear.allSynced near))
      (trainingFailure_passed near (fun x hx => (pass x hx).1) (fun x hx => (pass x hx).2))
    refine ⟨fun idle => ?_, run.trans (congrArg finish (linkUp_eq_takeWords works))⟩
    exact run.trans ((congrArg finish (linkUp_idle hs idle)).trans (finish_passedOver hs))
  · have synced' : ∀ x ∈ s.usedLanes, ∃ b, x.syncAt = some b := fun x hx => by
      obtain ⟨b, sync, -⟩ := all x hx
      exact ⟨b, sync⟩
    rw [← lastToSync_eq all here lowest]
    exact synced synced' (trainingFailure_skewed ((syncSkewed_iff synced').2 apart))

end Sys2Proof.Machine
end

section
/-!
PROOFS. O52: a lane in TRAINING over the bits that it receives (R122, R123), and the words that it holds (log 28).
-/
namespace Sys2Proof.Machine

/-! ## The checker (R122) -/

/-- What the checker holds after `n` bits that the predictions `p` go with: the last seven of these, newest first. -/
def predictions (p : Nat → Bool) (n : Nat) : List Bool := ((List.range n).map p).reverse.take 7

theorem length_predictions (p : Nat → Bool) (n : Nat) : (predictions p n).length = min 7 n := by simp [predictions]

theorem predictions_succ (p : Nat → Bool) (n : Nat) : predictions p (n + 1) = p n :: (predictions p n).take 6 := by
  simp [predictions, List.range_succ, List.take_take]

theorem predictions_of_le (p : Nat → Bool) {n : Nat} (h : n ≤ 6) : (predictions p n).take 6 = predictions p n :=
  List.take_of_length_le (by rw [length_predictions]; omega)

theorem predictions_getD (p : Nat → Bool) {n i : Nat} (hi : i < 7) (hn : i < n) :
    (predictions p n).getD i false = p (n - 1 - i) := by
  have len := length_predictions p n
  rw [List.getD_eq_getElem _ _ (by omega)]
  simp [predictions]

/-- How many of the first bits differ from the predictions. -/
def differing (bits : List Bool) (p : Nat → Bool) : Nat :=
  ((List.range bits.length).filter (fun i => bits[i]? != some (p i))).length

theorem differing_append (bits : List Bool) (b : Bool) (p : Nat → Bool) :
    differing (bits ++ [b]) p = differing bits p + if p bits.length = b then 0 else 1 := by
  have same : (List.range bits.length).filter (fun i => (bits ++ [b])[i]? != some (p i)) =
      (List.range bits.length).filter (fun i => bits[i]? != some (p i)) := List.filter_congr fun i hi => by
    rw [List.getElem?_append_left (List.mem_range.1 hi)]
  unfold differing
  rw [List.length_append, List.length_singleton, List.range_succ, List.filter_append, List.length_append, same]
  congr 1
  by_cases h : p bits.length = b
  · simp [h]
  · simp [h, Ne.symm h]

theorem satInc_min (top n : Nat) : satInc top (min top n) = min top (n + 1) := by
  unfold satInc
  split <;> omega

/-- A bit that the checker takes, one of the first seven. -/
theorem judgeBit_load {x : Lane} (few : x.checker.length < 7) (b : Bool) :
    judgeBit x b = { x with checker := b :: x.checker } := if_pos few

/-- A bit that the checker judges by its prediction. -/
theorem judgeBit_check {x : Lane} (loaded : ¬x.checker.length < 7) (b : Bool) : judgeBit x b =
    { x with
      checker := predictBit x.checker :: x.checker.take 6
      checked := satInc 4294967295 x.checked
      mismatched := if predictBit x.checker = b then x.mismatched else satInc 65535 x.mismatched } := if_neg loaded

/-- The checker after bits whose first seven are as the predictions `p` have them, each of which is the exclusive-or of those
6 and 7 before it. -/
theorem judgeBits_spec {p : Nat → Bool} (rule : ∀ i, p (i + 7) = (p (i + 1) != p i)) (bits : List Bool)
    (loads : ∀ i < 7, ∀ b, bits[i]? = some b → p i = b) :
    (bits.foldl judgeBit freshLane).checker = predictions p bits.length ∧
      (bits.foldl judgeBit freshLane).checked = min 4294967295 (bits.length - 7) ∧
        (bits.foldl judgeBit freshLane).mismatched = min 65535 (differing bits p) := by
  induction bits using List.reverseRecOn with
  | nil => exact ⟨rfl, rfl, rfl⟩
  | append_singleton bits b ih =>
    obtain ⟨checker, checked, mismatched⟩ := ih fun i hi c hc => loads i hi c (by
      rwa [List.getElem?_append_left (List.getElem?_eq_some_iff.1 hc).1])
    rw [List.foldl_append, List.foldl_cons, List.foldl_nil, List.length_append, List.length_singleton]
    generalize bits.foldl judgeBit freshLane = x at *
    have len : x.checker.length = min 7 bits.length := by rw [checker, length_predictions]
    by_cases few : bits.length < 7
    · have loaded : p bits.length = b := loads _ few b (by simp)
      rw [judgeBit_load (by omega), predictions_succ, predictions_of_le p (by omega), differing_append, if_pos loaded]
      refine ⟨by rw [loaded, checker], ?_, mismatched⟩
      rw [show bits.length + 1 - 7 = bits.length - 7 by omega]
      exact checked
    · have next : predictBit x.checker = p bits.length := by
        obtain ⟨n, hn⟩ := Nat.exists_eq_add_of_le' (Nat.not_lt.1 few)
        unfold predictBit
        rw [checker, predictions_getD p (by omega) (by omega), predictions_getD p (by omega) (by omega), hn, rule]
        rfl
      rw [judgeBit_check (by omega), next, predictions_succ, differing_append]
      refine ⟨by rw [checker], ?_, ?_⟩
      · show satInc 4294967295 x.checked = _
        rw [checked, satInc_min]
        congr 1
        omega
      · show (if p bits.length = b then x.mismatched else satInc 65535 x.mismatched) = _
        rw [mismatched, satInc_min]
        split <;> rfl

/-! ## The sync (R123) -/

/-- Judged bits leave the rest of the lane, and do not depend on it. -/
theorem judgeBit_with (x : Lane) (unjudged : List Bool) (received : Nat) (b : Bool) :
    judgeBit { x with unjudged := unjudged, received := received } b =
      { judgeBit x b with unjudged := unjudged, received := received } := by
  unfold judgeBit
  split <;> rfl

theorem judgeBits_unsynced (bits : List Bool) :
    (bits.foldl judgeBit freshLane).syncAt = none ∧ (bits.foldl judgeBit freshLane).held = [] :=
  List.foldlRecOn (motive := fun x : Lane => x.syncAt = none ∧ x.held = []) bits _ ⟨rfl, rfl⟩ fun x hx b _ => by
    unfold judgeBit
    split <;> exact hx

/-- A lane that has received `bits` and has not recognised its sync: it has judged the bits before the last sixteen. -/
def unsyncedLane (bits : List Bool) : Lane :=
  { (bits.take (bits.length - 16)).foldl judgeBit freshLane with unjudged := bits.reverse.take 16, received := bits.length }

/-- The word that the sixteen bits before place `k` form. -/
def lastWord (bits : List Bool) (k : Nat) : LaneWord := wordOfBits ((bits.take k).drop (k - 16)).reverse

theorem lastWord_append {bits : List Bool} {k : Nat} (hk : k ≤ bits.length) (more : List Bool) :
    lastWord (bits ++ more) k = lastWord bits k := by
  unfold lastWord
  rw [List.take_append_of_le_length hk]

/-- The bits that are judged once one bit more has come. -/
theorem judged_append (bits : List Bool) (b : Bool) :
    ((bits ++ [b]).take ((bits ++ [b]).length - 16)).foldl judgeBit freshLane =
      bits.reverse[15]?.elim ((bits.take (bits.length - 16)).foldl judgeBit freshLane)
        (judgeBit ((bits.take (bits.length - 16)).foldl judgeBit freshLane)) := by
  rw [List.length_append, List.length_singleton]
  by_cases few : bits.length < 16
  · rw [List.getElem?_eq_none (by rw [List.length_reverse]; omega), Nat.sub_eq_zero_of_le (by omega),
      Nat.sub_eq_zero_of_le (by omega)]
    rfl
  · have old : bits.reverse[15]? = some bits[bits.length - 16] := by
      rw [List.getElem?_reverse (by omega), List.getElem?_eq_getElem]
      rfl
    rw [old, List.take_append_of_le_length (by omega), show bits.length + 1 - 16 = bits.length - 16 + 1 by omega,
      List.take_add_one, List.foldl_append, List.getElem?_eq_getElem (by omega)]
    rfl

/-- The sync of a lane that recognises it with the last of `bits`, when these end in the sync word within one bit. -/
def syncWith (bits : List Bool) : Option Nat :=
  if 16 ≤ bits.length ∧ wordDistance (lastWord bits bits.length) syncWord ≤ 1 then some bits.length else none

/-- The sixteen bits before the end, newest first. -/
theorem lastWord_length (bits : List Bool) : lastWord bits bits.length = wordOfBits (bits.reverse.take 16) := by
  unfold lastWord
  rw [List.take_length, List.take_reverse]

/-- A bit on a lane that has not recognised its sync: the bit that came 16 bit times before is judged. -/
theorem laneBit_of_unsynced {x : Lane} (unsynced : x.syncAt = none) (b : Bool) : laneBit x b =
    { x.unjudged[15]?.elim x (judgeBit x) with
      unjudged := b :: x.unjudged.take 15
      received := x.received + 1
      syncAt := if (b :: x.unjudged.take 15).length = 16 ∧ wordDistance (wordOfBits (b :: x.unjudged.take 15)) syncWord ≤ 1
        then some (x.received + 1) else none } := by
  unfold laneBit
  rw [if_neg (by rw [unsynced]; exact Bool.false_ne_true)]
  cases x.unjudged[15]? <;> rfl

/-- One bit more on a lane that has not recognised its sync. -/
theorem laneBit_unsynced (bits : List Bool) (b : Bool) :
    laneBit (unsyncedLane bits) b = { unsyncedLane (bits ++ [b]) with syncAt := syncWith (bits ++ [b]) } := by
  have oldest : (unsyncedLane bits).unjudged[15]? = bits.reverse[15]? := List.getElem?_take_of_lt (by decide)
  have judged : bits.reverse[15]?.elim (unsyncedLane bits) (judgeBit (unsyncedLane bits)) =
      { ((bits ++ [b]).take ((bits ++ [b]).length - 16)).foldl judgeBit freshLane with
        unjudged := bits.reverse.take 16, received := bits.length } := by
    rw [judged_append]
    cases bits.reverse[15]? with
    | none => rfl
    | some old => exact judgeBit_with _ _ _ old
  have window : b :: (unsyncedLane bits).unjudged.take 15 = (bits ++ [b]).reverse.take 16 := by
    show b :: (bits.reverse.take 16).take 15 = _
    rw [List.reverse_append, List.take_take]
    rfl
  have sixteen : ((bits ++ [b]).reverse.take 16).length = 16 ↔ 16 ≤ (bits ++ [b]).length := by
    rw [List.length_take, List.length_reverse]
    omega
  have count : (unsyncedLane bits).received + 1 = (bits ++ [b]).length := by
    rw [List.length_append]
    rfl
  rw [laneBit_of_unsynced (x := unsyncedLane bits) (judgeBits_unsynced _).1, oldest, judged, window, count]
  unfold syncWith
  simp only [sixteen, lastWord_length]
  rfl

theorem laneBits_unsynced (bits : List Bool)
    (apart : ∀ k, 16 ≤ k → k ≤ bits.length → 2 ≤ wordDistance (lastWord bits k) syncWord) :
    laneBits freshLane bits = unsyncedLane bits := by
  induction bits using List.reverseRecOn with
  | nil => rfl
  | append_singleton bits b ih =>
    have before := ih fun k low high => by
      rw [← lastWord_append high [b]]
      exact apart k low (by simp; omega)
    unfold laneBits at before ⊢
    have none : syncWith (bits ++ [b]) = Option.none := if_neg fun ⟨long, near⟩ => by
      have := apart _ long le_rfl
      omega
    have unsynced := (judgeBits_unsynced ((bits ++ [b]).take ((bits ++ [b]).length - 16))).1
    rw [List.foldl_append, before, List.foldl_cons, List.foldl_nil, laneBit_unsynced, none, ← unsynced]
    rfl

/-- A lane that has recognised its sync holds the bits that follow. -/
theorem laneBits_synced {x : Lane} (synced : x.syncAt.isSome = true) (more : List Bool) :
    laneBits x more = { x with held := x.held ++ more } := by
  induction more generalizing x with
  | nil => rw [List.append_nil]; rfl
  | cons b more ih =>
    have first : laneBit x b = { x with held := x.held ++ [b] } := if_pos synced
    unfold laneBits at ih ⊢
    rw [List.foldl_cons, first]
    refine (ih (x := { x with held := x.held ++ [b] }) synced).trans ?_
    rw [List.append_assoc]
    rfl

/-- The first place at which the last sixteen bits lie within one bit of the sync word is the lane's sync. -/
theorem laneBits_sync {bits : List Bool} (long : 16 ≤ bits.length)
    (apart : ∀ k, 16 ≤ k → k < bits.length → 2 ≤ wordDistance (lastWord bits k) syncWord)
    (near : wordDistance (lastWord bits bits.length) syncWord ≤ 1) :
    laneBits freshLane bits = { unsyncedLane bits with syncAt := some bits.length } := by
  obtain rfl | ⟨init, b, rfl⟩ := List.eq_nil_or_concat' bits
  · exact absurd long (by decide)
  have before := laneBits_unsynced init fun k low high => by
    rw [← lastWord_append high [b]]
    exact apart k low (by simp; omega)
  have sync : syncWith (init ++ [b]) = some (init ++ [b]).length := if_pos ⟨long, near⟩
  unfold laneBits at before ⊢
  rw [List.foldl_append, before, List.foldl_cons, List.foldl_nil, laneBit_unsynced, sync]

/-! ## The order of a word's bits (log 28) -/

/-- The bits of a word in the order received. -/
def wordBits (v : LaneWord) : List Bool := (List.range 16).map (fun i => v.getMsbD i)

/-- Bits from the least significant on. -/
theorem foldr_testBits (n w : Nat) :
    ((List.range w).map (fun i => n.testBit i)).foldr (fun b m => 2 * m + b.toNat) 0 = n % 2 ^ w := by
  induction w generalizing n with
  | zero => simp [Nat.mod_one]
  | succ w ih =>
    have rest : (List.range w).map ((fun i => n.testBit i) ∘ Nat.succ) = (List.range w).map (fun i => (n / 2).testBit i) :=
      List.map_congr_left fun i _ => Nat.testBit_succ n i
    rw [List.range_succ_eq_map, List.map_cons, List.map_map, List.foldr_cons, rest, ih, Nat.testBit_zero, Nat.pow_succ',
      Nat.mod_mul, Nat.add_comm]
    congr 1
    obtain h | h := Nat.mod_two_eq_zero_or_one n <;> simp [h]

/-- The first `k` bits of a word, as a number. -/
theorem wordOfBits_take (w : LaneWord) {k : Nat} (hk : k ≤ 16) :
    (wordOfBits ((wordBits w).take k).reverse).toNat = w.toNat / 2 ^ (16 - k) := by
  have bits : ((wordBits w).take k).reverse = (List.range k).map (fun i => (w.toNat / 2 ^ (16 - k)).testBit i) := by
    refine List.ext_getElem (by simp [wordBits]; omega) fun i hi _ => ?_
    simp only [wordBits, List.length_reverse, List.length_take, List.length_map, List.length_range] at hi
    have place : min k 16 - 1 - i = 15 - (16 - k + i) := by omega
    simp only [wordBits, List.getElem_reverse, List.getElem_take, List.getElem_map, List.getElem_range, List.length_take,
      List.length_map, List.length_range, Nat.testBit_div_two_pow, place]
    rw [BitVec.getMsbD_eq_getLsbD, BitVec.getLsbD, decide_eq_true (by omega), Bool.true_and,
      show 16 - 1 - (15 - (16 - k + i)) = i + (16 - k) by omega]
  have small : w.toNat / 2 ^ (16 - k) < 2 ^ k := by
    rw [Nat.div_lt_iff_lt_mul (Nat.two_pow_pos _), ← Nat.pow_add, show k + (16 - k) = 16 by omega]
    exact w.isLt
  unfold wordOfBits
  rw [bits, foldr_testBits, BitVec.toNat_ofNat, Nat.mod_eq_of_lt small, Nat.mod_eq_of_lt]
  exact (Nat.div_le_self _ _).trans_lt w.isLt

theorem wordOfBits_wordBits (w : LaneWord) : wordOfBits (wordBits w).reverse = w := by
  have all := wordOfBits_take w le_rfl
  rw [List.take_of_length_le (by simp [wordBits]), Nat.sub_self, Nat.pow_zero, Nat.div_one] at all
  exact BitVec.eq_of_toNat_eq all

/-- A word of which the last bits come alone, behind the first `k` that were held (log 13). -/
theorem completeWord_take {w v : LaneWord} {k : Nat} (hk : k ≤ 16)
    (same : v.toNat % 2 ^ (16 - k) = w.toNat % 2 ^ (16 - k)) : completeWord ((wordBits w).take k) v = w := by
  have len : ((wordBits w).take k).length = k := by simpa [wordBits] using hk
  refine BitVec.eq_of_toNat_eq ?_
  unfold completeWord
  rw [len, wordOfBits_take w hk, same, Nat.div_add_mod', BitVec.toNat_ofNat]
  exact Nat.mod_eq_of_lt w.isLt

theorem wholeWords_of_short {bits : List Bool} (h : bits.length < 16) : wholeWords bits = [] := by
  unfold wholeWords
  rw [Nat.div_eq_of_lt h]
  rfl

theorem restBits_of_short {bits : List Bool} (h : bits.length < 16) : restBits bits = bits := by
  unfold restBits
  rw [Nat.div_eq_of_lt h]
  rfl

section
variable {first : List Bool} (h : first.length = 16) (rest : List Bool)
include h

theorem wholeWords_append : wholeWords (first ++ rest) = wordOfBits first.reverse :: wholeWords rest := by
  have later : ∀ k, (first ++ rest).drop (16 * (k + 1)) = rest.drop (16 * k) := fun k => by
    rw [List.drop_append, List.drop_eq_nil_of_le (by omega), List.nil_append]
    congr 1
    omega
  unfold wholeWords
  rw [List.length_append, h, show (16 + rest.length) / 16 = rest.length / 16 + 1 by omega, List.range_succ_eq_map, List.map_cons,
    List.map_map, Nat.mul_zero, List.drop_zero, List.take_append_of_le_length h.ge, List.take_of_length_le h.le]
  simp only [Function.comp_def, Nat.succ_eq_add_one, later]

theorem restBits_append : restBits (first ++ rest) = restBits rest := by
  unfold restBits
  rw [List.length_append, h, show 16 * ((16 + rest.length) / 16) = 16 + 16 * (rest.length / 16) by omega, List.drop_append,
    List.drop_eq_nil_of_le (by omega), List.nil_append, h, Nat.add_sub_cancel_left]

end

/-- The bits of words, with fewer than a word's behind them, are read as these words and that rest. -/
theorem words_of_bits (words : List LaneWord) {part : List Bool} (short : part.length < 16) :
    wholeWords (words.flatMap wordBits ++ part) = words ∧ restBits (words.flatMap wordBits ++ part) = part := by
  induction words with
  | nil => exact ⟨wholeWords_of_short short, restBits_of_short short⟩
  | cons v words ih =>
    have len : (wordBits v).length = 16 := by simp [wordBits]
    rw [List.flatMap_cons, List.append_assoc, wholeWords_append len, restBits_append len, wordOfBits_wordBits, ih.1, ih.2]
    exact ⟨rfl, rfl⟩

/-- Settles O52: the checker by induction on the bits judged, and the sync by induction on the bits received. -/
theorem laneTraining : Obligations.LaneTraining := by
  refine ⟨fun lane bits0 bits1 bits2 bits3 s hs works training used => ?_, fun bits p loads rule => ?_,
    fun bits long apart near => ?_, fun words w k hk => ?_⟩
  · refine (congrArg finish ((if_pos (by rw [works]; exact decide_eq_true used)).trans (if_pos training))).trans ?_
    exact finish_settled (s := s.withLink _) hs
  · exact (judgeBits_spec rule bits loads).2
  · have sync := laneBits_sync long apart near
    dsimp only
    rw [sync]
    refine ⟨rfl, rfl, rfl, fun more => ?_⟩
    have empty : (unsyncedLane bits).held = [] := (judgeBits_unsynced _).2
    refine (laneBits_synced rfl more).trans ?_
    rw [show ({ unsyncedLane bits with syncAt := some bits.length } : Lane).held = [] from empty]
    rfl
  · have short : ((wordBits w).take k).length < 16 := (List.length_take_le _ _).trans_lt hk
    obtain ⟨whole, rest⟩ := words_of_bits words short
    exact ⟨whole, rest, fun v same => completeWord_take hk.le same⟩

end Sys2Proof.Machine
end

section
/-!
PROOFS. The selection of a frame start: S, the successor, and what the slots become (O30).
-/
namespace Sys2Proof.Machine

/-! ## Extremes of a list of slots (R137) -/

theorem earliestSlot_eq_none {r : ContentNo} {l : List (Nat × ContentNo)} : earliestSlot r l = none ↔ l = [] := by
  cases l <;> simp [earliestSlot]

theorem latestSlot_eq_none {r : ContentNo} {l : List (Nat × ContentNo)} : latestSlot r l = none ↔ l = [] := by
  cases l <;> simp [latestSlot]

/-- No slot of the list has a greater key than the latest. -/
theorem contentKey_le_latestSlot {r : ContentNo} {l : List (Nat × ContentNo)} {x : Nat × ContentNo}
    (h : latestSlot r l = some x) : ∀ y ∈ l, contentKey y.2 r ≤ contentKey x.2 r := by
  have fold : ∀ (l : List (Nat × ContentNo)) (a : Nat × ContentNo), ∀ y ∈ a :: l,
      contentKey y.2 r ≤ contentKey (l.foldl (laterSlot r) a).2 r := by
    intro l
    induction l with
    | nil => simp
    | cons b l ih =>
      intro a
      have above : contentKey a.2 r ≤ contentKey (laterSlot r a b).2 r ∧
          contentKey b.2 r ≤ contentKey (laterSlot r a b).2 r := by unfold laterSlot; split <;> omega
      have first := ih (laterSlot r a b) _ List.mem_cons_self
      rw [List.foldl_cons]
      simp only [List.mem_cons]
      rintro y (rfl | rfl | hy)
      · exact above.1.trans first
      · exact above.2.trans first
      · exact ih _ y (List.mem_cons_of_mem _ hy)
  cases l with
  | nil => exact nomatch h
  | cons a l => exact Option.some.inj h ▸ fold l a

/-! ## S (R143) -/

theorem contribution_eq_some {a : Agreement} {i : Nat} {c : ContentNo} : contribution a i = some c ↔
    ∃ p, (a.peer i).pulse = some p ∧ p.heldValid = true ∧ p.held = c := by
  unfold contribution
  cases (a.peer i).pulse <;> simp

/-- The numbers contributed are the held numbers that members of the live view give. -/
theorem mem_contributions {a : Agreement} {c : ContentNo} : c ∈ contributions a ↔
    ∃ i < 12, isMember a.live i = true ∧ ∃ p, (a.peer i).pulse = some p ∧ p.heldValid = true ∧ p.held = c := by
  simp [contributions, contribution_eq_some, and_assoc]

theorem selectionFigure_of_no_reference {a : Agreement} {x : Store} (h : x.reference = none) : selectionFigure a x = none := by
  simp [selectionFigure, h]

section
variable {a : Agreement} {x : Store} {r : ContentNo} (reference : x.reference = some r)
include reference

theorem selectionFigure_of_none_given (h : ∀ c, c ∉ contributions a) : selectionFigure a x = none := by
  simp [selectionFigure, reference, List.eq_nil_iff_forall_not_mem.2 h, earliestSlot]

/-- With a number given, S is the earliest given. -/
theorem selectionFigure_of_given {c : ContentNo} (hc : c ∈ contributions a) : ∃ f, selectionFigure a x = some f ∧
    f ∈ contributions a ∧ ∀ d ∈ contributions a, contentKey f r ≤ contentKey d r := by
  have paired : ∀ d ∈ contributions a, ((0, d) : Nat × ContentNo) ∈ (contributions a).map (fun c => (0, c)) :=
    fun d hd => List.mem_map_of_mem hd
  obtain ⟨e, he⟩ := Option.ne_none_iff_exists'.1 (mt earliestSlot_eq_none.1 (List.ne_nil_of_mem (paired c hc)) :
    earliestSlot r ((contributions a).map (fun c => ((0, c) : Nat × ContentNo))) ≠ none)
  obtain ⟨mem, least⟩ := earliestSlot_spec he
  obtain ⟨f, hf, rfl⟩ := List.mem_map.1 mem
  refine ⟨f, ?_, hf, fun d hd => least _ (paired d hd)⟩
  rw [selectionFigure, reference, Option.bind_some, he]
  rfl

end

/-! ## The successor (R144, R146, R147) -/

/-- Slot `i` holds, READY, content `c` that comes after what an ordered store shows. -/
def Store.Candidate (x : Store) (i : Nat) (c : ContentNo) : Prop :=
  i < 4 ∧ (x.slot i).state = .ready ∧ (x.slot i).content = some c ∧
    (x.ordered = true → ∀ r, x.showingNumber = some r → contentAfter c r = true)

/-- A candidate that S, when it is present, does not hold back. -/
def Store.Fits (x : Store) (sel : Option ContentNo) (i : Nat) (c : ContentNo) : Prop :=
  x.Candidate i c ∧ ∀ f, sel = some f → contentNotAfter c f = true

theorem mem_candidates {x : Store} {i : Nat} {c : ContentNo} : (i, c) ∈ x.candidates ↔ x.Candidate i c := by
  unfold Store.candidates Store.Candidate
  cases x.ordered <;> cases x.showingNumber <;> simp [mem_readySlots, and_assoc]

theorem withinS_iff {sel : Option ContentNo} {c : ContentNo} :
    withinS sel c = true ↔ ∀ f, sel = some f → contentNotAfter c f = true := by
  cases sel <;> simp [withinS]

/-- The list from which the successor is taken. -/
theorem mem_candidates_withinS {x : Store} {sel : Option ContentNo} {i : Nat} {c : ContentNo} :
    (i, c) ∈ x.candidates.filter (fun y => withinS sel y.2) ↔ x.Fits sel i c := by
  rw [List.mem_filter, mem_candidates, withinS_iff]
  rfl

theorem successor_of_no_reference {x : Store} (h : x.reference = none) (sel : Option ContentNo) : x.successor sel = none := by
  simp [Store.successor, h]

section
variable {x : Store} {sel : Option ContentNo} {r : ContentNo} (reference : x.reference = some r)
include reference

/-- The successor is the latest of the candidates that S does not hold back. -/
theorem successor_spec {j : Nat} {d : ContentNo} (h : x.successor sel = some (j, d)) :
    x.Fits sel j d ∧ ∀ i c, x.Fits sel i c → contentKey c r ≤ contentKey d r := by
  rw [Store.successor, reference, Option.bind_some] at h
  exact ⟨mem_candidates_withinS.1 (mem_of_latestSlot h),
    fun i c fits => contentKey_le_latestSlot h (i, c) (mem_candidates_withinS.2 fits)⟩

theorem successor_eq_none : x.successor sel = none ↔ ∀ i c, ¬x.Fits sel i c := by
  rw [Store.successor, reference, Option.bind_some, latestSlot_eq_none, List.eq_nil_iff_forall_not_mem]
  simp only [Prod.forall, mem_candidates_withinS]

end

/-! ## The slots behind a successor (R144, R147) -/

/-- Each slot after the successor is taken; one past the list is FREE and stays so. -/
theorem takeSuccessor_slot {x : Store} {j : Nat} (d : ContentNo) {i : Nat} (h : i = j → i < x.slots.length) :
    (takeSuccessor j d x).slot i = afterTaking j d i (x.slot i) := by
  simp only [takeSuccessor, Store.slot, List.getD_eq_getElem?_getD, List.getElem?_mapIdx]
  cases hv : x.slots[i]? with
  | some v => rfl
  | none =>
    have other : i ≠ j := fun e => absurd (List.getElem?_eq_none_iff.1 hv) (by have := h e; omega)
    simp [afterTaking, other, freeSlot]

/-- The slot taken becomes SHOWING. -/
theorem takeSuccessor_slot_self {x : Store} {j : Nat} (d : ContentNo) (ready : (x.slot j).state = .ready) :
    (takeSuccessor j d x).slot j = { x.slot j with state := .showing } := by
  rw [takeSuccessor_slot d fun _ => (List.getElem?_eq_some_iff.1 (slot_of_ready ready)).1, afterTaking, if_pos rfl]

section
variable {x : Store} {i j : Nat} (d : ContentNo) (other : i ≠ j)
include other

theorem takeSuccessor_slot_shown (shown : (x.slot i).state = .showing) : (takeSuccessor j d x).slot i = freeSlot := by
  rw [takeSuccessor_slot d fun e => absurd e other]
  simp [afterTaking, other, shown]

theorem takeSuccessor_slot_ready {c : ContentNo} (ready : (x.slot i).state = .ready) (content : (x.slot i).content = some c) :
    (takeSuccessor j d x).slot i = if contentNotAfter c d then freeSlot else x.slot i := by
  rw [takeSuccessor_slot d fun e => absurd e other]
  simp [afterTaking, other, ready, content]

theorem takeSuccessor_slot_unready (h : (x.slot i).state = .filling ∨ (x.slot i).state = .free) :
    (takeSuccessor j d x).slot i = x.slot i := by
  rw [takeSuccessor_slot d fun e => absurd e other]
  obtain h | h := h <;> simp [afterTaking, other, h]

end

/-! ## The store and the reports of a selection -/

/-- The store once the successor under `sel`, when there is one, has become SHOWING. -/
def Store.selecting (x : Store) (sel : Option ContentNo) : Store :=
  { (match x.successor sel with
    | some (j, d) => takeSuccessor j d x
    | none => x) with selection := sel }

theorem Store.selecting_of_none {x : Store} {sel : Option ContentNo} (h : x.successor sel = none) :
    x.selecting sel = { x with selection := sel } := by
  simp [Store.selecting, h]

theorem Store.selecting_of_some {x : Store} {sel : Option ContentNo} {j : Nat} {d : ContentNo}
    (h : x.successor sel = some (j, d)) : x.selecting sel = { takeSuccessor j d x with selection := sel } := by
  simp [Store.selecting, h]

theorem Store.selecting_selection (x : Store) (sel : Option ContentNo) : (x.selecting sel).selection = sel := rfl

/-- A selection is the new store with at most two reports. -/
theorem selectContent_eq (s : State) :
    let x := s.store
    let sel := selectionFigure s.agr x
    selectContent s =
      reportIf (behindS sel (x.selecting sel).showingNumber) .store .contentBehind (sel.getD 0).toNat
        (reportIf (x.ordered && (x.successor sel).isNone && !x.candidates.isEmpty) .store .frameRepeat
          (x.showingNumber.getD 0).toNat (s.withStore (x.selecting sel))) := rfl

theorem selectContent_store (s : State) :
    (selectContent s).store = s.store.selecting (selectionFigure s.agr s.store) := by
  simp [selectContent_eq]

/-- A candidate that is held back while a frame is shown is reported as FRAME_REPEAT (R145). -/
theorem selectContent_frameRepeat {s : State} (ordered : s.store.ordered = true)
    (held : s.store.successor (selectionFigure s.agr s.store) = none) {i : Nat} {c : ContentNo}
    (candidate : s.store.Candidate i c) :
    (selectContent s).faults.pending.getLsbD (faultNumber .frameRepeat) = true := by
  have listed : s.store.candidates ≠ [] := List.ne_nil_of_mem (mem_candidates.2 candidate)
  rw [selectContent_eq]
  exact reportIf_keepsBit (reportIf_pendingBit (by simp [ordered, held, listed]) _ _ _ _) _ _ _ _

/-- What is shown and differs from S is reported as CONTENT_BEHIND (R145, R147). -/
theorem selectContent_contentBehind {s : State} {f c : ContentNo} (selection : (selectContent s).store.selection = some f)
    (shown : (selectContent s).store.showingNumber = some c) (differ : f ≠ c) :
    (selectContent s).faults.pending.getLsbD (faultNumber .contentBehind) = true := by
  rw [selectContent_store, Store.selecting_selection] at selection
  rw [selectContent_store] at shown
  rw [selectContent_eq]
  exact reportIf_pendingBit (by rw [shown, selection]; simp [behindS, differ]) _ _ _ _

/-! ## The selection at a frame start -/

/-- The MEMORY_ECC mark plays no part in a selection. -/
theorem Store.selecting_withEcc (x : Store) (b : Bool) (sel : Option ContentNo) :
    { x with eccReported := b }.selecting sel = { x.selecting sel with eccReported := b } := by
  have successor : { x with eccReported := b }.successor sel = x.successor sel := rfl
  unfold Store.selecting
  rw [successor]
  cases x.successor sel <;> rfl

/-- The state in which a frame start makes its selection: that of the frame start's end in its agreement unit, and that of its
beginning in its frame store but for the MEMORY_ECC mark. -/
theorem frameStart_selects (first : Stamp) (s : State) : ∃ u b,
    u.store = { s.store with eccReported := b } ∧ u.agr = (startedAt first s).agr ∧
      (startedAt first s).store = { (selectContent u).store with eccReported := false } ∧
      (startedAt first s).faults.pending = (selectContent u).faults.pending := by
  obtain ⟨b, _, _, _, _, _, _, _, _, hu⟩ :=
    beforeSelection_keepsPicture first (s.ctl.condition == .joining) s.line.frameNo s
  have store : (frameJobs (changedAt first s)).store = { s.store with eccReported := b } := congrArg State.store hu
  unfold startedAt
  generalize frameJobs (changedAt first s) = u at store ⊢
  refine ⟨u, b, store, ?_, ?_, ?_⟩
  · simp
  · rw [takeReports_store]
    rfl
  · rw [takeReports_pendingSet]
    rfl

section
variable (first : Stamp) (s : State)

/-- The frame store after a frame start, by the selection made under its agreement unit. -/
theorem startedAt_store : (startedAt first s).store =
    { s.store.selecting (selectionFigure (startedAt first s).agr s.store) with eccReported := false } := by
  obtain ⟨u, b, store, agr, after, -⟩ := frameStart_selects first s
  rw [after, selectContent_store, agr, store, Store.selecting_withEcc]
  rfl

variable {first s}

theorem startedAt_frameRepeat (ordered : s.store.ordered = true)
    (held : s.store.successor (selectionFigure (startedAt first s).agr s.store) = none) {i : Nat} {c : ContentNo}
    (candidate : s.store.Candidate i c) :
    (startedAt first s).faults.pending.getLsbD (faultNumber .frameRepeat) = true := by
  obtain ⟨u, b, store, agr, -, pending⟩ := frameStart_selects first s
  rw [pending]
  rw [← agr] at held
  refine selectContent_frameRepeat ?_ ?_ (i := i) (c := c) ?_ <;> rw [store]
  · exact ordered
  · exact held
  · exact candidate

theorem startedAt_contentBehind {f c : ContentNo} (selection : (startedAt first s).store.selection = some f)
    (shown : (startedAt first s).store.showingNumber = some c) (differ : f ≠ c) :
    (startedAt first s).faults.pending.getLsbD (faultNumber .contentBehind) = true := by
  obtain ⟨u, b, -, -, after, pending⟩ := frameStart_selects first s
  rw [after] at selection shown
  rw [pending]
  exact selectContent_contentBehind selection shown differ

end

/-- Settles O30: S by `selectionFigure_of_given`, the successor by `successor_spec`, the slots by the lemmas on
`takeSuccessor`, and the reports by those on `startedAt`. -/
theorem frameStartSelects : Obligations.FrameStartSelects := by
  intro first s hw hr
  refine ⟨startedAt first s, exec_startedAt hw hr, ?_⟩
  have store := startedAt_store first s
  have repeated := @startedAt_frameRepeat first s
  have behind := @startedAt_contentBehind first s
  generalize startedAt first s = t at store repeated behind ⊢
  intro x y given ready fits
  have selection : y.selection = selectionFigure t.agr x := congrArg Store.selection store
  have slots : y.slots = (x.selecting y.selection).slots :=
    (congrArg Store.slots store).trans (by rw [selection])
  have mark : y.restartMark = (x.selecting y.selection).restartMark :=
    (congrArg Store.restartMark store).trans (by rw [selection])
  have stays : x.successor y.selection = none → y.slots = x.slots ∧ y.restartMark = x.restartMark := fun held => by
    rw [slots, mark, Store.selecting_of_none held]
    exact ⟨rfl, rfl⟩
  refine ⟨fun reference => ⟨?_, stays (successor_of_no_reference reference _)⟩, fun r reference =>
    ⟨fun absent => ?_, fun ⟨c, hc⟩ => ?_, fun ⟨i, c, hf⟩ => ?_, fun absent => ?_, fun f c hf hc differ => ?_⟩⟩
  · rw [selection]
    exact selectionFigure_of_no_reference reference
  · rw [selection]
    exact selectionFigure_of_none_given reference fun c hc => absent c (mem_contributions.1 hc)
  · obtain ⟨f, hf, member, least⟩ := selectionFigure_of_given reference (mem_contributions.2 hc)
    exact ⟨f, selection.trans hf, mem_contributions.1 member, fun d hd => least d (mem_contributions.2 hd)⟩
  · have taken : x.successor y.selection ≠ none := fun held => (successor_eq_none reference).1 held i c hf
    obtain ⟨⟨j, d⟩, taken⟩ := Option.ne_none_iff_exists'.1 taken
    obtain ⟨fit, latest⟩ := successor_spec reference taken
    have ⟨⟨_, isReady, _⟩, _⟩ := fit
    rw [Store.selecting_of_some taken] at slots mark
    have slot : ∀ i, y.slot i = (takeSuccessor j d x).slot i := fun i => congrArg (fun l => l.getD i freeSlot) slots
    refine ⟨j, d, fit, latest, mark, (slot j).trans (takeSuccessor_slot_self d isReady), fun i other =>
      ⟨fun h => ?_, fun c hr hc => ?_, fun h => ?_⟩⟩
    · exact (slot i).trans (takeSuccessor_slot_shown d other h)
    · exact (slot i).trans (takeSuccessor_slot_ready d other hr hc)
    · exact (slot i).trans (takeSuccessor_slot_unready d other h)
  · have held : x.successor y.selection = none := (successor_eq_none reference).2 absent
    obtain ⟨slots, mark⟩ := stays held
    rw [selection] at held
    exact ⟨slots, mark, fun ordered ⟨i, c, candidate⟩ => repeated ordered held candidate⟩
  · exact behind hf hc differ

end Sys2Proof.Machine
end

section
/-!
PROOFS. Uncorrectable reads of the frame memory: MEMORY_ECC, and the report at the end of a frame (O59).
-/
namespace Sys2Proof.Machine

/-! ## The reads of a frame (R155, R157) -/

/-- A case before the last of R157 reads nothing. -/
theorem pixelReads_eq_nil {s : State} {f : Setup} {x y : Nat}
    (h : inPatch s.settings x y = true ∨ f.identify = true ∨ f.condition ≠ .live ∨ f.source = none) :
    pixelReads s f x y = [] := by
  refine if_pos ?_
  simp only [Bool.or_eq_true, Bool.not_eq_true', beq_eq_false_iff_ne, Option.isNone_iff_eq_none]
  tauto

theorem frameReads_eq_nil {s : State} {f : Setup}
    (h : ∀ x < s.line.raster.width, ∀ y < s.line.raster.height, pixelReads s f x y = []) : frameReads s f = [] := by
  refine List.flatMap_eq_nil_iff.2 fun y hy => List.flatMap_eq_nil_iff.2 fun x hx => ?_
  exact h x (List.mem_range.1 (List.mem_filter.1 hx).1) y (List.mem_range.1 hy)

theorem readFails_iff {s : State} {f : Setup} {slot : Nat} (source : f.source = some slot) (p : Nat × Nat) :
    readFails s f p = true ↔ pixelAddress slot p.1 p.2 ∈ s.store.errors := by
  simp [readFails, source]

/-! ## The first read that fails, and its report (R149) -/

/-- Without known errors no read fails, so that the walk is searched in either case. -/
theorem firstFailed_eq_find (s : State) (f : Setup) : firstFailed s f = (frameReads s f).find? (readFails s f) := by
  unfold firstFailed
  split
  · rename_i clear
    refine (List.find?_eq_none.2 fun q _ => ?_).symm
    unfold readFails
    cases f.source <;> simp [clear]
  · rfl

/-- The first failed read is the first of the walk that fails. -/
theorem firstFailed_eq_some {s : State} {f : Setup} {p : Nat × Nat} : firstFailed s f = some p ↔
    readFails s f p = true ∧ ∃ past rest, frameReads s f = past ++ p :: rest ∧ ∀ q ∈ past, readFails s f q = false := by
  rw [firstFailed_eq_find, List.find?_eq_some_iff_append]
  simp only [Bool.not_eq_true']

/-- A frame with a failed read has a first one. -/
theorem exists_firstFailed {s : State} {f : Setup} {p : Nat × Nat} (read : p ∈ frameReads s f)
    (fails : readFails s f p = true) : ∃ q, firstFailed s f = some q := by
  rw [firstFailed_eq_find]
  exact Option.isSome_iff_exists.1 (List.find?_isSome.2 ⟨p, read, fails⟩)

theorem eccReport_of_reported {s : State} (h : s.store.eccReported = true) : eccReport s = s := by
  simp [eccReport, h]

theorem eccReport_of_failed {s : State} {f : Setup} {p : Nat × Nat} (unreported : s.store.eccReported = false)
    (setup : s.pix.setup = some f) (failed : firstFailed s f = some p) :
    eccReport s = report .store .memoryEcc p.1 (s.withStore { s.store with eccReported := true }) := by
  simp [eccReport, unreported, setup, failed]

/-- The report of a settled state, once taken. -/
theorem takeReports_eccReport {s : State} {f : Setup} {p : Nat × Nat} (settled : s.settled)
    (unreported : s.store.eccReported = false) (setup : s.pix.setup = some f) (failed : firstFailed s f = some p) :
    takeReports (eccReport s) = reported .memoryEcc p.1 (s.withStore { s.store with eccReported := true }) := by
  rw [eccReport_of_failed unreported setup failed]
  exact takeReports_report (s := s.withStore { s.store with eccReported := true }) settled _ _ _

/-! ## MEMORY_ECC -/

theorem withError_errors (x : Store) (a : Nat) :
    x.withError a = { x with errors := if a ∈ x.errors then x.errors else x.errors ++ [a] } := by
  simp [Store.withError]

theorem mem_withError (x : Store) (a : Nat) : a ∈ (x.withError a).errors := by
  rw [withError_errors]
  dsimp only
  split
  · assumption
  · simp

section
variable {s : State} {f : Setup} {slot line column : Nat} (works : s.working = true) (setup : s.pix.setup = some f)
  (source : f.source = some slot)
include works setup source

/-- An uncorrectable read that the frame in progress makes is remembered, and the frame reports. -/
theorem exec_memoryEcc_of_read (read : (line, column) ∈ frameReads s f) : exec (.memoryEcc line column) s =
    finish (eccReport (s.withStore (s.store.withError (pixelAddress slot line column)))) := by
  simp [exec, execMemoryEcc, setup, source, works, read]

theorem exec_memoryEcc_of_unread (unread : (line, column) ∉ frameReads s f) :
    exec (.memoryEcc line column) s = finish s := by
  simp [exec, execMemoryEcc, setup, source, works, unread]

end

/-! ## The report at the end of a frame (log 20) -/

/-- What follows the end of a frame's reads only adds to the fault records. -/
theorem startedAt_grows (first : Stamp) (s : State) : (endFrameReads s).faults.Grows (startedAt first s).faults := by
  have kept : KeepsCounts (endFrameReads s) (startedAt first s) :=
    (((((((rasterFrameStart_keepsCounts first _).trans (frameCounts_keepsCounts _)).trans
      (frameAgreement_keepsCounts (s.ctl.condition == .joining) s.line.frameNo _)).trans (frameChanges_keepsCounts _)).trans
        (frameJobs_keepsCounts _)).trans (selectContent_keepsCounts _)).trans (setupStep_keepsCounts _)).trans
          (takeReports_keepsCounts _)
  exact kept.1

/-- A frame that ends with a failed read that it has not reported reports it, before any report of the frame that begins. -/
theorem startedAt_reportsRead {first : Stamp} {s : State} {f : Setup} {p : Nat × Nat} (settled : s.settled)
    (unreported : s.store.eccReported = false) (setup : s.pix.setup = some f) (failed : firstFailed s f = some p) :
    (startedAt first s).faults.pending.getLsbD (faultNumber .memoryEcc) = true ∧
      (startedAt first s).faults.first = some (s.faults.first.getD ⟨.memoryEcc, s.line.frameNo, BitVec.ofNat 16 p.1⟩) := by
  have ended : endFrameReads s = reported .memoryEcc p.1 (s.withStore { s.store with eccReported := true }) :=
    takeReports_eccReport settled unreported setup failed
  obtain ⟨-, first, pending⟩ := startedAt_grows first s
  rw [ended] at first pending
  refine ⟨pending _ ?_, first _ ?_⟩
  · simp [reported, faultNumber_lt]
  · cases h : s.faults.first <;> simp [reported, h]

/-- Settles O59: the first failed read by `firstFailed_eq_some`, its report by `takeReports_eccReport`, and the report of an error
known from before by `startedAt_reportsRead`. -/
theorem memoryErrors : Obligations.MemoryErrors := by
  intro s settled works
  refine ⟨fun f slot line column setup source => ?_, fun f nothing => ?_, fun slot line column known => ?_,
    fun first running => ?_⟩
  · intro c a found
    have foundEq : s.withStore (s.store.withError a) = found := by
      rw [withError_errors]
      rfl
    refine ⟨fun read unreported => ?_, fun read done => ?_, fun unread => ?_⟩
    · have walked : (line, column) ∈ frameReads found f := read
      have fails : readFails found f (line, column) = true := by
        rw [← foundEq, readFails_iff source]
        exact mem_withError s.store a
      obtain ⟨p, failed⟩ := exists_firstFailed walked fails
      obtain ⟨failsFirst, past, rest, walk, before⟩ := firstFailed_eq_some.1 failed
      refine ⟨past, rest, p, walk, before, failsFirst, ?_⟩
      rw [exec_memoryEcc_of_read works setup source read, foundEq, finish_eq_next]
      exact takeReports_eccReport (s := found) settled unreported setup failed
    · rw [exec_memoryEcc_of_read works setup source read, foundEq, eccReport_of_reported (s := found) done]
      exact finish_settled (s := found) settled
    · rw [exec_memoryEcc_of_unread works setup source unread]
      exact finish_settled settled
  · refine frameReads_eq_nil fun x hx y hy => pixelReads_eq_nil ?_
    obtain identify | dark | unsourced | covered := nothing
    · exact .inr (.inl identify)
    · exact .inr (.inr (.inl dark))
    · exact .inr (.inr (.inr unsourced))
    · exact .inl (covered x hx y hy)
  · exact neighbour_outside (.inr known)
  · obtain ⟨t, run, -, -, errors, -⟩ := frameStart_setup (first := first) works running
    obtain rfl : startedAt first s = t := Host.Outcome.next.inj ((exec_startedAt works running).symm.trans run)
    refine ⟨_, run, errors, ?_, fun f past rest p setup unreported walk before fails => ?_⟩
    · exact congrArg Store.eccReported (startedAt_store first s)
    · exact startedAt_reportsRead settled unreported setup (firstFailed_eq_some.2 ⟨fails, past, rest, walk, before⟩)

end Sys2Proof.Machine
end

section
/-!
PROOFS. The light monitor: LIGHT_SAMPLE, the cycle that an off-sample forms, and the moves of the light state (O57, O58).
-/
namespace Sys2Proof.Machine

/-! ## The sample (R164, R165) -/

section
variable {v : Nat} {n : FrameNo} {s : State}

theorem takeSample_on (ofFrame : n.toNat % 8 = 3) :
    takeSample v n s = s.withLight { s.light with held := some ⟨v, n⟩ } :=
  if_pos ofFrame

theorem takeSample_between (notOn : n.toNat % 8 ≠ 3) (notOff : n.toNat % 8 ≠ 7) : takeSample v n s = s := by
  rw [takeSample, if_neg notOn, if_neg notOff]

theorem takeSample_paired {on : Nat} (ofFrame : n.toNat % 8 = 7) (held : s.light.held = some ⟨on, n - 4⟩) :
    takeSample v n s = formCycle on v n s := by
  simp [takeSample, ofFrame, held]

/-- Without an on-sample held there is none to discard, so that the state stays as it is. -/
theorem takeSample_unpaired (ofFrame : n.toNat % 8 = 7) (apart : ∀ h, s.light.held = some h → h.frame ≠ n - 4) :
    takeSample v n s = s.withLight { s.light with held := none } := by
  cases held : s.light.held with
  | some h => simpa [takeSample, ofFrame, held] using fun same => absurd same (apart h held)
  | none =>
    have kept : s = s.withLight { s.light with held := none } := by rw [← held]; rfl
    rw [← kept]
    simp [takeSample, ofFrame, held]

end

/-! ## LIGHT_SAMPLE (R164; log 17) -/

section
variable {v : BitVec 12} {s : State} (works : s.working = true)
include works

theorem exec_lightSample_ahead (top : s.settings.patchLine = 0) :
    exec (.lightSample v true) s = finish (takeSample v.toNat (nextFrameNo s.line) s) := by
  simp [exec, execLightSample, works, top]

theorem exec_lightSample_of_reached (at' : reached s.line 0 s.settings.patchLine = true) :
    exec (.lightSample v false) s = finish (takeSample v.toNat s.line.frameNo s) := by
  simp [exec, execLightSample, works, at']

theorem exec_lightSample_of_not_reached (before : reached s.line 0 s.settings.patchLine = false) :
    exec (.lightSample v false) s = finish s := by
  simp [exec, execLightSample, works, before]

/-- An off-sample forms a cycle with the on-sample of four frames before. -/
theorem exec_lightSample_paired {on : Nat} (at' : reached s.line 0 s.settings.patchLine = true)
    (ofFrame : s.line.frameNo.toNat % 8 = 7) (held : s.light.held = some ⟨on, s.line.frameNo - 4⟩) :
    exec (.lightSample v false) s = finish (formCycle on v.toNat s.line.frameNo s) := by
  rw [exec_lightSample_of_reached works at', takeSample_paired ofFrame held]

end

/-! ## The cycle (R165, R166) -/

/-- The state with a cycle recorded in the frame in progress, and the held on-sample discarded. -/
def State.recordCycle (on off : Nat) (s : State) : State :=
  s.withLight { s.light with held := none, cycle := some ⟨on, off, s.line.frameNo⟩ }

theorem saturation_eq_zero_iff {on off : Nat} : saturation on off = 0 ↔ on ≠ 4095 ∧ off ≠ 4095 := by
  unfold saturation
  split_ifs <;> simp_all

theorem saturation_of_saturated {on off : Nat} (full : on = 4095 ∨ off = 4095) :
    saturation on off = if off ≠ 4095 then 1 else if on ≠ 4095 then 2 else 3 := by
  unfold saturation
  split_ifs <;> omega

theorem formCycle_of_valid {on off : Nat} (s : State) (onValid : on ≠ 4095) (offValid : off ≠ 4095) :
    formCycle on off s.line.frameNo s = validCycle on off s.line.frameNo (s.recordCycle on off) :=
  if_pos (saturation_eq_zero_iff.2 ⟨onValid, offValid⟩)

/-- A saturated cycle forms no estimate: it leaves its record and its report alone. -/
theorem formCycle_of_saturated {on off : Nat} (s : State) (full : on = 4095 ∨ off = 4095) :
    formCycle on off s.line.frameNo s =
      report .light .sensorSat (if off ≠ 4095 then 1 else if on ≠ 4095 then 2 else 3) (s.recordCycle on off) := by
  have notValid : saturation on off ≠ 0 := fun h => by
    obtain ⟨onValid, offValid⟩ := saturation_eq_zero_iff.1 h
    exact full.elim onValid offValid
  rw [← saturation_of_saturated full]
  exact if_neg notValid

/-- Settles O57: the cycle is formed and saturated by `formCycle_of_saturated`, and its one report taken by
`takeReports_report`. -/
theorem saturatedCycle : Obligations.SaturatedCycle := by
  intro v on s settled works at' ofFrame held full
  rw [exec_lightSample_paired works at' ofFrame held, formCycle_of_saturated s full, finish_eq_next]
  exact takeReports_report (s := s.recordCycle on v.toNat) settled _ _ _

/-! ## The light state after a valid cycle (R169) -/

section
variable {lamOut filtered count : Nat} {st : LightState}

theorem nextLightState_of_unlit (unlit : st ≠ .lit) :
    nextLightState lamOut filtered st count = (if lamOut + lamOut / 8 ≤ filtered then .lit else .out, 0) := by
  cases st with
  | lit => exact absurd rfl unlit
  | unknown | out => rfl

theorem nextLightState_of_bright (bright : lamOut ≤ filtered) :
    nextLightState lamOut filtered .lit count = (.lit, 0) :=
  if_neg (Nat.not_lt.2 bright)

theorem nextLightState_of_dim (dim : filtered < lamOut) : nextLightState lamOut filtered .lit count =
    if 3 ≤ count then (.out, 0) else (.lit, count + 1) :=
  if_pos dim

/-- Only the fourth low cycle of a LIT station is reported. -/
theorem lightFalls_iff : lightFalls lamOut filtered st count = true ↔ st = .lit ∧ filtered < lamOut ∧ 3 ≤ count := by
  simp [lightFalls, and_assoc]

end

/-! ## The valid cycle (R167 to R169) -/

/-- The filtered factor that a valid cycle gives (R167, R168). -/
def State.cycleFactor (on off : Nat) (s : State) : Nat :=
  filterFactor s.light.hadValid s.light.filtered (measuredFactor on off s.settings.sCal)

/-- The state with a valid cycle recorded, its factors, and the light state and out count that follow. -/
def State.estimate (on off : Nat) (st : LightState) (count : Nat) (s : State) : State :=
  s.withLight { s.light with
    held := none, cycle := some ⟨on, off, s.line.frameNo⟩
    measured := measuredFactor on off s.settings.sCal, filtered := s.cycleFactor on off, hadValid := true
    state := st, outCount := count }

section
variable {v : BitVec 12} {on : Nat} {s : State} (settled : s.settled) (works : s.working = true)
  (at' : reached s.line 0 s.settings.patchLine = true) (ofFrame : s.line.frameNo.toNat % 8 = 7)
  (held : s.light.held = some ⟨on, s.line.frameNo - 4⟩) (onValid : on ≠ 4095) (offValid : v.toNat ≠ 4095)
include settled works at' ofFrame held onValid offValid

/-- A valid cycle at which the station does not fall OUT reports nothing. -/
theorem exec_lightSample_of_stays {st : LightState} {count : Nat}
    (stays : ¬ (s.light.state = .lit ∧ s.cycleFactor on v.toNat < s.settings.lamOut ∧ 3 ≤ s.light.outCount))
    (next : nextLightState s.settings.lamOut (s.cycleFactor on v.toNat) s.light.state s.light.outCount = (st, count)) :
    exec (.lightSample v false) s = .next (s.estimate on v.toNat st count) := by
  have formed : validCycle on v.toNat s.line.frameNo (s.recordCycle on v.toNat) = s.estimate on v.toNat st count := by
    refine (if_neg (mt lightFalls_iff.1 stays)).trans ?_
    exact congrArg (fun r : LightState × Nat => s.estimate on v.toNat r.1 r.2) next
  rw [exec_lightSample_paired works at' ofFrame held, formCycle_of_valid s onValid offValid, formed]
  exact finish_settled (s := s.estimate on v.toNat st count) settled

/-- The fourth low cycle of a LIT station takes it OUT, with the filtered factor in the report. -/
theorem exec_lightSample_of_falls (lit : s.light.state = .lit) (dim : s.cycleFactor on v.toNat < s.settings.lamOut)
    (fourth : 3 ≤ s.light.outCount) : exec (.lightSample v false) s =
      .next (reported .lightOut (s.cycleFactor on v.toNat) (s.estimate on v.toNat .out 0)) := by
  have next : nextLightState s.settings.lamOut (s.cycleFactor on v.toNat) s.light.state s.light.outCount = (.out, 0) := by
    rw [lit, nextLightState_of_dim dim, if_pos fourth]
  have formed : validCycle on v.toNat s.line.frameNo (s.recordCycle on v.toNat) =
      report .light .lightOut (s.cycleFactor on v.toNat) (s.estimate on v.toNat .out 0) := by
    refine (if_pos (lightFalls_iff.2 ⟨lit, dim, fourth⟩)).trans ?_
    exact congrArg (fun r : LightState × Nat =>
      report .light .lightOut (s.cycleFactor on v.toNat) (s.estimate on v.toNat r.1 r.2)) next
  rw [exec_lightSample_paired works at' ofFrame held, formCycle_of_valid s onValid offValid, formed, finish_eq_next]
  exact takeReports_report (s := s.estimate on v.toNat .out 0) settled _ _ _

end

/-- Settles O58: the frame of the sample decides by the lemmas on `takeSample`, and a valid cycle by the rows of R169 with
`exec_lightSample_of_stays` and `exec_lightSample_of_falls`. -/
theorem lightCycles : Obligations.LightCycles := by
  intro v s settled works
  have changed : ∀ x, finish (s.withLight x) = .next (s.withLight x) := fun x => finish_settled (s := s.withLight x) settled
  refine ⟨fun top onFrame => ?_, fun before => ?_, fun at' => ⟨fun onFrame => ?_, fun notOn notOff => ?_,
    fun offFrame apart => ?_, fun on offFrame held => ?_⟩⟩
  · rw [exec_lightSample_ahead works top, takeSample_on onFrame]
    exact changed _
  · rw [exec_lightSample_of_not_reached works before]
    exact finish_settled settled
  · rw [exec_lightSample_of_reached works at', takeSample_on onFrame]
    exact changed _
  · rw [exec_lightSample_of_reached works at', takeSample_between notOn notOff]
    exact finish_settled settled
  · rw [exec_lightSample_of_reached works at', takeSample_unpaired offFrame apart]
    exact changed _
  · intro x off formed onValid offValid measured filtered becomes
    have stays {st count} := exec_lightSample_of_stays (st := st) (count := count) settled works at' offFrame held onValid
      offValid
    refine ⟨fun unlit => ?_, fun lit bright => ?_, fun lit dim few => ?_, fun lit dim fourth => ?_⟩
    · exact stays (fun ⟨lit, _, _⟩ => unlit lit) (nextLightState_of_unlit unlit)
    · exact stays (fun ⟨_, dim, _⟩ => absurd dim (Nat.not_lt.2 bright)) (lit ▸ nextLightState_of_bright bright)
    · have early : ¬ 3 ≤ s.light.outCount := Nat.not_le.2 (Nat.lt_of_succ_lt_succ few)
      exact stays (fun ⟨_, _, fourth⟩ => early fourth) (lit ▸ (nextLightState_of_dim dim).trans (if_neg early))
    · exact exec_lightSample_of_falls settled works at' offFrame held onValid offValid lit dim (Nat.le_of_succ_le_succ fourth)

end Sys2Proof.Machine
end

section
/-!
PROOFS. The fault records that commands keep (O12), and the resets with the state they leave (O15, O4).
-/
namespace Sys2Proof.Machine

/-! ## The fault records through every command -/

/-- Settles O12: a command that does not clear the fault records only adds to them (`exec_keepsCounts`). -/
theorem faultRecordsKept : Obligations.FaultRecordsKept := by
  intro c s t sound keeps h
  obtain ⟨grows, -⟩ := exec_keepsCounts keeps h
  exact ⟨(grows.counters sound).2, grows.first, grows.pending⟩

/-! ## The strap check (R173) -/

/-- A strapped number of 0 to 11 passes. -/
theorem strapCheck_of_lt {s : State} (h : s.own < 12) : strapCheck s = s := if_neg (Nat.not_le.2 h)

/-- The state `t` is one that a strapped number of 12 to 15 has halted: the load FAILED with code 0, the fixed raster running
from frame 0, and STRAP_INVALID in LAST with the number as detail (R173, R182). -/
def HaltedByStraps (straps : BitVec 4) (t : State) : Prop :=
  t.ctl.condition = .halted ∧ t.loader.strapped = straps ∧ t.loader.state = .failed ∧ t.loader.code = some 0 ∧
    t.line.running = true ∧ t.line.raster = fixedRaster ∧ t.line.frameNo = 0 ∧
    t.faults.last = some ⟨.strapInvalid, 0, straps.setWidth 16⟩

section
variable {straps : BitVec 4} {stamp : Stamp} {low : Bool} {memory : List (Nat × Rgb)} {errors : List Nat}
  {faults : FaultUnit} {queue : List Instr} (moment : faults.moment = [])
include moment

/-- A start with the reset values at straps 0 to 11 makes no report. -/
theorem takeReports_start_of_lt (h : straps.toNat < 12) :
    takeReports (strapCheck (startValues straps stamp low memory errors faults queue)) =
      startValues straps stamp low memory errors faults queue := by
  rw [strapCheck_of_lt (s := startValues ..) h]
  exact takeReports_of_settled moment

/-- A start with the reset values at straps 12 to 15 halts the station. -/
theorem takeReports_start_halts (h : 12 ≤ straps.toNat) :
    HaltedByStraps straps (takeReports (strapCheck (startValues straps stamp low memory errors faults queue))) := by
  let r : FaultRecord := ⟨.strapInvalid, 0, straps.setWidth 16⟩
  have invalid : strapCheck (startValues straps stamp low memory errors faults queue) = _ := if_pos h
  have reports : (strapCheck (startValues straps stamp low memory errors faults queue)).faults.moment =
      [(.loader, r)] := by
    rw [invalid]
    show faults.moment ++ [(Block.loader, ⟨.strapInvalid, 0, BitVec.ofNat 16 straps.toNat⟩)] = _
    rw [moment, List.nil_append, BitVec.ofNat_toNat]
  unfold HaltedByStraps
  rw [takeReports_single reports, takeReports_ctl, takeReports_loader, takeReports_line, invalid]
  exact ⟨rfl, rfl, rfl, rfl, rfl, rfl, rfl, rfl⟩

end

/-! ## The three resets (R183, R192) -/

/-- Taking the reports looks at the fault unit alone: it goes before or after a change of the maintenance port. -/
theorem takeReports_withMaint (s : State) (m : Maintenance) :
    takeReports (s.withMaint m) = (takeReports s).withMaint m := by
  unfold takeReports
  rw [State.withMaint_faults]
  split <;> rfl

/-- A RESTART is a warm reset that keeps the two acknowledges of its own write (R189, R192). -/
theorem exec_restart_whole (straps : BitVec 4) (s : State) : exec (.restart (wholeWrite []) straps) s =
    .next ((takeReports (warmStart straps s)).withMaint { (warmStart straps s).maint with acks := [true, true] }) := by
  refine finish_eq_next.2 ?_
  rw [portWrite_selector (w := wholeWrite []) selectorOf_restart rfl]
  exact takeReports_withMaint (warmStart straps s) _

/-- Settles O15: each reset is a start with the reset values, which the strap check lets pass or halts. -/
theorem resetsBeginStart : Obligations.ResetsBeginStart := by
  intro straps s settled warm write
  refine ⟨fun valid => ⟨?_, ?_, ?_⟩, fun invalid => List.forall_mem_cons.2 ⟨?_, List.forall_mem_cons.2 ⟨?_,
    List.forall_mem_singleton.2 ?_⟩⟩⟩
  · exact finish_eq_next.2 (takeReports_start_of_lt rfl valid)
  · exact finish_eq_next.2 (takeReports_start_of_lt settled valid)
  · have started : takeReports (warmStart straps s) = warm := takeReports_start_of_lt settled valid
    have passes : warmStart straps s = warm := strapCheck_of_lt valid
    rw [exec_restart_whole, started, passes]
    rfl
  · exact ⟨_, rfl, takeReports_start_halts rfl invalid⟩
  · exact ⟨_, rfl, takeReports_start_halts settled invalid⟩
  · have halts : HaltedByStraps straps (takeReports (warmStart straps s)) := takeReports_start_halts settled invalid
    exact ⟨_, exec_restart_whole straps s, halts⟩

/-! ## The state after power-on -/

/-- The reset state is the start that the strap pins at 0 let pass. -/
theorem reset_eq_start : State.reset = strapCheck (startValues 0 0 false [] [] resetFaults []) :=
  (strapCheck_of_lt (s := State.reset) (by decide)).symm

/-- Settles O4: the reset state is a start with the reset values, which keeps every block's invariant. -/
theorem soundAtReset : Obligations.SoundAtReset := by
  have faults : resetFaults.sound := clearedFaults_sound resetFaults
  have trims : State.reset.trimSound := reset_eq_start ▸ startValues_trimSound 0 0 false [] [] resetFaults []
  have port : State.reset.port.sound := reset_eq_start ▸ startValues_portSound 0 0 false [] [] resetFaults []
  have slots : State.reset.slotsSound := (slotsSound_iff _).2 SlotsFit.reset
  obtain ⟨levels, fades⟩ := resetAgreement_ranged 0
  obtain ⟨ctl, link, light, peers⟩ := startValues_countsSound 0 0 false [] [] resetFaults []
  exact ⟨faults, rfl, levels, fades, resetSolver_sound, trims, port, slots, link, ctl, light, peers, rfl⟩

end Sys2Proof.Machine
end

section
/-!
PROOFS. The checks of the image loader: the header (O16), the section heads (O17), and the entries of the tables and the mesh
(O20).
-/
namespace Sys2Proof.Machine

/-! ## The first check that fails -/

@[simp] theorem firstFailure_nil : firstFailure [] = none := rfl

theorem firstFailure_of_bad {bad : Bool} (h : bad = true) (code : Nat) (rest : List (Bool × Nat)) :
    firstFailure ((bad, code) :: rest) = some code := if_pos h

theorem firstFailure_of_good {bad : Bool} (h : bad = false) (code : Nat) (rest : List (Bool × Nat)) :
    firstFailure ((bad, code) :: rest) = firstFailure rest := by
  rw [h]
  rfl

/-- No code is found exactly where every check passes. -/
theorem firstFailure_eq_none {l : List (Bool × Nat)} : firstFailure l = none ↔ ∀ x ∈ l, x.1 = false := by
  induction l with
  | nil => simp
  | cons x rest ih =>
    obtain ⟨bad, code⟩ := x
    cases bad with
    | false => rw [firstFailure_of_good rfl, ih]; simp
    | true => rw [firstFailure_of_bad rfl]; simp

/-! ## A load that fails (R174, R182) -/

theorem failLoad_loader (code : Nat) (s : State) :
    (takeReports (failLoad code s)).loader = { s.loader with state := .failed, code := some code } := takeReports_loader _

theorem failLoad_raster (code : Nat) (s : State) :
    (takeReports (failLoad code s)).line.raster = failureRaster s.loader := by
  rw [takeReports_line]
  rfl

theorem failLoad_halts (code : Nat) (s : State) : (takeReports (failLoad code s)).ctl.condition = .halted := by
  rw [takeReports_ctl]
  rfl

/-! ## IMAGE_HEADER_CHECK (R175) -/

/-- The header passes every check of R175. -/
def Header.passes (h : Header) : Prop :=
  h.pattern = 0x4D473412 ∧ h.version = 3 ∧ 28 ≤ h.bodyLength.toNat ∧ h.bodyLength.toNat ≤ 16777200

theorem headerFailure_of_passes {h : Header} (good : h.passes) : headerFailure h = none := by
  obtain ⟨pattern, version, low, high⟩ := good
  simp [headerFailure, firstFailure, pattern, version, low, high]

/-- A header that fails a check has the code of the first one: the pattern, the version, then the length. -/
theorem headerFailure_of_fails {h : Header} (bad : ¬ h.passes) :
    headerFailure h = some (if h.pattern ≠ 0x4D473412 then 1 else if h.version ≠ 3 then 2 else 3) := by
  unfold headerFailure
  by_cases pattern : h.pattern = 0x4D473412
  · rw [firstFailure_of_good (by simp [pattern]), if_neg (not_not.2 pattern)]
    by_cases version : h.version = 3
    · have length : h.bodyLength.toNat < 28 ∨ 16777200 < h.bodyLength.toNat := by
        by_contra inside
        exact bad ⟨pattern, version, by omega, by omega⟩
      rw [firstFailure_of_good (by simp [version]), firstFailure_of_bad (decide_eq_true length), if_neg (not_not.2 version)]
    · rw [firstFailure_of_bad (bne_iff_ne.2 version), if_pos version]
  · rw [firstFailure_of_bad (bne_iff_ne.2 pattern), if_pos pattern]

section
variable {pattern : BitVec 32} {version : BitVec 16} {len crc : BitVec 32} {imageId : BitVec 16} {s : State}
  (start : s.ctl.condition = .start) (reading : s.loader.state = .readingHeader)
include start reading

theorem exec_imageHeaderCheck_passes (h : headerFailure ⟨pattern, version, len, crc, imageId⟩ = none) :
    exec (.imageHeaderCheck pattern version len crc imageId) s = finish (s.withLoader { s.loader with
      state := .readingBody, bytes := 16, header := some ⟨pattern, version, len, crc, imageId⟩ }) := by
  simp [exec, execImageHeaderCheck, State.inStart, start, reading, h, State.withLoader]

theorem exec_imageHeaderCheck_fails {code : Nat}
    (h : headerFailure ⟨pattern, version, len, crc, imageId⟩ = some code) :
    exec (.imageHeaderCheck pattern version len crc imageId) s = finish (failLoad code (s.withLoader { s.loader with
      bytes := 16, header := some ⟨pattern, version, len, crc, imageId⟩ })) := by
  simp [exec, execImageHeaderCheck, State.inStart, start, reading, h]

end

/-- Settles O16: the checks of R175 pass, or the first that fails gives the code. -/
theorem headerChecked : Obligations.HeaderChecked := by
  intro pattern version len crc imageId s settled start reading c l code
  refine ⟨fun good => ?_, fun bad => ?_⟩
  · have passes : headerFailure ⟨pattern, version, len, crc, imageId⟩ = none := headerFailure_of_passes good
    exact (exec_imageHeaderCheck_passes start reading passes).trans (finish_settled (s := s.withLoader _) settled)
  · have fails : headerFailure ⟨pattern, version, len, crc, imageId⟩ = some code := headerFailure_of_fails bad
    exact ⟨_, exec_imageHeaderCheck_fails start reading fails, failLoad_halts _ _, failLoad_loader _ _,
      congrArg FrameLine.running (takeReports_line _), failLoad_raster _ _, failLoad_last (s := s.withLoader l) settled code,
      takeReports_settings _, takeReports_agr _⟩

/-! ## SECTION_HEAD_CHECK (R176) -/

/-- The section with code `code` and length `length` is the next in order and ends within the body; `l` has counted its head. -/
def Loader.places (l : Loader) (code length : Nat) : Prop :=
  code = l.sectionNo + 1 ∧ l.bytes + length ≤ 16 + l.bodyLength

theorem headFailure_of_suits {code length : Nat} {l : Loader} (placed : l.places code length)
    (suits : lengthSuits l.nodes code length = true) : headFailure code length l = none := by
  obtain ⟨order, within⟩ := placed
  unfold headFailure
  rw [firstFailure_of_good (by simp [order]), firstFailure_of_good (decide_eq_false (Nat.not_lt.2 within)),
    firstFailure_of_good (by simp [suits]), firstFailure_nil]

theorem headFailure_of_not_places {code length : Nat} {l : Loader} (h : ¬ l.places code length) :
    headFailure code length l = some 4 := by
  unfold headFailure
  by_cases order : code = l.sectionNo + 1
  · have beyond : 16 + l.bodyLength < l.bytes + length := Nat.not_le.1 fun within => h ⟨order, within⟩
    rw [firstFailure_of_good (by simp [order]), firstFailure_of_bad (decide_eq_true beyond)]
  · rw [firstFailure_of_bad (by simp [order])]

theorem headFailure_of_not_suits {code length : Nat} {l : Loader} (placed : l.places code length)
    (h : ¬ lengthSuits l.nodes code length = true) : headFailure code length l = some 5 := by
  obtain ⟨order, within⟩ := placed
  unfold headFailure
  rw [firstFailure_of_good (by simp [order]), firstFailure_of_good (decide_eq_false (Nat.not_lt.2 within)),
    firstFailure_of_bad (by simp [h])]

section
variable {code : BitVec 8} {len : BitVec 24} {s : State} (start : s.ctl.condition = .start)
  (body : s.loader.state = .readingBody) (between : s.loader.inSection = false) (more : s.loader.sectionNo < 7)
include start body between more

theorem exec_sectionHeadCheck_passes
    (h : headFailure code.toNat len.toNat (s.loader.read (code :: bytes24 len)) = none) :
    exec (.sectionHeadCheck code len) s = finish (s.withLoader { s.loader.read (code :: bytes24 len) with
      sectionNo := code.toNat, inSection := true, left := len.toNat }) := by
  simp [exec, execSectionHeadCheck, State.inStart, start, body, between, more, h]

theorem exec_sectionHeadCheck_fails {k : Nat}
    (h : headFailure code.toNat len.toNat (s.loader.read (code :: bytes24 len)) = some k) :
    exec (.sectionHeadCheck code len) s = finish (failLoad k (s.withLoader (s.loader.read (code :: bytes24 len)))) := by
  simp [exec, execSectionHeadCheck, State.inStart, start, body, between, more, h]

end

/-- Settles O17: the head is judged with its 4 bytes counted, first by its place and then by its length. -/
theorem sectionHeadChecked : Obligations.SectionHeadChecked := by
  intro code len s settled start body between more c l placed suits
  refine ⟨fun ⟨inPlace, suited⟩ => ?_, fun bad => ?_⟩
  · exact (exec_sectionHeadCheck_passes start body between more (headFailure_of_suits inPlace suited)).trans
      (finish_settled (s := s.withLoader _) settled)
  · have fails : headFailure code.toNat len.toNat l = some (if placed then 5 else 4) := by
      by_cases inPlace : placed
      · rw [if_pos inPlace]
        exact headFailure_of_not_suits inPlace fun suited => bad ⟨inPlace, suited⟩
      · rw [if_neg inPlace]
        exact headFailure_of_not_places inPlace
    exact ⟨_, exec_sectionHeadCheck_fails start body between more fails, failLoad_halts _ _, failLoad_loader _ _⟩

/-! ## TABLE_ENTRY_CHECK (R179) -/

theorem sectionNo_of_readingSection {n bytes : Nat} {s : State} (h : readingSection n bytes s = true) :
    s.loader.sectionNo = n := by
  simp only [readingSection, Bool.and_eq_true, beq_iff_eq] at h
  exact h.1.2

/-- The largest value of an entry in the table that section `n` fills (R179). -/
def tableTop (n : Nat) : Nat := if n = 5 then 4095 else 32768

theorem entryFailure_of_fits {n v : Nat} {before : List Nat} (top : v ≤ tableTop n) (low : before.getLastD 0 ≤ v) :
    entryFailure n before v = none := by
  have rises : decide (v < before.getLastD 0) = false := decide_eq_false (Nat.not_lt.2 low)
  unfold tableTop at top
  unfold entryFailure
  split_ifs at top ⊢ <;>
    rw [firstFailure_of_good (decide_eq_false (Nat.not_lt.2 top)), firstFailure_of_good rises, firstFailure_nil]

/-- An entry out of range fails with 17 or 15, and one that falls with 18 or 16, in the output table and in an input table. -/
theorem entryFailure_of_not_fits {n v : Nat} {before : List Nat} (h : ¬(v ≤ tableTop n ∧ before.getLastD 0 ≤ v)) :
    entryFailure n before v = some (if n = 5 then (if v ≤ tableTop n then 18 else 17)
      else if v ≤ tableTop n then 16 else 15) := by
  unfold entryFailure
  by_cases top : v ≤ tableTop n
  · have falls : decide (v < before.getLastD 0) = true := decide_eq_true (Nat.not_le.1 fun low => h ⟨top, low⟩)
    rw [if_pos top, if_pos top]
    unfold tableTop at top
    split_ifs at top ⊢ <;>
      rw [firstFailure_of_good (decide_eq_false (Nat.not_lt.2 top)), firstFailure_of_bad falls]
  · rw [if_neg top, if_neg top]
    unfold tableTop at top
    split_ifs at top ⊢ <;> rw [firstFailure_of_bad (decide_eq_true (Nat.not_le.1 top))]

section
variable {n : Nat} (table : n ∈ [2, 3, 4, 5]) {v : BitVec 16} {s : State} (reading : readingSection n 2 s = true)
include table reading

theorem readingTable_of_readingSection : readingTable s = true := by
  simp only [List.mem_cons, List.not_mem_nil, or_false] at table
  obtain rfl | rfl | rfl | rfl := table <;> simp [readingTable, reading]

theorem exec_tableEntryCheck_passes (h : entryFailure n (s.pix.table n) v.toNat = none) :
    exec (.tableEntryCheck v) s = finish ((s.withLoader (s.loader.read (bytes16 v)).endSection).withPix
      (s.pix.pushEntry n v.toNat)) := by
  obtain rfl := sectionNo_of_readingSection reading
  simp [exec, execTableEntryCheck, readingTable_of_readingSection table reading, h]

theorem exec_tableEntryCheck_fails {code : Nat} (h : entryFailure n (s.pix.table n) v.toNat = some code) :
    exec (.tableEntryCheck v) s =
      finish (failLoad code (s.withLoader (s.loader.read (bytes16 v)).endSection)) := by
  obtain rfl := sectionNo_of_readingSection reading
  simp [exec, execTableEntryCheck, readingTable_of_readingSection table reading, h]

end

/-- Settles O20: a table entry is judged by the range of its table and the entry before, and a mesh entry by nothing. -/
theorem tableAndMeshEntries : Obligations.TableAndMeshEntries := by
  intro s settled
  refine ⟨fun n table v reading => ?_, fun sx sy reading => ?_⟩
  · intro l top low
    refine ⟨fun ⟨inRange, rises⟩ => ?_, fun bad => ?_⟩
    · exact (exec_tableEntryCheck_passes table reading (entryFailure_of_fits inRange rises)).trans
        (finish_settled (s := (s.withLoader l).withPix _) settled)
    · exact ⟨_, exec_tableEntryCheck_fails table reading (entryFailure_of_not_fits bad), failLoad_halts _ _,
        failLoad_loader _ _⟩
  · exact (congrArg finish (if_pos reading)).trans (finish_settled (s := (s.withLoader _).withPix _) settled)

end Sys2Proof.Machine
end

section
/-!
PROOFS. The settings of the image: what entries that pass the checks give (O19), and the end of the settings section (O18).
-/
namespace Sys2Proof.Machine

/-! ## The value of a setting (R177) -/

/-- A code that an entry holds has a value. -/
theorem exists_settingOf {es : Entries} {c : Nat} (h : c ∈ es.map (fun e => e.1.toNat)) :
    ∃ v, settingOf es c = some v := by
  obtain ⟨e, he, rfl⟩ := List.mem_map.1 h
  have found : (es.find? (fun x => x.1.toNat == e.1.toNat)).isSome := List.find?_isSome.2 ⟨e, he, beq_self_eq_true _⟩
  obtain ⟨x, hx⟩ := Option.isSome_iff_exists.1 found
  exact ⟨x.2.toNat, congrArg (Option.map _) hx⟩

/-- A value is that of an entry with its code. -/
theorem mem_of_settingOf {es : Entries} {c v : Nat} (h : settingOf es c = some v) :
    ∃ e ∈ es, e.1.toNat = c ∧ e.2.toNat = v := by
  obtain ⟨e, he, rfl⟩ := Option.map_eq_some_iff.1 h
  have code : (e.1.toNat == c) = true := List.find?_some (p := fun x : BitVec 8 × BitVec 32 => x.1.toNat == c) he
  exact ⟨e, List.mem_of_find?_eq_some he, beq_iff_eq.1 code, rfl⟩

theorem clampNat_mem {lo hi : Nat} (h : lo ≤ hi) (v : Nat) : lo ≤ clampNat lo hi v ∧ clampNat lo hi v ≤ hi := by
  unfold clampNat
  omega

/-- A ranged setting lies in its range once clamped, where its default does (R177). -/
theorem clamped_mem_range {es : Entries} {c d lo hi : Nat} (range : clampRange (required es 11) c = some (lo, hi))
    (hd : lo ≤ d ∧ d ≤ hi) : lo ≤ clamped es c d ∧ clamped es c d ≤ hi := by
  unfold clamped
  cases settingOf es c with
  | none => exact hd
  | some v =>
    rw [range]
    exact clampNat_mem (hd.1.trans hd.2) v

/-! ## Entries that pass the checks (R177, R178) -/

/-- The entries pass the checks of R177 and R178 on their values, for the strapped number `own`. -/
structure EntriesFit (own : Nat) (es : Entries) : Prop where
  present : ∀ c ∈ requiredCodes, c ∈ es.map (fun e => e.1.toNat)
  listed : ∀ e ∈ es, badEnumeration e = false
  roster : (required es 2).testBit own = true ∧ required es 2 < 4096
  sizes : (1 ≤ required es 3 ∧ required es 3 ≤ 2560) ∧ (1 ≤ required es 10 ∧ required es 10 ≤ 2560) ∧
    (1 ≤ required es 4 ∧ required es 4 ≤ 1600) ∧ 1 ≤ required es 11 ∧ required es 11 ≤ 1600
  totals : (required es 10 ≤ required es 12 ∧ required es 12 ≤ 65535) ∧
    required es 11 ≤ required es 13 ∧ required es 13 ≤ 65535
  rate : 1 ≤ required es 14 ∧ required es 14 ≤ 600000000
  period : 833333 ≤ tfNom (required es 12) (required es 13) (required es 14) ∧
    tfNom (required es 12) (required es 13) (required es 14) ≤ 4166667

theorem entriesFit_of_settingsFailure {own : Nat} {es : Entries} (h : settingsFailure own es = none) :
    EntriesFit own es := by
  have checks := firstFailure_eq_none.1 h
  simp only [List.forall_mem_cons, List.not_mem_nil, false_imp_iff, implies_true, and_true, Bool.or_eq_false_iff,
    List.any_eq_false, Bool.not_eq_false', Bool.not_eq_true, decide_eq_false_iff_not] at checks
  obtain ⟨-, present, listed, -, ⟨member, stations⟩, sizes, totals, rate, period⟩ := checks
  exact ⟨fun c hc => List.contains_iff_mem.1 (present c hc), listed, ⟨member, by omega⟩, by omega, by omega, by omega,
    by omega⟩

section
variable {own : Nat} {es : Entries} (fit : EntriesFit own es)
include fit

/-- The value of an enumerated setting is listed (R177). -/
theorem EntriesFit.settingOf_listed {c v : Nat} {vs : List Nat} (hv : settingOf es c = some v)
    (he : enumerated c = some vs) : v ∈ vs := by
  obtain ⟨e, mem, rfl, rfl⟩ := mem_of_settingOf hv
  have good := fit.listed e mem
  simpa [badEnumeration, he] using good

theorem EntriesFit.required_listed {c : Nat} {vs : List Nat} (hc : c ∈ requiredCodes) (he : enumerated c = some vs) :
    required es c ∈ vs := by
  obtain ⟨v, hv⟩ := exists_settingOf (fit.present c hc)
  unfold required
  rw [hv]
  exact fit.settingOf_listed hv he

/-- An enumerated setting that may be absent is listed, where its default is (R177). -/
theorem EntriesFit.clamped_listed {c d : Nat} {vs : List Nat} (he : enumerated c = some vs)
    (free : clampRange (required es 11) c = none) (hd : d ∈ vs) : clamped es c d ∈ vs := by
  unfold clamped
  cases hv : settingOf es c with
  | none => exact hd
  | some v =>
    rw [free]
    exact fit.settingOf_listed hv he

/-- The strapped station is in the roster that the settings give (R177). -/
theorem EntriesFit.own_mem_roster : (settingsFrom es).roster.getLsbD own = true := by
  obtain ⟨member, stations⟩ := fit.roster
  have inside : own < 12 := by
    by_contra outside
    have small : required es 2 < 2 ^ own := stations.trans_le (Nat.pow_le_pow_right (n := 2) two_pos (Nat.not_lt.1 outside))
    exact Bool.false_ne_true ((Nat.testBit_lt_two_pow small).symm.trans member)
  exact (BitVec.getLsbD_ofNat 12 _ own).trans (Bool.and_eq_true_iff.2 ⟨decide_eq_true inside, member⟩)

end

/-- Settles O19: each setting is one that the checks bound, one that its clamp bounds, or one of a list. -/
theorem acceptedSettingsInRange : Obligations.AcceptedSettingsInRange := by
  intro own es passes x
  have fit := entriesFit_of_settingsFailure passes
  obtain ⟨inWidth, width, inHeight, height⟩ := fit.sizes
  obtain ⟨hTotal, vTotal⟩ := fit.totals
  have format : x.inFormat ∈ [1, 2] := fit.required_listed (by decide) rfl
  have lanes : x.laneCount ∈ [1, 2, 4] := fit.required_listed (by decide) rfl
  have bus : x.busRate ∈ [1, 2] := fit.clamped_listed rfl rfl (by decide)
  have overrun : x.overrun ∈ [1, 2] := fit.clamped_listed rfl rfl (by decide)
  have ranged {c d lo hi : Nat} (range : clampRange (required es 11) c = some (lo, hi)) (hd : lo ≤ d ∧ d ≤ hi) :=
    clamped_mem_range range hd
  have patchLine : x.patchLine ≤ x.height - 1 := (ranged rfl ⟨le_refl 0, Nat.zero_le _⟩).2
  refine ⟨fit.own_mem_roster, inWidth, inHeight, by simpa using format, by simpa using lanes, ranged rfl (by decide),
    (ranged rfl (by decide)).2, (ranged rfl (by decide)).2, width, height, hTotal, vTotal, fit.rate, fit.period,
    ranged rfl (by decide), ranged rfl (by decide), ranged rfl (by decide), by simpa using bus, ranged rfl (by decide),
    ranged rfl (by decide), ranged rfl (by decide), ranged rfl (by decide), by simpa using overrun,
    ⟨(ranged rfl (by decide)).2, (ranged rfl (by decide)).2, (ranged rfl (by decide)).2, (ranged rfl (by decide)).2⟩,
    ?_, ranged rfl (by decide), ranged rfl (by decide), ranged rfl (by decide)⟩
  exact patchLine.trans_lt (Nat.sub_one_lt_of_lt height.1)

/-! ## A kind reported several times -/

theorem satInc_eq_min (top n : Nat) : satInc top n = min top (n + 1) := by
  unfold satInc
  split <;> omega

/-- Reports of one kind grow its counter by their number, up to 65535 (R185). -/
theorem foldl_report_counter (b : Block) (k : FaultKind) (ds : List Nat) {s : State} (sound : s.faults.sound)
    (kind : faultNumber k < 44) : (ds.foldl (fun t d => report b k d t) s).faults.counters.getD (faultNumber k) 0 =
      min 65535 (s.faults.counters.getD (faultNumber k) 0 + ds.length) := by
  induction ds generalizing s with
  | nil =>
    have bound := sound.2 _ (List.getElem_mem (n := faultNumber k) (sound.1.symm ▸ kind))
    simpa [List.getD_eq_getElem?_getD, List.getElem?_eq_getElem (sound.1.symm ▸ kind)] using bound
  | cons d rest ih =>
    obtain ⟨⟨counters, -, -⟩, -⟩ := report_keepsCounts b k d s
    have once : (report b k d s).faults.counters.getD (faultNumber k) 0 =
        min 65535 (s.faults.counters.getD (faultNumber k) 0 + 1) := by
      rw [report_counters, ← satInc_eq_min]
      simp [List.getD_eq_getElem?_getD, List.getElem?_eq_getElem (sound.1.symm ▸ kind)]
    rw [List.foldl_cons, ih (counters sound).1, once, List.length_cons]
    omega

/-! ## SETTINGS_SECTION_END -/

theorem length_entryBytes (es : Entries) : (entryBytes es).length = 5 * es.length := by
  induction es with
  | nil => rfl
  | cons e rest ih =>
    show (e.1 :: bytes32 e.2 ++ entryBytes rest).length = _
    rw [List.length_append, ih, List.length_cons (as := rest)]
    simp [bytes32]
    omega

section
variable {es : List (BitVec 8 × BitVec 32)} {s : State} (reading : readingSection 1 (5 * es.length) s = true)
  (last : s.loader.left = 5 * es.length)
include reading last

theorem exec_settingsSectionEnd_passes (h : settingsFailure s.own es = none) : exec (.settingsSectionEnd es) s =
    finish ((clampCodes es).foldl (fun t c => report .loader .imageClamp c t) (s.withLoader
      { (s.loader.read (entryBytes es)).endSection with
        settings := some (settingsFrom es), clamps := clampCodes es })) := by
  simp [exec, execSettingsSectionEnd, reading, last, h]

theorem exec_settingsSectionEnd_fails {code : Nat} (h : settingsFailure s.own es = some code) :
    exec (.settingsSectionEnd es) s =
      finish (failLoad code (s.withLoader (s.loader.read (entryBytes es)).endSection)) := by
  simp [exec, execSettingsSectionEnd, reading, last, h]

end

/-- Settles O18: entries that pass are taken with a report for each clamp, and the first check that fails halts the station. -/
theorem settingsTaken : Obligations.SettingsTaken := by
  intro es s settled sound reading last
  obtain ⟨-, -, body⟩ := readingSection_mono (le_refl _) reading
  refine ⟨fun passes => ?_, fun code fails => ?_⟩
  · let u := s.withLoader { (s.loader.read (entryBytes es)).endSection with
      settings := some (settingsFrom es), clamps := clampCodes es }
    have clamps := foldl_report_counter .loader .imageClamp (clampCodes es) (s := u) sound (by decide)
    obtain ⟨x, reports⟩ := foldl_faults (fun t c => report .loader .imageClamp c t) (fun _ _ => ⟨_, rfl⟩)
      (clampCodes es) u
    rw [reports] at clamps
    have run := exec_settingsSectionEnd_passes reading last passes
    rw [reports] at run
    refine ⟨_, run, ?_⟩
    rw [takeReports_loader, takeReports_counters]
    exact ⟨takeReports_eq _, body, rfl, rfl, congrArg (s.loader.bytes + ·) (length_entryBytes es), clamps⟩
  · refine ⟨_, exec_settingsSectionEnd_fails reading last fails, failLoad_halts _ _, ?_⟩
    rw [failLoad_loader, takeReports_settings, takeReports_agr]
    exact ⟨rfl, rfl, rfl, rfl, rfl⟩

end Sys2Proof.Machine
end

section
/-!
PROOFS. Every command answers a next state with its reports taken, and leaves the queue of the commands that wait (O2); one report
taken (O14).
-/
namespace Sys2Proof.Machine

/-! ## Operations that leave the queue of commands -/

/-- The queue of the commands that wait is in `t` what it is in `s`. -/
def KeepsPending (s t : State) : Prop := t.pending = s.pending

theorem KeepsPending.refl (s : State) : KeepsPending s s := rfl

theorem KeepsPending.trans {s t u : State} (h : KeepsPending s t) (g : KeepsPending t u) : KeepsPending s u := Eq.trans g h

/-- A conditional effect is that of the branch taken. -/
theorem KeepsPending.ite {s u v : State} {c : Prop} [Decidable c] (hu : KeepsPending s u) (hv : KeepsPending s v) :
    KeepsPending s (if c then u else v) := by
  split
  · exact hu
  · exact hv

/-- A change of the blocks alone, as the frames of the shared operations give it, leaves the queue. -/
theorem KeepsPending.of_blocks {s t : State} {ctl agr sol line port link store pix light loader settings faults maint}
    (h : t = ⟨s.pending, ctl, agr, sol, line, port, link, store, pix, light, loader, settings, faults, maint⟩) :
    KeepsPending s t := by
  rw [h]
  rfl

theorem LinkAlone.keepsPending {s t : State} (h : LinkAlone s t) : KeepsPending s t := by
  obtain ⟨l, y, x, h⟩ := h
  exact .of_blocks h

/-! ### The resets, the load and the halt -/

theorem failLoadIf_keepsPending (code : Option Nat) (s : State) : KeepsPending s (failLoadIf code s) := by
  cases code with
  | none => exact .refl s
  | some c => exact .refl s

/-- A start with the reset values has the queue that it is given, also where the straps halt the station (R173). -/
theorem strapCheck_keepsPending (s : State) : KeepsPending s (strapCheck s) := .ite (.refl s) (.refl s)

/-- A write of the maintenance port leaves the queue, also where it is a RESTART (R189). -/
theorem portWrite_keepsPending (b : Byte) (w : I2cWrite) (straps : BitVec 4) (s : State) :
    KeepsPending s (portWrite b w straps s) := by
  have note : ∀ acks u, KeepsPending u (noteWrite acks w u) := fun acks u => .ite (.refl u) (.refl u)
  refine KeepsPending.trans ?_ (note _ _)
  split
  · rename_i x _
    cases x with
    | restart => exact .ite (strapCheck_keepsPending _) (.refl s)
    | view | clearFaults | attnMask => exact .ite (.refl s) (.refl s)
  · exact .refl s

/-! ### The bus, the solver and the light monitor -/

theorem takeBody_keepsPending (i : Nat) (b : Body) (s : State) : KeepsPending s (takeBody i b s) := by
  obtain ⟨a, y, x, h⟩ := takeBody_frame i b s
  exact .of_blocks h

/-- A frame received leaves the queue, whatever the checks make of it (R31, R110 to R112). -/
theorem receiveFrame_keepsPending (f : BusFrame) (s : State) : KeepsPending s (receiveFrame f s) := by
  have counted : ∀ b u, KeepsPending u (offerCount b u) := fun b u => by
    obtain ⟨l, h⟩ := offerCount_frame b u
    exact .of_blocks h
  have heard : ∀ i, KeepsPending s (setHeard i s) := fun _ => .refl s
  refine .ite (.refl s) (.ite (.refl s) ?_)
  split
  · exact KeepsPending.refl s
  · exact .ite (.refl s) (((heard _).trans (takeBody_keepsPending _ _ _)).trans (counted _ _))

/-- An own message that completes leaves the queue (R116). -/
theorem completeMessage_keepsPending (m : Message) (s : State) :
    KeepsPending s (ownNotice m.body (takeBody s.own m.body (s.withPort (completedPort s.port m.body)))) := by
  have dropped : KeepsPending s (s.withPort (completedPort s.port m.body)) := .refl s
  obtain ⟨ps, k, w, h⟩ := ownNotice_frame m.body (takeBody s.own m.body (s.withPort (completedPort s.port m.body)))
  exact (dropped.trans (takeBody_keepsPending _ _ _)).trans (.of_blocks h)

theorem startJobs_keepsPending (s : State) : KeepsPending s (startJobs s) := by
  obtain ⟨e, y, p, x, h⟩ := startJobs_frame s
  exact .of_blocks h

theorem completeBounds_keepsPending (p : Pass) (s : State) : KeepsPending s (completeBounds p s) := by
  obtain ⟨e, y, q, x, h⟩ := completeBounds_frame p s
  exact .of_blocks h

theorem completeCoeff_keepsPending (p : Pass) (s : State) : KeepsPending s (completeCoeff p s) := by
  obtain ⟨e, y, x, h⟩ := completeCoeff_frame p s
  exact .of_blocks h

theorem queuePeriodic_keepsPending (s : State) : KeepsPending s (queuePeriodic s) := by
  obtain ⟨p, x, h⟩ := queuePeriodic_frame s
  exact .of_blocks h

theorem takeSample_keepsPending (v : Nat) (n : FrameNo) (s : State) : KeepsPending s (takeSample v n s) := by
  obtain ⟨w, x, h⟩ := takeSample_frame v n s
  exact .of_blocks h

/-! ### The frame start -/

/-- Each part of a working station's frame start leaves the queue (log 8). -/
theorem workingFrameStart_keepsPending (first : Stamp) (s : State) : KeepsPending s (workingFrameStart first s) := by
  have reads : KeepsPending s (endFrameReads s) := by
    obtain ⟨b, x, h⟩ := endFrameReads_frame s
    exact .of_blocks h
  have raster : ∀ u, KeepsPending u (rasterFrameStart first u) := fun u => by
    obtain ⟨x, h⟩ := rasterFrameStart_frame first u
    exact .of_blocks h
  have counts : ∀ u, KeepsPending u (frameCounts u) := fun u => by
    obtain ⟨p, l, x, h⟩ := frameCounts_frame u
    exact .of_blocks h
  have agreement : ∀ joining old u, KeepsPending u (frameAgreement joining old u) := fun joining old u => by
    obtain ⟨a, y, k, x, h⟩ := frameAgreement_frame joining old u
    exact .of_blocks h
  have changes : ∀ u, KeepsPending u (frameChanges u) := fun u => by
    obtain ⟨e, y, p, w, x, h⟩ := frameChanges_frame u
    exact .of_blocks h
  have jobs : ∀ u, KeepsPending u (frameJobs u) := fun u => by
    obtain ⟨e, y, p, x, h⟩ := frameJobs_frame u
    exact .of_blocks h
  have selection : ∀ u, KeepsPending u (selectContent u) := fun u => by
    obtain ⟨y, x, h⟩ := selectContent_frame u
    exact .of_blocks h
  have setup : ∀ u, KeepsPending u (setupStep u) := fun u => .of_blocks (setupStep_frame u)
  exact ((((((reads.trans (raster _)).trans (counts _)).trans (agreement _ _ _)).trans (changes _)).trans (jobs _)).trans
    (selection _)).trans (setup _)

/-! ## Every command -/

/-- Every command finishes an effect that leaves the queue of the commands that wait. -/
theorem exec_finishes (c : Instr) (s : State) : ∃ u, exec c s = finish u ∧ KeepsPending s u := by
  have kept := KeepsPending.refl s
  cases c with
  | powerOnReset => exact ⟨_, rfl, strapCheck_keepsPending _⟩
  | warmReset => exact ⟨_, rfl, strapCheck_keepsPending _⟩
  | imageHeaderCheck | sectionHeadCheck | tableEntryCheck =>
    refine ⟨_, rfl, .ite ?_ kept⟩
    dsimp only
    split <;> exact kept
  | settingsSectionEnd entries =>
    refine ⟨_, rfl, .ite ?_ kept⟩
    dsimp only
    split
    · exact kept
    · obtain ⟨x, h⟩ := foldl_faults (fun t c => report .loader .imageClamp c t) (fun _ _ => ⟨_, rfl⟩)
        (clampCodes entries) _
      exact .of_blocks h
  | gridRecordCheck =>
    refine ⟨_, rfl, .ite ?_ kept⟩
    split
    · exact kept
    · exact failLoadIf_keepsPending _ _
  | loadComplete =>
    refine ⟨_, rfl, .ite ?_ kept⟩
    split
    · exact .ite kept kept
    · exact kept
  | frameStart first => exact ⟨_, rfl, .ite kept (.ite (workingFrameStart_keepsPending first s) (.ite kept kept))⟩
  | frameLineEdge => exact ⟨_, rfl, kept⟩
  | frameLineRelease => exact ⟨_, rfl, .ite (State.withLine_pending s _) kept⟩
  | busIdleJoin | beginAttempt | lanesActive | settleExpiry | warpMeshEntryRead =>
    exact ⟨_, rfl, .ite kept kept⟩
  | boundsPassComplete =>
    refine ⟨_, rfl, ?_⟩
    split
    · exact .ite ((completeBounds_keepsPending _ s).trans (startJobs_keepsPending _)) kept
    · exact kept
  | coeffPassComplete =>
    refine ⟨_, rfl, ?_⟩
    split
    · exact .ite ((completeCoeff_keepsPending _ s).trans (startJobs_keepsPending _)) kept
    · exact kept
  | sendEvent => exact ⟨_, rfl, .ite (.ite (queuePeriodic_keepsPending _) kept) kept⟩
  | windowCompletion =>
    obtain ⟨l, x, h⟩ := completeWindow_frame s
    exact ⟨_, rfl, .ite (.of_blocks h) kept⟩
  | lostArbitration =>
    refine ⟨_, rfl, ?_⟩
    split
    · exact kept
    · exact .ite kept kept
  | attemptFailed =>
    refine ⟨_, rfl, ?_⟩
    split
    · exact kept
    · rename_i m _
      obtain ⟨p, x, working⟩ := failAttempt_frame m s
      obtain ⟨q, y, halted⟩ := failHaltedAttempt_frame m s
      exact .ite (.of_blocks working) (.of_blocks halted)
  | messageComplete =>
    refine ⟨_, rfl, ?_⟩
    split
    · exact kept
    · exact .ite (completeMessage_keepsPending _ s) kept
  | stationClash | foreignMessage | receiveChange | receiveLight | receivePulse | receiveBounds | receiveLevels
  | showFade | showIdentify | showIdentifyOff => exact ⟨_, rfl, receiveFrame_keepsPending _ s⟩
  | laneActivityLost lane received =>
    have bits : KeepsPending s (receiveBits received s) := (receiveBits_linkAlone received s).keepsPending
    refine ⟨_, rfl, .ite ?_ kept⟩
    dsimp only
    split
    · exact kept
    · exact bits
    · exact bits
    · exact (leaveUp_linkAlone s).keepsPending
  | trainingDecision =>
    refine ⟨_, rfl, .ite ?_ kept⟩
    split
    · exact kept
    · exact (linkUp_linkAlone s).keepsPending
  | inputTimeout => exact ⟨_, rfl, .ite (leaveUp_linkAlone _).keepsPending kept⟩
  | packetLost | laneSkew | frameStartPacket | linePacket | frameEndPacket | otherPacket | strayLinePacket =>
    exact ⟨_, rfl, (takeWords_linkAlone _ s).keepsPending⟩
  | memoryEcc line column =>
    refine ⟨_, rfl, ?_⟩
    split
    · rename_i f _
      split
      · rename_i slot _
        obtain ⟨y, x, h⟩ := eccReport_frame (s.withStore (s.store.withError (pixelAddress slot line column)))
        exact .ite (.of_blocks h) kept
      · exact kept
    · exact kept
  | lightSample =>
    exact ⟨_, rfl, .ite (.ite (takeSample_keepsPending _ _ s) (.ite (takeSample_keepsPending _ _ s) kept)) kept⟩
  | selectCondition | selectInput | selectStore | selectLock | selectPeers | selectEpochs | selectLevels | selectFaults
  | selectCounters | selectImage | clearFaults | restart | attnMask | selectorRefused =>
    exact ⟨_, rfl, portWrite_keepsPending _ _ _ s⟩
  | syncRecognised => exact ⟨_, rfl, .ite (receiveBits_linkAlone _ s).keepsPending kept⟩

/-- Settles O2: the outcome of each command's effect is the state in which its reports are taken. -/
theorem everyCommandSettles : Obligations.EveryCommandSettles := by
  intro c s
  obtain ⟨u, effect, queue⟩ := exec_finishes c s
  exact ⟨takeReports u, effect, takeReports_moment u, (takeReports_pending u).trans queue⟩

/-- Settles O14, by the lemma on one report of a settled state. -/
theorem reportIsTaken : Obligations.ReportIsTaken := fun b k d _ settled => takeReports_report settled b k d

end Sys2Proof.Machine
end

section
/-!
PROOFS. The writes of the maintenance port and the reads of its views (O60).
-/
namespace Sys2Proof.Machine

/-! ## Bytes of a number -/

/-- The number that bytes join to, behind a number `n`. -/
theorem foldl_beBytes (width n x : Nat) : (beBytes width x).foldl (fun n b => n * 256 + b.toNat) n =
    n * 256 ^ width + x % 256 ^ width := by
  induction width generalizing n with
  | zero => simp [beBytes, Nat.mod_one]
  | succ width ih =>
    rw [beBytes, List.foldl_cons, ih, Nat.pow_succ, Nat.mod_mul, BitVec.toNat_ofNat]
    ring

/-- A number is what its bytes join to, where it fits them. -/
theorem beValue_beBytes {width x : Nat} (h : x < 256 ^ width) : beValue (beBytes width x) = x := by
  rw [beValue, foldl_beBytes, Nat.zero_mul, Nat.zero_add, Nat.mod_eq_of_lt h]

@[simp] theorem beBytes_length (width x : Nat) : (beBytes width x).length = width := by
  induction width with
  | zero => rfl
  | succ width ih => rw [beBytes, List.length_cons, ih]

/-- The mask is what its eight bytes give (R192). -/
theorem maskOf_beBytes (m : BitVec 64) : maskOf (beBytes 8 m.toNat) = m := by
  rw [maskOf, beValue_beBytes m.isLt, BitVec.ofNat_toNat, BitVec.setWidth_eq]

/-! ## ATTN (R187) -/

/-- ATTN is asserted exactly where a kind is both pending and in the mask. -/
theorem attn_iff (s : State) :
    s.attn = true ↔ ∃ i < 44, s.faults.pending.getLsbD i = true ∧ s.faults.mask.getLsbD i = true := by
  have shared : ∀ i < 44, ((s.faults.pending &&& s.faults.mask).setWidth 44).getLsbD i = true ↔
      s.faults.pending.getLsbD i = true ∧ s.faults.mask.getLsbD i = true := fun i hi => by simp [hi]
  rw [State.attn, bne_iff_ne]
  constructor
  · intro asserted
    by_contra apart
    refine asserted (BitVec.eq_of_getLsbD_eq fun i hi => ?_)
    have unset := mt (shared i hi).1 fun both => apart ⟨i, hi, both⟩
    exact (Bool.eq_false_of_not_eq_true unset).trans BitVec.getLsbD_zero.symm
  · rintro ⟨i, hi, both⟩ clear
    have asserted := (shared i hi).2 both
    rw [clear] at asserted
    exact absurd asserted (Bool.eq_false_iff.1 BitVec.getLsbD_zero)

/-! ## The bytes after a selector (R189) -/

/-- The selector is acknowledged with its address, and so are the `k` bytes it calls for, and every byte beyond is refused. -/
theorem acks_of_calls (k n : Nat) : true :: true :: (List.range n).map (fun i => decide (i < k)) =
    List.replicate (2 + min k n) true ++ List.replicate (n - k) false := by
  have bytes : (List.range n).map (fun i => decide (i < k)) =
      List.replicate (min k n) true ++ List.replicate (n - k) false := by
    refine List.ext_getElem (by simp; omega) fun i inside _ => ?_
    rw [List.length_map, List.length_range] at inside
    simp only [List.getElem_map, List.getElem_range, List.getElem_append, List.getElem_replicate, List.length_replicate]
    split
    · exact decide_eq_true (by omega)
    · exact decide_eq_false (by omega)
  rw [bytes, Nat.add_comm 2]
  rfl

/-- A selector that calls for no byte has every byte after it refused. -/
theorem acks_of_no_calls (n : Nat) :
    true :: true :: (List.range n).map (fun i => decide (i < 0)) = true :: true :: List.replicate n false := by
  rw [acks_of_calls, Nat.zero_min]
  rfl

/-- A write of exactly the bytes called for has every byte acknowledged. -/
theorem acks_of_whole (n : Nat) :
    true :: true :: (List.range n).map (fun i => decide (i < n)) = List.replicate (2 + n) true := by
  rw [acks_of_calls, Nat.min_self, Nat.sub_self, List.replicate_zero, List.append_nil]

/-- A write that lacks the bytes called for, has more, or was broken off does not complete. -/
theorem writeCompletes_of_not {calls : Nat} {w : I2cWrite} (h : w.data.length ≠ calls ∨ w.brokenOff = true) :
    writeCompletes calls w = false := by
  obtain h | h := h <;> simp [writeCompletes, h]

/-- A write that ends with exactly the bytes called for completes. -/
theorem writeCompletes_whole {calls : Nat} {data : List Byte} (h : data.length = calls) :
    writeCompletes calls (wholeWrite data) = true := by
  simp [writeCompletes, wholeWrite, acknowledgesAddress, h]

/-! ## The outcome of a write -/

section
variable {b : Byte} {w : I2cWrite} {straps : BitVec 4} {s : State}

/-- A write of another address changes nothing. -/
theorem finish_portWrite_other (settled : s.settled) (h : w.address ≠ 0x46) : finish (portWrite b w straps s) = .next s := by
  rw [portWrite_other (beq_false_of_ne h)]
  exact finish_settled settled

/-- A command that completes and changes the fault unit alone has every byte of its write acknowledged. -/
theorem finish_portWrite_whole {x : Selector} {data : List Byte} {f : FaultUnit} (h : selectorOf b = some x)
    (whole : data.length = bytesCalled x) (effect : selectorEffect x (wholeWrite data) straps s = s.withFaults f)
    (taken : f.moment = []) : finish (portWrite b (wholeWrite data) straps s) = .next { s with
      faults := f, maint := { s.maint with acks := List.replicate (2 + data.length) true } } := by
  rw [portWrite_selector h rfl, effect, ← whole, ← acks_of_whole]
  exact finish_eq_next.2 (takeReports_of_settled taken)

variable (settled : s.settled)
include settled

/-- A CLEAR_FAULTS that completes clears the fault records (R191). -/
theorem exec_clearFaults_whole : exec (.clearFaults (wholeWrite [])) s = .next { s with
    faults := clearedFaults s.faults, maint := { s.maint with acks := [true, true] } } :=
  finish_portWrite_whole selectorOf_clearFaults rfl rfl settled

/-- An ATTN_MASK that completes replaces the mask (R192). -/
theorem exec_attnMask_whole {data : List Byte} (h : data.length = 8) : exec (.attnMask (wholeWrite data)) s = .next { s with
    faults := { s.faults with mask := maskOf data }, maint := { s.maint with acks := List.replicate 10 true } } := by
  have effect : selectorEffect .attnMask (wholeWrite data) s.loader.strapped s =
      s.withFaults { s.faults with mask := maskOf data } := if_pos (writeCompletes_whole h)
  have written := finish_portWrite_whole selectorOf_attnMask h effect settled
  rw [h] at written
  exact written

variable (address : acknowledgesAddress w.address = true)
include address

/-- A byte that is no selector changes the acknowledge bits alone. -/
theorem finish_portWrite_refused (h : isSelector b = false) : finish (portWrite b w straps s) =
    .next { s with maint := { s.maint with acks := true :: false :: List.replicate w.data.length false } } := by
  rw [portWrite_refused (Option.isNone_iff_eq_none.1 (Option.isSome_eq_false_iff.1 h)) address, List.map_const']
  exact finish_settled settled

/-- A view selector selects its view, whatever follows it. A read then gives the view byte by byte: the port's own state does not
show in a view (R190). -/
theorem finish_portWrite_view {n : Nat} {view : List Byte} (h : selectorOf b = some (.view n))
    (shown : ∀ m, viewBytes n (s.withMaint m) = view) :
    let t : State := { s with maint := ⟨n, true :: true :: List.replicate w.data.length false⟩ }
    finish (portWrite b w straps s) = .next t ∧ ∀ i, t.readByte i = view.getD i 0 := by
  have selects : selectorEffect (.view n) w straps s = s.withMaint { s.maint with view := n } := if_pos address
  refine ⟨?_, fun i => congrArg (fun v : List Byte => v.getD i 0) (shown _)⟩
  rw [portWrite_selector h address, selects, ← acks_of_no_calls]
  exact finish_settled settled

/-- A command whose write does not complete changes the acknowledge bits alone. -/
theorem finish_portWrite_incomplete {x : Selector} (h : selectorOf b = some x) (command : ∀ n, x ≠ .view n)
    (incomplete : w.data.length ≠ bytesCalled x ∨ w.brokenOff = true) : finish (portWrite b w straps s) =
    .next { s with maint := { s.maint with acks :=
      true :: true :: (List.range w.data.length).map (fun i => decide (i < bytesCalled x)) } } := by
  rw [portWrite_selector h address, selectorEffect_incomplete (writeCompletes_of_not incomplete) command]
  exact finish_settled settled

end

/-! ## The commands -/

/-- Settles O60: each command is the write of its selector byte, which selects a view, completes, is left incomplete, is refused,
or is not the part's, each by its lemma; ATTN follows the two sets by `attn_iff`. -/
theorem maintenanceCommands : Obligations.MaintenanceCommands := by
  refine ⟨fun data cut s settled => ?_, fun s settled => ⟨?_, fun data cut straps broken => ?_, fun m => ?_,
    fun data cut broken => ?_, fun b w unknown address => ?_, fun w => ⟨rfl, rfl, rfl⟩, fun w straps b other => ?_⟩⟩
  · intro w acks
    have read {b : Byte} (h : 1 ≤ b.toNat ∧ b.toNat ≤ 10) {view : List Byte}
        (shown : ∀ m, viewBytes b.toNat (s.withMaint m) = view) :=
      finish_portWrite_view (w := w) (straps := s.loader.strapped) settled rfl (selectorOf_view h) shown
    simp only [List.forall_mem_cons, List.not_mem_nil, false_implies, implies_true, and_true]
    exact ⟨read (b := 1) (by decide) fun _ => rfl, read (b := 2) (by decide) fun _ => rfl,
      read (b := 3) (by decide) fun _ => rfl, read (b := 4) (by decide) fun _ => rfl,
      read (b := 5) (by decide) fun _ => rfl, read (b := 6) (by decide) fun _ => rfl,
      read (b := 7) (by decide) fun _ => rfl, read (b := 8) (by decide) fun _ => rfl,
      read (b := 9) (by decide) fun _ => rfl, read (b := 10) (by decide) fun _ => rfl⟩
  · refine ⟨_, exec_clearFaults_whole settled, rfl, ?_⟩
    rw [← Bool.not_eq_true, attn_iff]
    rintro ⟨i, -, pending, -⟩
    exact absurd pending (Bool.eq_false_iff.1 BitVec.getLsbD_zero)
  · intro w acks
    have incomplete : w.data.length ≠ 0 ∨ w.brokenOff = true := broken.imp_left (mt List.length_eq_zero_iff.1)
    rw [show acks = _ from (acks_of_no_calls data.length).symm]
    exact ⟨finish_portWrite_incomplete settled rfl selectorOf_clearFaults (fun _ => Selector.noConfusion) incomplete,
      finish_portWrite_incomplete settled rfl selectorOf_restart (fun _ => Selector.noConfusion) incomplete⟩
  · have mask := exec_attnMask_whole settled (beBytes_length 8 m.toNat)
    rw [maskOf_beBytes] at mask
    exact ⟨_, mask, rfl, attn_iff _⟩
  · rw [← acks_of_calls]
    exact finish_portWrite_incomplete (w := { wholeWrite data with brokenOff := cut }) settled rfl selectorOf_attnMask
      (fun _ => Selector.noConfusion) broken
  · exact finish_portWrite_refused settled (beq_iff_eq.2 address) unknown
  · have same {c : Byte} {straps} := finish_portWrite_other (b := c) (straps := straps) settled other
    simp only [List.forall_mem_cons, List.not_mem_nil, false_implies, implies_true, and_true]
    exact ⟨same, same, same, same, same, same, same, same, same, same, same, same, same, same⟩

end Sys2Proof.Machine
end

section
/-!
PROOFS. The fields of the blocks after power-on reset (O3).
-/
namespace Sys2Proof.Machine

/-! ## The blocks with the reset values -/

/-- Every record of the peer table is empty, but for the own light factor 1.0 from EPOCH (R33, R47). -/
theorem resetAgreement_peer (own : Nat) {i : Nat} (hi : i < 12) : (resetAgreement own).peer i =
    { emptyPeer with factor := if i = own then some { lam := 16384, source := .epoch } else none } := by
  have record : (resetAgreement own).peer i =
      if i = own then { emptyPeer with factor := some { lam := 16384, source := .epoch } } else emptyPeer := by
    simp [Agreement.peer, resetAgreement, emptyPeers, hi]
  rw [record]
  split <;> rfl

/-- Each bank lists no node, so that every node reads zero (R73, log 5). -/
theorem resetSolver_coeffs (b : Nat) : (resetSolver.bankNo b).coeffs = [] := by
  unfold Solver.bankNo
  split <;> rfl

theorem nodeK_of_coeffs_nil {s : State} {b : Nat} (h : (s.sol.bankNo b).coeffs = []) (c r : Nat) : nodeK s b c r = 0 := by
  rw [nodeK, h]
  rfl

theorem nodeA_of_coeffs_nil {s : State} {b : Nat} (h : (s.sol.bankNo b).coeffs = []) (c r : Nat) : nodeA s b c r = 0 := by
  rw [nodeA, h]
  rfl

/-- No lane has counted a training bit (R119). -/
theorem resetLink_lanes {x : Lane} (hx : x ∈ resetLink.lanes) : x.checked = 0 ∧ x.mismatched = 0 := by
  obtain rfl : x = freshLane := List.eq_of_mem_replicate hx
  exact ⟨rfl, rfl⟩

/-- With no kind pending, ATTN is released whatever the mask (R187). -/
theorem attn_of_no_pending {s : State} (h : s.faults.pending = 0) : s.attn = false := by
  rw [← Bool.not_eq_true, attn_iff, h]
  rintro ⟨i, -, pending, -⟩
  exact absurd pending (Bool.eq_false_iff.1 BitVec.getLsbD_zero)

/-! ## The reset state -/

/-- Settles O3: each block of the reset state is the block with its reset values, whose plain fields are read off; the peer
table, the banks, the lanes and ATTN by their lemmas. -/
theorem resetValues : Obligations.ResetValues := by
  unfold Obligations.ResetValues
  intro s
  have controller : s.ctl = ⟨.start, 0, 0, 0, 0⟩ := rfl
  have peers : ∀ i < 12, s.agr.peer i =
      ⟨false, none, 0, 0, none, if i = s.own then some ⟨16384, .epoch⟩ else none, none⟩ :=
    fun _ hi => resetAgreement_peer s.own hi
  have nodes : ∀ b i j, nodeK s b i j = 0 ∧ nodeA s b i j = 0 := fun b i j =>
    ⟨nodeK_of_coeffs_nil (resetSolver_coeffs b) i j, nodeA_of_coeffs_nil (resetSolver_coeffs b) i j⟩
  have lanes : ∀ x ∈ s.link.lanes, x.checked = 0 ∧ x.mismatched = 0 := fun _ => resetLink_lanes
  have light : s.light = ⟨none, none, 0, 0, false, 16384, .unknown, 0, 0⟩ := rfl
  have attn : s.attn = false := attn_of_no_pending rfl
  refine ⟨controller, ⟨rfl, rfl, rfl, rfl, rfl, rfl, rfl, rfl, peers⟩, ⟨rfl, rfl, rfl, rfl, rfl, nodes⟩, ?line, ?port,
    ⟨rfl, lanes, rfl, rfl, rfl, rfl, rfl⟩, ?store, rfl, light, ?loader, ⟨rfl, rfl, rfl, rfl, rfl, attn⟩, rfl⟩
  case line => exact ⟨rfl, rfl, rfl, rfl, rfl, rfl, rfl, rfl, rfl, rfl, rfl, rfl, rfl, rfl, rfl, rfl⟩
  case port => exact ⟨rfl, rfl, rfl, rfl, rfl, rfl, rfl, rfl, rfl, rfl⟩
  case store => exact ⟨rfl, rfl, rfl, rfl, rfl⟩
  case loader => exact ⟨rfl, rfl, rfl, rfl, rfl, rfl, rfl⟩

end Sys2Proof.Machine
end
